-- ==== Sys2Proof/Word.lean ====
section
/-! DEFINITION. Word types of the Zumas Z4 and their plainest arithmetic (R50, R73, R114, R217; every layout is little-endian). -/

namespace Sys2Proof

/-- One byte of memory. -/
abbrev Byte := BitVec 8
/-- A 32-bit memory word, token lane or instruction word (R73, R217). -/
abbrev W32 := BitVec 32
/-- A control-thread register (R114). -/
abbrev W64 := BitVec 64
/-- A 64-byte line, or the VAL field of a token (R217). -/
abbrev Line := BitVec 512
/-- A register number of one bank (R74). -/
abbrev Reg := Fin 32

/-- Bits `lo` to `lo + len - 1` of a number (the manual's `hi:lo`). -/
def bits (w lo len : Nat) : Nat := w / 2 ^ lo % 2 ^ len

/-- One bit of a number. -/
def bitAt (w i : Nat) : Bool := w / 2 ^ i % 2 == 1

/-- A Bool as the number a bit field holds. -/
def b2n (b : Bool) : Nat := if b then 1 else 0

/-- Sign extension of an `n`-bit field to 64 bits (R83, R84). -/
def sext64 {n : Nat} (x : BitVec n) : W64 := x.signExtend 64

/-- Zero extension to 64 bits (R83). -/
def zext64 {n : Nat} (x : BitVec n) : W64 := x.setWidth 64

end Sys2Proof
end

