-- ==== Sys2Proof/Syntax.lean ====
section
/-! DEFINITION. The instructions of the control thread and the steps of the device, one constructor of `Instr` for each row of spec/opcode_table.json. Field names are those of R73; register fields are numbers of the bank that R74 gives. -/

namespace Sys2Proof

/-- R format with three operands and the flags QD, QA, QB (R75). -/
structure R3 where
  d : Reg
  a : Reg
  b : Reg
  qd : Bool
  qa : Bool
  qb : Bool
deriving DecidableEq, Repr

/-- R format of a function that also reads d: QD is 0 (R75). -/
structure RT where
  d : Reg
  a : Reg
  b : Reg
  qa : Bool
  qb : Bool
deriving DecidableEq, Repr

/-- R format with one source (R80, R81). -/
structure R2 where
  d : Reg
  a : Reg
  qd : Bool
  qa : Bool
deriving DecidableEq, Repr

/-- R format of an atomic: QA is 0 (R82, R75). -/
structure RA where
  d : Reg
  a : Reg
  b : Reg
  qd : Bool
  qb : Bool
deriving DecidableEq, Repr

/-- R format of ACAS: QD and QA are 0 (R82, R75). -/
structure RC where
  d : Reg
  a : Reg
  b : Reg
  qb : Bool
deriving DecidableEq, Repr

/-- I format (R83, R84). -/
structure I3 where
  d : Reg
  a : Reg
  imm : BitVec 16
deriving DecidableEq, Repr

/-- I format of a shift (R83). -/
structure Sh where
  d : Reg
  a : Reg
  n : Fin 64
deriving DecidableEq, Repr

/-- I format of a bit-field function (R83, R138). -/
structure Bf where
  d : Reg
  a : Reg
  off : Fin 256
  wid : Fin 256
deriving DecidableEq, Repr

/-- S format with F1, F2 and F3 (R88, R89). -/
structure S3 where
  d : Reg
  a : Reg
  b : Reg
deriving DecidableEq, Repr

/-- S format with F1 and F2 (R88, R89). -/
structure S2 where
  d : Reg
  a : Reg
deriving DecidableEq, Repr

/-- B format (R73, R85). -/
structure Br where
  a : Reg
  b : Reg
  off : BitVec 13
deriving DecidableEq, Repr

/-- A port identifier of R99: PLACE 0 CU, 1 MX, 2 MU, 3 AX, 4 N, 5 E, 6 S, 7 W, and the port number. -/
structure PortId where
  place : Nat
  port : Nat
deriving DecidableEq, Repr

/-- What an ELEMENT_FIRE moves (R219): the token held in a producer's output register, or the head of a route
destination that leads to the adjacent cell's switch, or a feeder's value into the reduction tree (R189). -/
inductive Mover where
  | emit (p : PortId)
  | hop (tile entry dst : Nat)
  | treeTake
deriving DecidableEq, Repr

/-- A link of the package: between two dies (R29), or a ZLK port (R30). -/
inductive LinkId where
  | die (a b : Nat)
  | zlk (port : Nat)
deriving DecidableEq, Repr

/-- An inbound transfer of a peer package (R442). -/
inductive Zlk where
  | msg (pkg srcInst dstInst : Nat) (tag : BitVec 16) (words : List W64)
  | nwr (d page off len : Nat) (v : W64)
  | memWrite (pa len : Nat) (v : W64)
  | memRead (pa len : Nat)
deriving DecidableEq, Repr

/-- A best-effort request that reaches a memory slice (R408): its process, the holder whose agent made it, none for a queue's packet,
and the network port it came from; or none, for a turn in which the slice serves one that waits. -/
structure SliceReq where
  pid : Nat
  inst : Option Nat
  port : Nat
  turn : Bool := false
deriving DecidableEq, Repr

/-- Where an uncorrectable error strikes (R427, R317, R307). -/
inductive ErrSite where
  | region (h c : Nat)
  | mac (h c m : Nat)
  | thread (h : Nat)
  | memLine (pa : Nat)
  | scratchLine (d cell off : Nat)
  | chainLine (ch k n : Nat)
deriving DecidableEq, Repr

/-- The instructions of R79 to R90 and the steps of spec/95_what_each_step_holds.md. In a step, `h` is the INST of a
holder, `c` a cell of its region in column-major order, `d` a die, `ch` a chain id. -/
inductive Instr where
  /-- ADD_E (R135). E-unit 64-bit add of s-registers a and b into d, with optional queue operands. -/
  | addE (f : R3)
  /-- SUB_E (R135). E-unit 64-bit subtract a minus b into d. -/
  | subE (f : R3)
  /-- AND_E (R135). E-unit bitwise AND of a and b into d. -/
  | andE (f : R3)
  /-- OR_E (R135). E-unit bitwise OR of a and b into d. -/
  | orE (f : R3)
  /-- XOR_E (R135). E-unit bitwise XOR of a and b into d. -/
  | xorE (f : R3)
  /-- ANDN_E (R135). E-unit a AND NOT b into d. -/
  | andnE (f : R3)
  /-- SLL_E (R135). E-unit shift left of a by b bits 5:0. -/
  | sllE (f : R3)
  /-- SRL_E (R135). E-unit logical shift right of a by b bits 5:0. -/
  | srlE (f : R3)
  /-- SRA_E (R135). E-unit arithmetic shift right of a by b bits 5:0. -/
  | sraE (f : R3)
  /-- ROL (R135). E-unit rotate left of a by b bits 5:0. -/
  | rol (f : R3)
  /-- ROR (R135). E-unit rotate right of a by b bits 5:0. -/
  | ror (f : R3)
  /-- MUL_E (R135). E-unit low 64 bits of the product of a and b. -/
  | mulE (f : R3)
  /-- MULH (R135). E-unit high 64 bits of the signed product. -/
  | mulh (f : R3)
  /-- MULHU (R135). E-unit high 64 bits of the unsigned product. -/
  | mulhu (f : R3)
  /-- DIV (R136). E-unit signed division rounding toward zero, never trapping. -/
  | div (f : R3)
  /-- DIVU (R136). E-unit unsigned division. -/
  | divu (f : R3)
  /-- REM (R136). E-unit signed remainder with the sign of a. -/
  | rem (f : R3)
  /-- REMU (R136). E-unit unsigned remainder. -/
  | remu (f : R3)
  /-- MIN_E (R135). E-unit signed minimum. -/
  | minE (f : R3)
  /-- MAX_E (R135). E-unit signed maximum. -/
  | maxE (f : R3)
  /-- MINU_E (R135). E-unit unsigned minimum. -/
  | minuE (f : R3)
  /-- MAXU_E (R135). E-unit unsigned maximum. -/
  | maxuE (f : R3)
  /-- SEQ_E (R135). E-unit set d to 1 if a equals b. -/
  | seqE (f : R3)
  /-- SNE_E (R135). E-unit set d to 1 if a differs from b. -/
  | sneE (f : R3)
  /-- SLT_E (R135). E-unit signed less-than compare. -/
  | sltE (f : R3)
  /-- SLTU_E (R135). E-unit unsigned less-than compare. -/
  | sltuE (f : R3)
  /-- SEL (R135). E-unit select a if d is non-zero else b, reading d first. -/
  | sel (f : RT)
  /-- CLZ (R135). E-unit count of leading zero bits of a. -/
  | clz (f : R2)
  /-- POPC (R135). E-unit count of one bits of a. -/
  | popc (f : R2)
  /-- BFX (R138). E-unit bit-field extract with offset and width from b. -/
  | bfx (f : R3)
  /-- BFI (R138). E-unit bit-field insert of a into d with offset and width from b. -/
  | bfi (f : RT)
  /-- MOV_E (R135). E-unit copy of a into d. -/
  | movE (f : R2)
  /-- SXB (R135). E-unit sign extension from bit 7. -/
  | sxb (f : R2)
  /-- SXH (R135). E-unit sign extension from bit 15. -/
  | sxh (f : R2)
  /-- SXW (R135). E-unit sign extension from bit 31. -/
  | sxw (f : R2)
  /-- ADD_A (R135). A-unit 64-bit add of a-registers. -/
  | addA (f : R3)
  /-- SUB_A (R135). A-unit 64-bit subtract. -/
  | subA (f : R3)
  /-- AND_A (R135). A-unit bitwise AND. -/
  | andA (f : R3)
  /-- OR_A (R135). A-unit bitwise OR. -/
  | orA (f : R3)
  /-- XOR_A (R135). A-unit bitwise XOR. -/
  | xorA (f : R3)
  /-- ANDN_A (R135). A-unit a AND NOT b. -/
  | andnA (f : R3)
  /-- SLL_A (R135). A-unit shift left. -/
  | sllA (f : R3)
  /-- SRL_A (R135). A-unit logical shift right. -/
  | srlA (f : R3)
  /-- SRA_A (R135). A-unit arithmetic shift right. -/
  | sraA (f : R3)
  /-- MUL_A (R135). A-unit low 64 bits of the product. -/
  | mulA (f : R3)
  /-- MIN_A (R135). A-unit signed minimum. -/
  | minA (f : R3)
  /-- MAX_A (R135). A-unit signed maximum. -/
  | maxA (f : R3)
  /-- MINU_A (R135). A-unit unsigned minimum. -/
  | minuA (f : R3)
  /-- MAXU_A (R135). A-unit unsigned maximum. -/
  | maxuA (f : R3)
  /-- SEQ_A (R135). A-unit equality compare. -/
  | seqA (f : R3)
  /-- SNE_A (R135). A-unit inequality compare. -/
  | sneA (f : R3)
  /-- SLT_A (R135). A-unit signed less-than compare. -/
  | sltA (f : R3)
  /-- SLTU_A (R135). A-unit unsigned less-than compare. -/
  | sltuA (f : R3)
  /-- MOV_A (R135). A-unit copy of a into d. -/
  | movA (f : R2)
  /-- FADD (R140). E-unit FP32 add rounded once. -/
  | fadd (f : R3)
  /-- FSUB (R140). E-unit FP32 subtract. -/
  | fsub (f : R3)
  /-- FMUL (R140). E-unit FP32 multiply. -/
  | fmul (f : R3)
  /-- FMA (R140). E-unit fused d + a × b, rounded once. -/
  | fma (f : RT)
  /-- FMIN (R140). E-unit FP32 minimum with NaN rules. -/
  | fmin (f : R3)
  /-- FMAX (R140). E-unit FP32 maximum with NaN rules. -/
  | fmax (f : R3)
  /-- FEQ (R140). E-unit FP32 equality compare. -/
  | feq (f : R3)
  /-- FLT (R140). E-unit FP32 less-than compare. -/
  | flt (f : R3)
  /-- FLE (R140). E-unit FP32 less-or-equal compare. -/
  | fle (f : R3)
  /-- FABS (R140). E-unit FP32 absolute value. -/
  | fabs (f : R2)
  /-- FNEG (R140). E-unit FP32 sign inversion. -/
  | fneg (f : R2)
  /-- FTOI (R140). E-unit FP32 to INT32 under RNE with saturation. -/
  | ftoi (f : R2)
  /-- FTOIZ (R140). E-unit FP32 to INT32 under RTZ with saturation. -/
  | ftoiz (f : R2)
  /-- FTOL (R140). E-unit FP32 to INT64 under RNE. -/
  | ftol (f : R2)
  /-- FTOLZ (R140). E-unit FP32 to INT64 under RTZ. -/
  | ftolz (f : R2)
  /-- ITOF (R140). E-unit INT32 to FP32. -/
  | itof (f : R2)
  /-- LTOF (R140). E-unit INT64 to FP32. -/
  | ltof (f : R2)
  /-- FTOBF (R140). E-unit FP32 to BF16. -/
  | ftobf (f : R2)
  /-- FTOH (R140). E-unit FP32 to FP16. -/
  | ftoh (f : R2)
  /-- BFTOF (R140). E-unit BF16 to FP32 exactly. -/
  | bftof (f : R2)
  /-- HTOF (R140). E-unit FP16 to FP32 exactly. -/
  | htof (f : R2)
  /-- AADD_W (R301). 32-bit atomic add returning the old value. -/
  | aaddW (f : RA)
  /-- AADD_D (R301). 64-bit atomic add returning the old value. -/
  | aaddD (f : RA)
  /-- AMIN_W (R301). 32-bit atomic signed minimum. -/
  | aminW (f : RA)
  /-- AMIN_D (R301). 64-bit atomic signed minimum. -/
  | aminD (f : RA)
  /-- AMAX_W (R301). 32-bit atomic signed maximum. -/
  | amaxW (f : RA)
  /-- AMAX_D (R301). 64-bit atomic signed maximum. -/
  | amaxD (f : RA)
  /-- AXCHG_W (R301). 32-bit atomic exchange. -/
  | axchgW (f : RA)
  /-- AXCHG_D (R301). 64-bit atomic exchange. -/
  | axchgD (f : RA)
  /-- ACAS_W (R301). 32-bit atomic compare-and-swap against d. -/
  | acasW (f : RC)
  /-- ACAS_D (R301). 64-bit atomic compare-and-swap against d. -/
  | acasD (f : RC)
  /-- ADDI_E (R137). E-unit add of a sign-extended immediate. -/
  | addiE (f : I3)
  /-- ANDI_E (R137). E-unit AND with a zero-extended immediate. -/
  | andiE (f : I3)
  /-- ORI_E (R137). E-unit OR with a zero-extended immediate. -/
  | oriE (f : I3)
  /-- XORI_E (R137). E-unit XOR with a zero-extended immediate. -/
  | xoriE (f : I3)
  /-- SLTI_E (R137). E-unit signed compare with an immediate. -/
  | sltiE (f : I3)
  /-- SLTIU_E (R137). E-unit unsigned compare with a sign-extended immediate. -/
  | sltiuE (f : I3)
  /-- MOVI_E (R137). E-unit load of a sign-extended immediate. -/
  | moviE (d : Reg) (imm : BitVec 16)
  /-- MOVHI_E (R137). E-unit load of an immediate shifted left by 32. -/
  | movhiE (d : Reg) (imm : BitVec 16)
  /-- SLLI_E (R137). E-unit shift left by an immediate amount. -/
  | slliE (f : Sh)
  /-- SRLI_E (R137). E-unit logical shift right by an immediate amount. -/
  | srliE (f : Sh)
  /-- SRAI_E (R137). E-unit arithmetic shift right by an immediate amount. -/
  | sraiE (f : Sh)
  /-- BFXI (R138). E-unit bit-field extract with immediate offset and width. -/
  | bfxi (f : Bf)
  /-- BFII (R138). E-unit bit-field insert with immediate offset and width. -/
  | bfii (f : Bf)
  /-- ADDI_A (R137). A-unit add of a sign-extended immediate. -/
  | addiA (f : I3)
  /-- ANDI_A (R137). A-unit AND with a zero-extended immediate. -/
  | andiA (f : I3)
  /-- ORI_A (R137). A-unit OR with a zero-extended immediate. -/
  | oriA (f : I3)
  /-- XORI_A (R137). A-unit XOR with a zero-extended immediate. -/
  | xoriA (f : I3)
  /-- SLTI_A (R137). A-unit signed compare with an immediate. -/
  | sltiA (f : I3)
  /-- SLTIU_A (R137). A-unit unsigned compare with an immediate. -/
  | sltiuA (f : I3)
  /-- MOVI_A (R137). A-unit load of a sign-extended immediate. -/
  | moviA (d : Reg) (imm : BitVec 16)
  /-- MOVHI_A (R137). A-unit load of an immediate shifted left by 32. -/
  | movhiA (d : Reg) (imm : BitVec 16)
  /-- SLLI_A (R137). A-unit shift left by an immediate amount. -/
  | slliA (f : Sh)
  /-- SRLI_A (R137). A-unit logical shift right by an immediate amount. -/
  | srliA (f : Sh)
  /-- SRAI_A (R137). A-unit arithmetic shift right by an immediate amount. -/
  | sraiA (f : Sh)
  /-- LD_B (R300). Load one byte, zero-extended, to an a-register or LQ. -/
  | ldB (f : I3)
  /-- LD_H (R300). Load two bytes, zero-extended. -/
  | ldH (f : I3)
  /-- LD_W (R300). Load four bytes, zero-extended. -/
  | ldW (f : I3)
  /-- LD_D (R300). Load eight bytes. -/
  | ldD (f : I3)
  /-- ST_B (R300). Store one byte from an a-register. -/
  | stB (f : I3)
  /-- ST_H (R300). Store two bytes from an a-register. -/
  | stH (f : I3)
  /-- ST_W (R300). Store four bytes from an a-register. -/
  | stW (f : I3)
  /-- ST_D (R300). Store eight bytes from an a-register. -/
  | stD (f : I3)
  /-- ST_B_SQ (R300). Store one byte popped from SQ. -/
  | stBSq (a : Reg) (imm : BitVec 16)
  /-- ST_H_SQ (R300). Store two bytes popped from SQ. -/
  | stHSq (a : Reg) (imm : BitVec 16)
  /-- ST_W_SQ (R300). Store four bytes popped from SQ. -/
  | stWSq (a : Reg) (imm : BitVec 16)
  /-- ST_D_SQ (R300). Store eight bytes popped from SQ. -/
  | stDSq (a : Reg) (imm : BitVec 16)
  /-- XFENCE (R299). Orders the agent's accesses across the named path classes and clears open combining entries. -/
  | xfence (mask : BitVec 6)
  /-- ACQ (R304). Acquires a sync object at the given scope. -/
  | acq (a : Reg) (scope : Fin 8)
  /-- REL (R304). Releases a sync object after bound writes are accepted, incrementing GEN. -/
  | rel (a : Reg) (scope : Fin 8)
  /-- PBAR (R327). Closes the current persist epoch on the named classes. -/
  | pbar (mask : BitVec 6)
  /-- PSYNC (R327). Waits until preceding durable stores on the named classes are durable. -/
  | psync (mask : BitVec 6)
  /-- CHLINK (R322). Creates or adopts a chain from a descriptor and returns its id. -/
  | chlink (f : S3)
  /-- CHDROP (R322). Drops a chain link and re-links the chain. -/
  | chdrop (f : S3)
  /-- CHADD (R322). Starts adding a new tail link to a chain. -/
  | chadd (f : S3)
  /-- CHSTAT (R322). Returns a chain's status word. -/
  | chstat (f : S2)
  /-- CHFREE (R322). Drains and frees a chain. -/
  | chfree (f : S2)
  /-- SBIND_G (R229). Binds an endpoint for the next phase as a guaranteed stream, with admission. -/
  | sbindG (f : S3) (ep : Fin 32)
  /-- SBIND_BE (R229). Binds an endpoint for the next phase as best effort. -/
  | sbindBe (f : S3) (ep : Fin 32)
  /-- SGO (R230). Starts a phase: sets RUN, starts bound endpoints and sends EOS on unbound IN endpoints. -/
  | sgo
  /-- SEOS (R231). Ends an IN endpoint's segment early. -/
  | seos (ep : Fin 32)
  /-- SBAR (R232). Waits until SSTAT.RUN is 0. -/
  | sbar
  /-- SCFG (R233). Queues configuration frames at an IN endpoint for the next SGO. -/
  | scfg (a b : Reg) (ep : Fin 32)
  /-- TLOOK (R373). Looks up a key in a cell's tag table or names a victim. -/
  | tlook (f : S3)
  /-- TFILL (R373). Fills a tag-table entry with a key. -/
  | tfill (f : S3)
  /-- TEVICT (R373). Invalidates a tag-table entry unless pinned. -/
  | tevict (f : S2)
  /-- TPIN (R373). Sets or clears the pin of a tag-table entry. -/
  | tpin (f : S3)
  /-- BCOPY (R259). Starts a bulk copy on the BK path and returns a handle. -/
  | bcopy (f : S3) (c : Reg)
  /-- BWAIT (R260). Waits for one or all copy handles, trapping BULK on a failed one. -/
  | bwait (a : Reg)
  /-- QPUSH (R225). Sends one word along a channel port's link. -/
  | qpush (x : Reg) (bank : Bool) (p : Fin 16)
  /-- QPOP (R226). Takes one word from a channel port, waiting if empty. -/
  | qpop (x : Reg) (bank : Bool) (p : Fin 16)
  /-- SEND (R251). Sends 1 to 8 words as a tagged message and waits for the agent's answer. -/
  | send (f : S3) (n1 : Fin 8)
  /-- RECV (R252). Posts a receive on a port. -/
  | recv (f : S3) (p : Fin 16)
  /-- RECVW (R252). Posts a receive and waits until it is matched. -/
  | recvw (f : S3) (p : Fin 16)
  /-- CALL (R347). Places a callee from the Function Table and passes its arguments. -/
  | call (f : S3) (n : Fin 32)
  /-- RET (R349). Ends an instance, returning its result words and releasing its region. -/
  | ret (x : Reg) (n : Fin 32) (bank : Bool)
  /-- WAITC (R350). Waits while named ports are CHILD. -/
  | waitc (f : S2)
  /-- CANCEL (R351). Reclaims a call subtree. -/
  | cancel (f : S2)
  /-- GBAR (R352). Gang barrier across live members. -/
  | gbar
  /-- TSUB (R390). Admits a run of TCBs after the thread's earlier writes are accepted. -/
  | tsub (f : S2)
  /-- TDEC (R390). Decrements a TCB's predecessor counter. -/
  | tdec (f : S2)
  /-- SIGADD (R392). Adds to a signal word as a release at the given scope. -/
  | sigadd (a b : Reg) (scope : Fin 8)
  /-- SIGWAIT (R393). Waits for a signal condition and acquires at the given scope. -/
  | sigwait (f : S3) (scope : Fin 8)
  /-- RALLOC (R370). Allocates an instance-scoped region from the arena. -/
  | ralloc (f : S3)
  /-- RFREE (R370). Frees an instance-scoped region. -/
  | rfree (f : S2)
  /-- RFORK (R368). Maps a destination range onto a source range's frames with copy-on-write. -/
  | rfork (f : S3) (c : Reg)
  /-- NOP (R149). No effect. -/
  | nop
  /-- MFS (R146). Copies a special register to an a- or s-register. -/
  | mfs (x : Reg) (sr : Fin 32) (bank : Bool)
  /-- MTS (R148). Writes a writable special register. -/
  | mts (sr : Fin 32) (x : Reg) (bank : Bool)
  /-- TRAP (R149). Raises cause TRAP with a code. -/
  | trap (code : BitVec 10)
  /-- ERET (R152). Returns from a trap handler to EPC. -/
  | eret
  /-- SLEEP (R153). Clears the wake latch or sleeps until a wake event. -/
  | sleep
  /-- HALT (R156). Stops the thread; normal end for residencies, a fault for instances. -/
  | halt
  /-- JR (R142). Jumps to the word index in a register. -/
  | jr (a : Reg)
  /-- JALR (R142). Jumps to a register target and links into d. -/
  | jalr (f : S2)
  /-- BEQ_A (R141). A-unit branch if a-registers are equal. -/
  | beqA (f : Br)
  /-- BNE_A (R141). A-unit branch if not equal. -/
  | bneA (f : Br)
  /-- BLT_A (R141). A-unit branch if signed less. -/
  | bltA (f : Br)
  /-- BGE_A (R141). A-unit branch if signed greater or equal. -/
  | bgeA (f : Br)
  /-- BLTU_A (R141). A-unit branch if unsigned less. -/
  | bltuA (f : Br)
  /-- BGEU_A (R141). A-unit branch if unsigned greater or equal. -/
  | bgeuA (f : Br)
  /-- BANY_A (R141). A-unit branch if a AND b is non-zero. -/
  | banyA (f : Br)
  /-- BNONE_A (R141). A-unit branch if a AND b is zero. -/
  | bnoneA (f : Br)
  /-- BEQ_E (R141). E-unit branch if s-registers are equal. -/
  | beqE (f : Br)
  /-- BNE_E (R141). E-unit branch if not equal. -/
  | bneE (f : Br)
  /-- BLT_E (R141). E-unit branch if signed less. -/
  | bltE (f : Br)
  /-- BGE_E (R141). E-unit branch if signed greater or equal. -/
  | bgeE (f : Br)
  /-- BLTU_E (R141). E-unit branch if unsigned less. -/
  | bltuE (f : Br)
  /-- BGEU_E (R141). E-unit branch if unsigned greater or equal. -/
  | bgeuE (f : Br)
  /-- BANY_E (R141). E-unit branch if a AND b is non-zero. -/
  | banyE (f : Br)
  /-- BNONE_E (R141). E-unit branch if a AND b is zero. -/
  | bnoneE (f : Br)
  /-- JMP (R142). Both units continue at a relative word offset. -/
  | jmp (off : BitVec 26)
  /-- JAL (R142). Jump with link into a31. -/
  | jal (off : BitVec 26)
  /-- EXT (R143). Prefix supplying the upper 16 bits of the next word's immediate. -/
  | ext (hi : BitVec 16)
  /-- REP (R144). Prefix issuing the next word 1 to 64 times with stepped fields. -/
  | rep (last : Fin 64) (mask : BitVec 5)
  /-- THREAD_WAKE (R155). A wake event ends a sleep; the parity sweep runs and the thread issues. -/
  | threadWake (h : Nat)
  /-- STAGE_FIRE (R162). A CU stage consumes its heads and computes, passes or emits by token kind. -/
  | stageFire (h c k : Nat)
  /-- REDUCER_FIRE (R190). The reducer forms one value from TREE in fixed order. -/
  | reducerFire (h c : Nat)
  /-- LUTI_FIRE (R198). A LUT island evaluates its LUTs into LOUT. -/
  | lutiFire (h c : Nat)
  /-- ELEMENT_FIRE (R219). A generic element fires when inputs hold heads and outputs have room. -/
  | elementFire (h c : Nat) (x : Mover)
  /-- SWM_MERGE (R221). A switch merge emits one head under its arbitration or one merged marker. -/
  | swmMerge (h c : Nat) (p : PortId)
  /-- ROLLBACK (R428). The region is flushed, reconfigured from its phase image and replayed from retained rounds. -/
  | rollback (h : Nat)
  /-- MX_WEIGHT_TOKEN (R202). A weight token at w loads the next part of the current macro. -/
  | mxWeightToken (h c : Nat)
  /-- MXROW (R203). A row of A is applied to the active macros and added into the accumulator. -/
  | mxrow (h c : Nat)
  /-- MX_SEGMENT_END (R205). At in0 EOS the tile applies rows, executes in1 commands and emits EOS. -/
  | mxSegmentEnd (h c : Nat)
  /-- CFG_APPLY (R235). An element consumes a CFG head and applies or forwards its frame. -/
  | cfgApply (h c : Nat) (p : PortId)
  /-- MURD_REQUEST (R237). An MU read port issues a line read for an ADDR token. -/
  | murdRequest (h c p : Nat)
  /-- MU_RESPONSE (R240). A memory response fills a reorder entry; tokens leave in issue order. -/
  | muResponse (h c p e : Nat)
  /-- MUWR_WRITE (R237). An MU write port pairs address and data and writes the line. -/
  | muwrWrite (h c p : Nat)
  /-- MUAT_UPDATE (R238). An MU atomic port performs per-lane atomics on a line. -/
  | muatUpdate (h c p : Nat)
  /-- MUSV_WRITE (R239). The save port writes a token to the next line of its window. -/
  | musvWrite (h c p : Nat)
  /-- CB_WRITE (R242). A circular-buffer writer reserves a slot and stores a token. -/
  | cbWrite (h c p : Nat)
  /-- CB_READ (R242). A circular-buffer reader emits the token at RPTR once landed. -/
  | cbRead (h c p : Nat)
  /-- REORDER_EMIT (R243). A reorder element emits a block's token in counter order. -/
  | reorderEmit (h c : Nat)
  /-- CORNER_TURN_EMIT (R244). A corner-turn node emits a transposed block. -/
  | cornerTurnEmit (h c : Nat)
  /-- AGEN_EMIT (R395). An address generator emits the next ADDR token, a FLT, or its EOS. -/
  | agenEmit (h c g : Nat)
  /-- IN_ENDPOINT_DELIVER (R228). A bound IN endpoint delivers the next token of its binding. -/
  | inEndpointDeliver (h ep : Nat)
  /-- ROUND_ACK (R415). A source's round is acknowledged by all its sinks and retained tokens are discarded. -/
  | roundAck (h ep : Nat)
  /-- RUN_FALL (R232). The phase ends when all EOS have drained and sink writes are accepted. -/
  | runFall (h : Nat)
  /-- XLAT_TRANSLATE (R361). A translation operator translates an ADDR token or withholds it. -/
  | xlatTranslate (h c : Nat)
  /-- TRANSLATION_WALK (R356). A four-level page-table walk completes with a translation or a fault. -/
  | translationWalk (d i : Nat)
  /-- WITHHELD_RETRY (R363). A withheld access is walked again every µs or at an invalidation. -/
  | withheldRetry (i : Nat)
  /-- FAULTWAIT_EXPIRY (R363). A withheld access exceeds FAULTWAIT and is checkpointed, failed or faulted. -/
  | faultwaitExpiry (i : Nat)
  /-- MESSAGE_ARRIVAL (R248). The message agent matches an arriving message or queues or refuses it. -/
  | messageArrival (d i : Nat)
  /-- ESCAPE_TIMEOUT (R261). A BE packet waiting 4,096 slice cycles moves to the escape channel. -/
  | escapeTimeout (d i : Nat)
  /-- LINK_RETRAIN (R262). A short retrain is covered by link-layer replay. -/
  | linkRetrain (l : LinkId)
  /-- LINK_DOWN (R262). A retrain over 50 µs takes a link down and returns its packets as FLT. -/
  | linkDown (l : LinkId)
  /-- ZLK_RETRAIN (R443). A downed ZLK port is retrained every 1 ms. -/
  | zlkRetrain (port : Nat)
  /-- ZLK_TRANSFER (R442). An inbound MSG, NWR or MEM transfer is handled at the receiving package. -/
  | zlkTransfer (x : Zlk)
  /-- BCOPY_COMPLETE (R259). A copy's last line is accepted; the handle frees and WAKE is set. -/
  | bcopyComplete (h n : Nat)
  /-- WIDX (R269). A write to the notify word is accepted, ignored or raises QOVERRUN. -/
  | widx (d page off len : Nat) (v : W64)
  /-- IPOS (R295). A host write of an ingress position is accepted if it advances. -/
  | ipos (pid hh : Nat) (v : W64)
  /-- PACKET_START (R273). A mapped queue's turn starts its next valid packet. -/
  | packetStart (d qid : Nat)
  /-- PKTNV (R271). A packet still stale 64 µs after admission stops the queue. -/
  | pktnv (d qid : Nat)
  /-- WAIT_TEST (R275). A WAIT retests its word on an atomic write or each µs. -/
  | waitTest (d qid : Nat)
  /-- WAITTMO (R275). A WAIT's timeout expires and the queue stops. -/
  | waittmo (d qid : Nat)
  /-- PACKET_COMPLETION (R274). A packet's work ends and its signal is decremented as a release. -/
  | packetCompletion (d qid idx : Nat)
  /-- CFGLOAD_CLAIM (R277). A waiting CFGLOAD claims its region once cells are free and loads. -/
  | cfgloadClaim (d qid idx : Nat)
  /-- GANG_MAP (R282). A queue gang with work takes slots for all members at once. -/
  | gangMap (d qid : Nat)
  /-- GANG_IDLE_UNMAP (R282). A gang idle for 100 µs is unmapped. -/
  | gangIdleUnmap (d qid : Nat)
  /-- SLOT_STARVATION_UNMAP (R282). Every 250 µs of waiting, the longest-idle mapped gang is unmapped. -/
  | slotStarvationUnmap (d : Nat)
  /-- CTXSET (R284). Administration command that creates or replaces a process context. -/
  | ctxset (d : Nat)
  /-- QCREATE (R285). Administration command that creates a queue. -/
  | qcreate (d : Nat)
  /-- QDESTROY (R283). Administration command that destroys a queue. -/
  | qdestroy (d : Nat)
  /-- QSTART (R283). Administration command that restarts a stopped queue. -/
  | qstart (d : Nat)
  /-- PATCH (R287). Administration command that loads a signed microcode patch. -/
  | patch (d : Nat)
  /-- ACMD_UNASSIGNED (R283). An unassigned ACMD value returns 255 with no effect. -/
  | acmdUnassigned (d : Nat) (v : W64)
  /-- XINV (R358). Starts a translation invalidation of a range on all dies. -/
  | xinv (d : Nat) (v : W64)
  /-- XINV_COMPLETE (R358). An invalidation completes and BUSY clears. -/
  | xinvComplete (d : Nat)
  /-- RACK (R419). Pre-emption command that racks and parks a holder. -/
  | rack (d : Nat)
  /-- RESUME (R419). Pre-emption command that queues a parked holder for placement. -/
  | resume (d : Nat)
  /-- DISCARD (R419). Pre-emption command that reclaims a parked holder. -/
  | discard (d : Nat)
  /-- SHARE_COMMIT (R406). A write to SHCMD checks a new share table for the next refill. -/
  | shareCommit (d : Nat) (v : W64)
  /-- REFILL_TICK (R399). Every 1,024 slice cycles buckets and slice shares refill. -/
  | refillTick (d : Nat)
  /-- LINE_RELEASE (R401). A guaranteed line leaves its port when the bucket allows. -/
  | lineRelease (h ep : Nat)
  /-- SLICE_REQUEST (R408). A slice serves, queues or holds a best-effort request. -/
  | sliceRequest (d sl : Nat) (r : SliceReq)
  /-- CHAIN_STORE_HEAD (R313). A chain store takes a version at the head and is forwarded. -/
  | chainStoreHead (d i : Nat)
  /-- CHAIN_FORWARD (R313). A forwarded line is applied at a link or the tail. -/
  | chainForward (ch k : Nat)
  /-- CHAIN_ACK (R313). An acknowledgement frees a link's dirty entry and passes on. -/
  | chainAck (ch k : Nat)
  /-- CHAIN_READ (R315). A chain read is served from the local copy or the tail. -/
  | chainRead (h c p e : Nat)
  /-- CHAINFAIL (R317). A link failure stalls the chain and posts CHAINFAIL. -/
  | chainfail (ch d : Nat)
  /-- CHAIN_HANDOVER (R318). A caught-up candidate becomes the chain's tail. -/
  | chainHandover (ch : Nat)
  /-- DURABLE_ACCEPT (R323). A durable store is accepted into a persist buffer. -/
  | durableAccept (d i : Nat)
  /-- IMAGE_LOAD (R104). An image streams into a claimed region and is armed after checks. -/
  | imageLoad (h : Nat)
  /-- MAPPING_COMPLETE (R336). The mapping engine finishes a graph and fills a Shape Cache entry. -/
  | mappingComplete (d : Nat)
  /-- PLACEMENT_QUEUE_SERVE (R343). On release of cells the die's placement queue is served in order. -/
  | placementQueueServe (d : Nat)
  /-- PLACEMENT_HEAD_BLOCK (R343). Once the head is passed by 64 requests later requests wait. -/
  | placementHeadBlock (d : Nat)
  /-- GANG_RESERVE (R345). A released cell in a waiting gang's plan becomes RESERVED for it. -/
  | gangReserve (d cell : Nat)
  /-- GANG_PLACE (R346). When all planned cells are reserved the gang is held and loaded at once. -/
  | gangPlace (g : Nat)
  /-- DISPATCH_DECISION (R382). Each fabric cycle the scheduler dispatches at most one ready entry. -/
  | dispatchDecision (d : Nat)
  /-- TASK_AGEING (R382). An entry whose AGE reaches 4,096 rises a level or joins the placement queue. -/
  | taskAgeing (d i : Nat)
  /-- TASK_END (R385). A halted, drained task releases its successors and is re-armed or done. -/
  | taskEnd (h : Nat)
  /-- OVERFLOW_ADVANCE (R389). When space opens, readiness records move forward one place. -/
  | overflowAdvance (d pid : Nat)
  /-- OVERFLOW_RING_RETRY (R389). An unusable overflow ring is retried every µs. -/
  | overflowRingRetry (d pid : Nat)
  /-- DRAIN (R420). A region stops at a round boundary and drains to its sinks. -/
  | drain (h : Nat)
  /-- DRAIN_TIMEOUT (R420). 4,096 cycles after the last DMK, undrained tokens are scanned out. -/
  | drainTimeout (h : Nat)
  /-- FREEZE (R421). A freeze wave halts the region and its image is read out. -/
  | freeze (h : Nat)
  /-- RESTORE (R425). A saved image is restored onto a region of its class. -/
  | restore (h : Nat)
  /-- MSIX_MESSAGE (R440). A raised vector sends at most one MSI-X message per µs. -/
  | msixMessage (v : Nat)
  /-- DEVEVT (R440). Write-1-to-clear of the device event register. -/
  | devevt (v : W64)
  /-- HOST_WRITE (R439). A host-port write is accepted in arrival order, or refused as Unsupported Request. -/
  | hostWrite (pa len : Nat) (v : W64)
  /-- HOST_READ (R439). A host-port read returns after earlier writes are accepted and durable. -/
  | hostRead (pa len : Nat)
  /-- PODID (R441). The first write after reset sets the pod package number. -/
  | podid (v : W64)
  /-- PLIM (R447). A write sets the power limit if in range. -/
  | plim (v : W64)
  /-- SVNRAISE (R448). A write raises the fused minimum SVN within limits. -/
  | svnraise (v : W64)
  /-- LCREQ (R449). A life-cycle change request is checked and, if accepted, resets the package. -/
  | lcreq (v : W64)
  /-- ATCMD (R450). Starts an attestation report. -/
  | atcmd (v : W64)
  /-- ATTESTATION_COMPLETE (R450). The signed report is ready and BUSY clears. -/
  | attestationComplete
  /-- REGISTER_WRITE (R438). A write to a device register with no behaviour of its own stores the value. -/
  | registerWrite (d off : Nat) (v : W64)
  /-- PWRFAIL (R445). Loss of input power drains the persist buffers and stops the package. -/
  | pwrfail
  /-- HUOK_FALL (R446). HUOK falling drains buffers and switches to write-through. -/
  | huokFall
  /-- THERMAL_WARNING (R447). Junction at 105 °C or power above PLIM gates fabric firings. -/
  | thermalWarning (overPlim : Bool)
  /-- THERMAL_TRIP (R447). Junction at 115 °C acts as PWRFAIL and then resets. -/
  | thermalTrip
  /-- RESET (R448). Each die boots: fuses, drain and wipe, training, self-test, chain restore. -/
  | reset
  /-- ILL_AT_DECODE (R77). A code-store word, or prefixed sequence, that matches no assigned encoding (including 0xFFFF_FFFF) traps ILL at decode. -/
  | illAtDecode (w : W32)
  /-- UNCORRECTABLE_ERROR (R427). An uncorrectable error strikes region state, thread registers or memory: a region error, a parity kill, a chain-line repair, or poison from a scrub. -/
  | uncorrectableError (site : ErrSite)
  /-- HUOK_RISE (R446). HUOK rising ends write-through and restores the persist-buffer acceptance point. -/
  | huokRise
  /-- THROTTLE_END (R447). Junction temperature falls below the warning level, or power below PLIM, and gating of fabric firings ends, changing DEVEVT. -/
  | throttleEnd
  /-- PERSIST_BUFFER_DRAIN (R323). A persist buffer writes lines to its Cellar stack, freeing space so that held-back durable stores can be accepted. -/
  | persistBufferDrain (d : Nat)
  /-- DIE_LINK_UP (R444). A die-to-die link that was down trains again and its UP bit returns. -/
  | dieLinkUp (a b : Nat)
  /-- PROCESS_END (R336). A process ends: its named residencies are released and its Shape Cache entries are invalidated. -/
  | processEnd (pid : Nat)
deriving DecidableEq, Repr

end Sys2Proof
end

