-- ==== Sys2Proof/Config.lean ====
section
/-! DEFINITION. The values the manual leaves open: constants with no body, of which nothing can be proved. Each is named in a log entry. -/

namespace Sys2Proof

/-- What may move next: a control thread issues one word, its unit that is behind
passes one word, its A-unit passes a sequence that it leaves to the E-unit (R118), a step of the device happens, or one die's clocks advance by one
fabric cycle (log 4, log 5). -/
inductive Turn where
  | thread (inst : Nat)
  | follow (inst : Nat)
  | lead (inst : Nat)
  | event (i : Instr)
  | cycle (die : Nat)
deriving DecidableEq, Repr, Inhabited

/-- The order of steps when the agenda is empty: the manual orders events only where R452 does (log 4). -/
opaque Config.freeTurn : Nat → Turn

/-- Whether a read on another path of its agent finds the bytes as they stood before the agent's write that no XFENCE has ordered before it
(R234, R297, R299, log 6). -/
opaque Config.readsOld : Nat → Nat → Bool

/-- The frames of the placement that the mapping engine finds for a graph, or none when it finds none (R113, R336, log 7). -/
opaque Config.mapFrames : Nat → Option (List (BitVec 256))
/-- The number of the edge that used destination `i` of those frames carries, for the edge map (R103, log 7). -/
opaque Config.mapEdge : Nat → Nat → BitVec 16
/-- The constant that stage element `i` of a graph names, by its index in the table of constants (R112, R160, log 7). -/
opaque Config.mapConst : Nat → Nat → Option Nat
/-- Where element `i` of a mapped graph stands: cell of the region and unit (R44, R113, log 7). -/
opaque Config.mapSite : Nat → Nat → Nat × Nat
/-- Where endpoint `k` of a mapped graph stands: cell of the region, place and port (R112, R336, log 7). -/
opaque Config.mapEndpoint : Nat → Nat → Nat × Nat × Nat
/-- The cell of the endpoint's sinks, as the mapping engine records them (R415, log 7). -/
opaque Config.mapSinks : Nat → Nat → List Nat

/-- How many bytes the fields of a section, or of the rest of a cell's record, take in an image, by the section and the widths of its
fields: the manual gives the fields and their widths, and leaves their packing open (R423, log 8). -/
opaque Config.packLength : Nat → List Nat → Nat
/-- A byte of such a section or rest, at its place, by the section and its fields as width and value (R423, log 8). -/
opaque Config.packByte : Nat → List (Nat × Nat) → Nat → Byte

/-- Talsel's public keys: 0 patch, 1 life-cycle token (R287, R449, log 9). -/
opaque Config.talselKey : Nat → Nat × Nat
/-- The device identity key's private half (R450, log 9). -/
opaque Config.identityKey : Nat
/-- The secret number of a signature (R450, log 9). -/
opaque Config.signNonce : List Byte → Nat
/-- The target state that a life-cycle token names, and whether it is well formed and names this device (R449, log 9). -/
opaque Config.tokenTarget : List Byte → Option Nat
/-- What a life-cycle token's signature is over: the device identity and the target state, in a layout the manual does not give (R449,
log 9). -/
opaque Config.tokenSigned : List Byte → List Byte
/-- The body of an attestation report: life-cycle state, FSVN, the patch's SVN and digest, the control store's digest, PODID and
nonce, in a layout the manual does not give (R450, log 9). -/
opaque Config.reportBody : Nat → Nat → Nat → List Byte → List Byte → Nat → List Byte → List Byte
/-- Talsel's certificate for the identity key (R450, log 9). -/
opaque Config.certificate : List Byte
/-- The microcode of the control store: its 4,096 words (R286, log 9). -/
opaque Config.controlWord : BitVec 12 → BitVec 80
/-- An unspecified 64-byte line: what an access to a chain's backing that does not go through the chain returns (R311, log 10). -/
opaque Config.freeLine : Nat → Line
/-- A line that another package answers to a read of a host-range stream: by package, address, and a number (R442, log 11). -/
opaque Config.peerLine : Nat → Nat → Nat → Line
/-- The answer another package gives to a message: 0, 1, 2 or 4 (R251, R442, log 11). -/
opaque Config.remoteAnswer : Nat → Nat
/-- The ZLK port that the hash of a package's number and a die chooses (R442, log 36). -/
opaque Config.zlkPort : Nat → Nat → Nat
/-- A fabric cycle, of those in which the device throttles, gates the firings of the fabric (R447, log 38). -/
opaque Config.gates : Nat → Bool

end Sys2Proof
end

