-- ==== Sys2Proof/Machine/Tables.lean ====
section
/-! DEFINITION. Sparse tables: lists of (key, value) pairs with strictly rising keys. Memories, holders, queues and every large table of the package are held in this form, so that equal contents are equal data. -/

namespace Sys2Proof.Machine

/-- A sparse table with keys in strictly rising order. -/
abbrev Tbl (β : Type) := List (Nat × β)

/-- The entry at a key. -/
def Tbl.find {β : Type} : Tbl β → Nat → Option β
  | [], _ => none
  | (k, v) :: t, a => if k = a then some v else Tbl.find t a

/-- The entry at a key, or what an unlisted key reads as. -/
def Tbl.getD {β : Type} (t : Tbl β) (a : Nat) (d : β) : β := (t.find a).getD d

/-- Insert or replace, keeping the keys rising. -/
def Tbl.put {β : Type} : Tbl β → Nat → β → Tbl β
  | [], a, x => [(a, x)]
  | (k, v) :: t, a, x =>
    if a < k then (a, x) :: (k, v) :: t
    else if a = k then (a, x) :: t
    else (k, v) :: Tbl.put t a x

/-- Remove a key. -/
def Tbl.del {β : Type} : Tbl β → Nat → Tbl β
  | [], _ => []
  | (k, v) :: t, a => if k = a then t else (k, v) :: Tbl.del t a

/-- Write a value, an entry equal to the default being left out. -/
def Tbl.set {β : Type} [DecidableEq β] (t : Tbl β) (d : β) (a : Nat) (x : β) : Tbl β :=
  if x = d then t.del a else t.put a x

/-- Change the entry at a key, if there is one. -/
def Tbl.modify {β : Type} (t : Tbl β) (a : Nat) (f : β → β) : Tbl β :=
  match t.find a with
  | some v => t.put a (f v)
  | none => t

/-- The keys rise strictly from above `lo`. -/
def Tbl.risingFrom {β : Type} : Nat → Tbl β → Bool
  | _, [] => true
  | lo, (k, _) :: t => decide (lo ≤ k) && Tbl.risingFrom (k + 1) t

/-- Sorted set of numbers: insertion. -/
def setAdd (l : List Nat) (a : Nat) : List Nat :=
  match l with
  | [] => [a]
  | k :: t => if a < k then a :: k :: t else if a = k then k :: t else k :: setAdd t a

/-- Sorted set of numbers: removal. -/
def setDel (l : List Nat) (a : Nat) : List Nat := l.filter (· != a)

/-- Replace the element at an index, if there is one. -/
def listMod {β : Type} : List β → Nat → (β → β) → List β
  | [], _, _ => []
  | x :: t, 0, f => f x :: t
  | x :: t, n + 1, f => x :: listMod t n f

/-- Remove the element at an index, if there is one. -/
def listDel {β : Type} : List β → Nat → List β
  | [], _ => []
  | _ :: t, 0 => t
  | x :: t, n + 1 => x :: listDel t n

/-- The first number below `n` that meets a condition. -/
def firstBelow (n : Nat) (p : Nat → Bool) : Option Nat := (List.range n).find? p

/-- The first `some` of a function over a list. -/
def firstSome {α β : Type} (l : List α) (f : α → Option β) : Option β :=
  match l with
  | [] => none
  | x :: t => match f x with
    | some y => some y
    | none => firstSome t f

/-- The index of the first element that meets a condition. -/
def indexOf {α : Type} (l : List α) (p : α → Bool) : Option Nat := l.findIdx? p

/-- Ceiling division. -/
def ceilDiv (a b : Nat) : Nat := (a + b - 1) / b

end Sys2Proof.Machine
end

