-- ==== Sys2Proof/Machine/ThreadState.lean ====
section
/-! DEFINITION. What a control thread and its holder's message and stream interfaces hold (05, 09, 10). -/

namespace Sys2Proof.Machine

/-- The kinds of a token (R217). -/
inductive TokKind where
  | data | eos | rmk | dmk | cfg | flt | arg
deriving DecidableEq, Repr, Inhabited

/-- A token: KIND, PSN, VLD and VAL (R217). -/
structure Token where
  kind : TokKind := .data
  psn : BitVec 16 := 0
  vld : BitVec 16 := 0
  val : Line := 0
deriving DecidableEq, Repr, Inhabited

/-- The prefix words of the sequence being issued: the operand of EXT, the upper half of the immediate of the repeat that
issues next, the REP operands, that repeat and the number of prefix words seen (R76, R143, R144). The model's own latch. -/
structure Pfx where
  ext : Option (BitVec 16) := none
  hi : Option (BitVec 16) := none
  rep : Option (Nat × BitVec 5) := none
  idx : Nat := 0
  len : Nat := 0
deriving DecidableEq, Repr, Inhabited

/-- What an instruction that has issued and not completed waits for. The model's own record. -/
inductive Wait where
  | none
  /-- SEND waits for its agent's answer to packet `id` (R251). -/
  | send (id : Nat)
  /-- RECVW has posted its receive at port `p` and writes register `d` (R252). -/
  | recvw (p d : Nat)
  /-- CALL waits for its callee: destination register, caller port, callee (R347). -/
  | call (d p callee : Nat)
  /-- An atomic on a chain line or a Cellar line waits for store `id` (R314, R323). -/
  | store (id : Nat)
  /-- That atomic has been performed and found `old`. -/
  | stored (old : Nat)
  /-- That atomic met a poisoned word (R307). -/
  | poisoned
  /-- A load of the clean line at a physical address stands absorbed at a router, under a number of its own (R257). -/
  | combined (id pa : Nat)
  /-- That load has its line, with poison marks. -/
  | replied (v : Line) (psn : BitVec 16)
  /-- CHDROP waits until the relink that it began at an epoch of chain `ch` is complete (R322). -/
  | relink (ch epoch : Nat)
  /-- GBAR has been counted and waits for the gang's other members (R352). -/
  | gbar
deriving DecidableEq, Repr, Inhabited

/-- The two register files (R114). -/
structure Regs where
  a : Vector W64 32 := Vector.replicate 32 0
  s : Vector W64 32 := Vector.replicate 32 0
deriving DecidableEq, Repr, Inhabited

/-- The special registers a trap and MTS write, PEPOCH, and the fields of SSTAT (R127 to R133). -/
structure SysRegs where
  tvec : W64 := 0
  epc : W64 := 0
  ecause : W64 := 0
  eaddr : W64 := 0
  repst : W64 := 0
  pepoch : W64 := 0
  nbound : BitVec 9 := 0
  serr : Bool := false
  run : Bool := false
  wake : Bool := false
deriving DecidableEq, Repr, Inhabited

/-- The state of a bulk-copy handle (R259): FREE, BUSY with the place it has reached, FAILED at an address. -/
inductive CopyState where
  | free
  | busy
  | failed (addr : Nat)
deriving DecidableEq, Repr, Inhabited

/-- A bulk copy: descriptors, length and bytes copied (R259). -/
structure Copy where
  st : CopyState := .free
  dst : W64 := 0
  src : W64 := 0
  len : Nat := 0
  pos : Nat := 0

deriving DecidableEq, Repr, Inhabited

/-- How far the A-unit has run ahead of words of the E-unit (R118): sequences of the E-unit that it has passed and left to it, the
pops of LQ and pushes of SQ that those are still to make, and the JMP and JAL words that it has taken and the E-unit not; `even`: it
waits until the E-unit has caught up, since its next instruction traps (R121). The model's own record. -/
structure Lead where
  words : Nat := 0
  pops : Nat := 0
  pushes : Nat := 0
  jumps : Nat := 0
  even : Bool := false
deriving DecidableEq, Repr, Inhabited

/-- A control thread (R117, R118, R222). -/
structure Thread where
  regs : Regs := {}
  pcA : Nat := 0
  pcE : Nat := 0
  lq : List W64 := []
  sq : List W64 := []
  bqe : List (Bool × BitVec 12) := []
  bqa : List (Bool × BitVec 12) := []
  lead : Lead := {}
  sys : SysRegs := {}
  pfx : Pfx := {}
  /-- The repeat at which the sequence at the pc goes on (R145). -/
  resume : Option Nat := none
  asleep : Bool := false
  halted : Bool := false
  wait : Wait := .none
  /-- The word named by the last SIGWAIT (R153), in the form of `Place.key`. -/
  wakeSig : Option Nat := none
  gbar : Nat := 0
  /-- CT loads wait until durable stores of epochs below this are durable (R327). -/
  loadBar : Nat := 0
  copies : List Copy := List.replicate 16 {}
  /-- The code store; a word past its end reads 0xFFFF_FFFF (R78). -/
  code : List W32 := []
deriving DecidableEq, Repr, Inhabited

/-- The states of a channel port (R223). -/
inductive PortState where
  | free | child | parent | recv | closed
deriving DecidableEq, Repr, Inhabited

/-- A channel port: STATE, PEER and the inbound words with their poison bits (R223). -/
structure Port where
  st : PortState := .free
  peer : Nat := 0
  q : List (W64 × Bool) := []
deriving DecidableEq, Repr, Inhabited

/-- A message (R247). -/
structure Msg where
  src : Nat := 0
  pkg : Nat := 0
  remote : Bool := false
  tag : BitVec 16 := 0
  words : List W64 := []
deriving DecidableEq, Repr, Inhabited

/-- A posted receive (R247). -/
structure Recv where
  src : BitVec 32 := 0
  tag : BitVec 16 := 0
  mask : BitVec 16 := 0
  port : Nat := 0
  max : Nat := 0
deriving DecidableEq, Repr, Inhabited

/-- Where an endpoint is attached: an address generator, or a port (R228). -/
inductive EpPlace where
  | gen (cell g : Nat)
  | port (cell place port : Nat)
deriving DecidableEq, Repr, Inhabited

/-- An endpoint record of the graph (R112) as mapped: place, direction (`out`), round length and the sinks its tokens reach
(R415). -/
structure EpRec where
  place : EpPlace := .gen 0 0
  out : Bool := false
  round : Nat := 0
  sinks : List Nat := []
deriving DecidableEq, Repr, Inhabited

/-- A binding (R229, R294): class, rate, base, extent; HADDR and flags for a host range. -/
structure Binding where
  g : Bool := false
  rate : Nat := 0
  base : Nat := 0
  extent : Nat := 0
  host : Option Nat := none
  /-- Charges held against the resources of R403, as (resource, bytes). -/
  charges : List (Nat × Nat) := []
deriving DecidableEq, Repr, Inhabited

/-- An endpoint's state (R228 to R233, R400, R415, R416). -/
structure Ep where
  gr : EpRec := {}
  bind : Option Binding := none
  /-- Queued SCFG frames: (address, count) in program order (R233). -/
  scfg : List (Nat × Nat) := []
  /-- CFG frames still to be emitted in this phase, as (address, count). -/
  cfgNow : List (Nat × Nat) := []
  /-- The SCFG frames of the phase, for a replay from ACKED = 0 (R428). -/
  cfgPhase : List (Nat × Nat) := []
  /-- The binding in force in the running phase is started (R230). -/
  live : Bool := false
  eosOut : Bool := false
  seos : Bool := false
  /-- ISSUED when SEOS was executed (R231). -/
  seosAt : Nat := 0
  /-- DMK injected during a drain (R420). -/
  dmkOut : Bool := false
  /-- With AUDIT off, the one token that may still be issued in a drain (R420). -/
  more : Bool := false
  issued : Nat := 0
  /-- The next line of a port endpoint whose read another read absorbed, with poison marks, once the reply is here (R257). -/
  reply : Option (Line × BitVec 16) := none
  inrnd : Nat := 0
  round : Nat := 0
  acked : Nat := 0
  /-- Bytes of the lines that an OUT endpoint has issued, where its next line goes; WRITTEN follows it as their path accepts them. -/
  sent : Nat := 0
  written : Nat := 0
  srnd : Nat := 0
  /-- Retained tokens with the round each belongs to (R415); HELD is their number. -/
  held : List (Nat × Token) := []
  /-- Retained tokens still to be replayed after a rollback (R428). -/
  replay : List (Nat × Token) := []
  /-- CFG tokens of the phase that come through before the replay at an MU read port goes on (R428). -/
  gate : Nat := 0
  /-- A FLT of EXTENT has been taken in this segment (R229). -/
  extFlt : Bool := false
  /-- WRITTEN as each RMK was taken, by round (R428). -/
  marks : List (Nat × Nat) := []
  sinkEos : Bool := false
  sinkDmk : Bool := false
  /-- LEVEL of the port rate bucket (R400). -/
  level : Nat := 0
  /-- The agent lost its guarantee at a restore (R404). -/
  admLost : Bool := false
deriving DecidableEq, Repr, Inhabited

end Sys2Proof.Machine
end

