-- ==== Sys2Proof/Machine/DataState.lean ====
section
/-! DEFINITION. What the datapath of a region holds (06 to 09, 15 to 17). Output registers, links and input ports are named by the cell of the region, and by the port identifiers of R99. -/

namespace Sys2Proof.Machine

/-- A configuration frame (R91). -/
structure Frame where
  kind : Nat := 0
  col : Nat := 0
  row : Nat := 0
  target : Nat := 0
  part : Nat := 0
  pay : BitVec 224 := 0
deriving DecidableEq, Repr, Inhabited

/-- A pipeline register (R157): the held token and FULL; OPEN with the accumulation or the part-filled pack it stands for, and
the pack's index t (R175, R193); the tokens still to be emitted after the held one, whose number is DUPC (R173, R194); and which
of its consumers have taken the held value (R162): the next stage, the output port, the tree. -/
structure Pipe where
  tok : Token := {}
  full : Bool := false
  opn : Bool := false
  acc : Token := {}
  packT : Nat := 0
  /-- The held value is the accumulation, which stays OPEN until its last consumer has taken it (R175). -/
  ends : Bool := false
  rest : List Token := []
  tNext : Bool := false
  tOut : Bool := false
  tRed : Bool := false
deriving DecidableEq, Repr, Inhabited

/-- A link (R218): its tokens, LDIFF (R412), and the 0-slot destinations behind it that have taken its head. A link whose destination an
in-band frame has taken away keeps its tokens and the port they go to, until they are taken (R236). -/
structure LinkSt where
  q : List Token := []
  ldiff : Int := 0
  took : List Nat := []
  gone : Option Nat := none
deriving DecidableEq, Repr, Inhabited

/-- An output register (R219): its token, and the 0-slot destinations that have taken it. -/
structure OutReg where
  tok : Option Token := none
  took : List Nat := []
deriving DecidableEq, Repr, Inhabited

/-- A switch merge (R221): its output, the input served last, and, at an edge port, the 0-slot destinations behind it that have taken
its output. -/
structure MergeSt where
  tok : Option Token := none
  last : Nat := 0
  took : List Nat := []
deriving DecidableEq, Repr, Inhabited

/-- The matrix tile (R213): MXST, RBUF as the codes of the elements buffered (none for an invalid lane, 0x10000 for a poisoned one), KTOK, ACC and ACCK by
row × 128 + column, and B and BK of each macro. -/
structure Mx where
  loaded : BitVec 4 := 0
  mpsn : BitVec 4 := 0
  tpsn : Bool := false
  wdone : Bool := false
  /-- The k segment of a K format has ended (R205). -/
  kdone : Bool := false
  first : Nat := 0
  nact : Nat := 0
  ldstart : Nat := 0
  ldm : Nat := 0
  ldp : Nat := 0
  rc : Nat := 0
  rbuf : List (Option Nat) := []
  kpos : Nat := 0
  ktok : Option Token := none
  /-- The k values of the padded last row of a segment, which waits for the end of the k segment (R205), and whether some did not
  arrive. -/
  kbuf : Option (List (Option Nat) × Bool) := none
  /-- Rows applied in this in0 segment (R210). -/
  rows : Nat := 0
  /-- Macros whose loads this w segment has ended, in order (R210). -/
  wmacs : List Nat := []
  acc : Tbl Nat := []
  acck : Tbl Nat := []
  b : List (Tbl Nat) := [[], [], [], []]
  bk : List (Tbl Nat) := [[], [], [], []]
  /-- FLT tokens held for the next EOS (R211). -/
  flts : List Token := []
  /-- Tokens of out0 and out1 at the emission point, in order (R207). -/
  outq : List (Token × Option Token) := []
  /-- Macros whose load ended before the phase began, and has not begun again, and MPSN as the phase began (R214). -/
  kept : BitVec 4 := 0
  keptPsn : BitVec 4 := 0
deriving DecidableEq, Repr, Inhabited

/-- An entry of an MU port's reorder buffer (R240): its number, the requests it stands for, and its token once it has one. An
atomic collects its lanes. -/
structure RobEnt where
  id : Nat := 0
  req : Token := {}
  opnd : Token := {}
  /-- Old values of an atomic's lanes that have come back, and how many are still to come. -/
  lanes : List (Nat × Nat × Bool) := []
  due : Nat := 0
  res : Option Token := none
  /-- The cycle when it issued, and whether its packet has taken the escape channel (R261). -/
  at_ : Nat := 0
  escaped : Bool := false
deriving DecidableEq, Repr, Inhabited

/-- An MU port (R237 to R240): request queue, reorder buffer, tail pointer, SVPOS, and what its sink has taken in the phase. -/
structure MuPort where
  reqs : List (Token × Token) := []
  rob : List RobEnt := []
  tail : Nat := 0
  svpos : Nat := 0
  /-- SVPOS as each RMK was taken, by round (R428). -/
  marks : List (Nat × Nat) := []
  /-- RMKs taken at in1, and at in0. -/
  srnd : Nat := 0
  srndA : Nat := 0
  eos : Bool := false
  /-- DMKs taken: bit 0 at in0, bit 1 at in1. -/
  dmk : BitVec 2 := 0
  extFlt : Bool := false
deriving DecidableEq, Repr, Inhabited

/-- A circular buffer (R241), with the side bits of its slots. -/
structure CBuf where
  wptr : Nat := 0
  rptr : Nat := 0
  fill : Nat := 0
  side : Tbl (TokKind × BitVec 16 × BitVec 16) := []
deriving DecidableEq, Repr, Inhabited

/-- A reorder or corner-turn element (R243 to R245): tokens by input position, input and output positions, and held tokens with
the position they wait for. -/
structure BlockSt where
  toks : Tbl Token := []
  inPos : Nat := 0
  outPos : Nat := 0
  held : List (Nat × Token) := []
deriving DecidableEq, Repr, Inhabited

/-- A tag-table entry (R371). -/
structure TagEnt where
  valid : Bool := false
  pin : Bool := false
  key : BitVec 48 := 0
  last : BitVec 16 := 0
deriving DecidableEq, Repr, Inhabited

/-- An address generator (R395): indexes, addresses emitted, last granule, done bit, and a gather token with its next lane. -/
structure AgenSt where
  idx : List Nat := [0, 0, 0, 0]
  n : Nat := 0
  gran : Option Nat := none
  done : Bool := false
  gather : Option Token := none
  lane : Nat := 0
deriving DecidableEq, Repr, Inhabited

/-- A translation held by an XLAT (R361): granule, place of its first byte, and the permissions of its leaf. -/
structure Xent where
  gran : Nat := 0
  kind : Nat := 0
  base : Nat := 0
  ch : Nat := 0
  r : Bool := false
  w : Bool := false
  cow : Bool := false
deriving DecidableEq, Repr, Inhabited

/-- A translation operator (R361): the held translation, and whether its next token has been looked up; and, the model's own record,
the W bit of the last translation it made to each physical granule, for reads behind it that may combine (R256, log 22). -/
structure XlatSt where
  held : Option Xent := none
  looked : Bool := false
  made : Tbl Bool := []
deriving DecidableEq, Repr, Inhabited

/-- A loop counter (R394). -/
structure Loop where
  n : BitVec 32 := 0
  p : BitVec 32 := 0
deriving DecidableEq, Repr, Inhabited

/-- What a ratio check has counted behind the markers and EOS its element has taken at INP and not yet emitted, oldest first, and
how many it has emitted of its own (the model's own, log 14). -/
structure Behind where
  cnt : List Nat := []
  owed : Nat := 0
deriving DecidableEq, Repr, Inhabited

/-- A cell of a region. Tables are keyed: links by tile × 64 + entry × 4 + destination, and from 256 on, by 256 × n more, those whose
destination a frame has taken away; output registers and merges by
place × 16 + port (a merge at an edge port by 128 + switch × 128 + place × 16 + port); code tables by decoding place (stage number, 6 in0, 7 w) × 64 + table × 16 + entry. -/
structure CellSt where
  pipes : List Pipe := List.replicate 6 {}
  tree : Option Token := none
  /-- KIND, PSN, VLD and VAL as the last take left them in TREE and in LOUT, while they are not FULL (R189, R199). -/
  treeOld : Token := {}
  loutOld : Token := {}
  loops : List Loop := List.replicate 3 {}
  mx : Mx := {}
  lout : OutReg := {}
  links : Tbl LinkSt := []
  outs : Tbl OutReg := []
  merges : Tbl MergeSt := []
  ports : List MuPort := List.replicate 4 {}
  cbs : List CBuf := List.replicate 8 {}
  reord : BlockSt := {}
  cturn : BlockSt := {}
  tags : Tbl TagEnt := []
  hits : BitVec 16 := 0
  tables : Tbl Nat := []
  /-- The code tables in force when the phase's SGO executed (R428). -/
  phaseTables : Tbl Nat := []
  agens : List AgenSt := List.replicate 2 {}
  xlat : XlatSt := {}
  diffs : Tbl Int := []
  behind : Tbl Behind := []
deriving DecidableEq, Repr, Inhabited

/-- The datapath of a region. -/
structure Datapath where
  /-- Configuration frames in force (R105, R235). -/
  cfg : List Frame := []
  /-- The frames in force when the phase's SGO executed (R428). -/
  phaseCfg : List Frame := []
  /-- The frames of the image (R374). -/
  image : List Frame := []
  cells : List CellSt := []
  /-- Tokens that port endpoints have delivered, by cell × 128 + place × 16 + port (R228). -/
  feeds : Tbl (List Token) := []
  /-- A token of a host range's endpoint has been consumed since entries of read combining were last closed for it (R258). -/
  came : Bool := false
  /-- The phase began with an open tile or a filled buffer (R214, R242). -/
  openStart : Bool := false
  /-- An element has met a region error: its reason (R427) and cell. -/
  err : Option (Nat × Nat) := none
  /-- An illegal word has arrived in-band (R109). -/
  illegal : Option Frame := none
deriving DecidableEq, Repr, Inhabited

end Sys2Proof.Machine
end

