-- ==== Sys2Proof/Machine/PackageState.lean ====
section
/-! DEFINITION. What the holders, the dies and the package hold (10 to 19). -/

namespace Sys2Proof.Machine

/-- What holds a region (R9, R277, R418). -/
inductive HolderKind where
  | callee | member | task | named
deriving DecidableEq, Repr, Inhabited

/-- Where a holder stands: waiting in a placement queue, its image streaming in, placed, its state in its save areas
(R341), its image in frames waiting for an event (racked) or for a command (parked) (R342, R419, R431), ready for placement
(R343), on cells and being restored (R425), a checkpoint (R363), or an idle residency (R24). -/
inductive Life where
  | queued | loading | placed | folded | racked | ready | restoring | parked | checkpoint | resident
deriving DecidableEq, Repr, Inhabited

/-- What a holder is and where it is (R122 to R125, R335, R338, R342). -/
structure HolderId where
  inst : Nat := 0
  pid : Nat := 0
  kind : HolderKind := .callee
  /-- GANG, or 0xFFFF_FFFF (R123). -/
  gang : Nat := 0xFFFFFFFF
  mem : Nat := 63
  /-- CALLER, or 0xFFFF_FFFF (R123). -/
  parent : Nat := 0xFFFFFFFF
  callerPort : Nat := 0
  dieMask : Nat := 15
  die : Nat := 0
  col : Nat := 0
  row : Nat := 0
  w : Nat := 1
  h : Nat := 1
  cls : Nat := 0
  mode : W64 := 0x29AE
  pseq : Nat := 0
  life : Life := .placed
deriving DecidableEq, Repr, Inhabited

/-- What a holder was placed from (R335, R384, R277): Function Table entry fields, TCB, residency name. -/
structure HolderFn where
  fidx : Nat := 0
  nargs : Nat := 0
  nres : Nat := 0
  keepsp : Bool := false
  digest : BitVec 384 := 0
  /-- IMG of the Shape Cache entry, and the die whose Shape Cache holds it (R336). -/
  image : Nat := 0
  cacheDie : Nat := 0
  /-- Its entry has been found: the image streams, and counts in USE. -/
  found : Bool := false
  /-- The entry in whose USE its load counts, by index. -/
  entry : Option Nat := none
  args : List W64 := []
  tcb : Nat := 0
  rname : Nat := 0
  /-- The holder whose region it is folded into (R341). -/
  foldedOn : Option Nat := none
  /-- The queue and packet that placed it (R277, R280), as (die, QID, packet index). -/
  packet : Option (Nat × Nat × Nat) := none
deriving DecidableEq, Repr, Inhabited

/-- The image of a holder that holds no cells: its frames (R424) and the scratchpad bytes and marks it carries (R423). -/
structure Saved where
  frames : List Nat := []
  scratch : List (Nat × Byte) := []
  poison : List Nat := []
  /-- Frames of a fold that did not fit the save areas (R341). -/
  foldFrames : List Nat := []
  /-- The faulting address a checkpoint waits for (R363). -/
  fault : Option Nat := none
  /-- The port of the RECVW that the thread waited at when it was racked (R252, R343). -/
  recvw : Option Nat := none
deriving DecidableEq, Repr, Inhabited

/-- Progress of an event that takes more than one step at a holder: a drain (R420), with the cycle of the last DMK. -/
structure EventSt where
  draining : Bool := false
  /-- What follows the drain: a RACK command on a die, or a checkpoint. -/
  rackBy : Option Nat := none
  dmkAt : Option Nat := none
  ropen : Bool := false
  rollbacks : Nat := 0
  /-- A region error waits for its rollback (R428). -/
  rollDue : Bool := false
  /-- The parity sweep of R155 has found an error. -/
  parity : Bool := false
  /-- Successor entries that an ending task has released (R385). -/
  released : Nat := 0
deriving DecidableEq, Repr, Inhabited

/-- A holder of a region (R9): its record, its thread, its interfaces and its datapath. -/
structure Holder where
  id : HolderId := {}
  fn : HolderFn := {}
  th : Thread := {}
  ports : List Port := List.replicate 16 {}
  recvs : List Recv := []
  oflow : List Msg := []
  ovfl : Bool := false
  /-- (BASE, NB) in 64 KiB units (R370). -/
  regions : List (Nat × Nat) := []
  eps : List Ep := []
  dp : Datapath := {}
  saved : Saved := {}
  ev : EventSt := {}
deriving DecidableEq, Repr, Inhabited

/-- An agent of R296. -/
inductive Agent where
  | holder (inst : Nat)
  | packet (d qid idx : Nat)
  | host
deriving DecidableEq, Repr, Inhabited

/-- The classes of R296. -/
inductive PathClass where
  | ct | fs | bk | mw | hx | mg
deriving DecidableEq, Repr, Inhabited

/-- The functions of an atomic (R301, R238). -/
inductive AtomicOp where
  | store | add | smin | smax | umin | umax | xchg | cas (cmp : Nat) | fadd (flush : Bool)
deriving DecidableEq, Repr, Inhabited

/-- Where the old value of a performed atomic goes: nowhere, to a waiting thread, or to a lane of a reorder entry of an MU
port (R238, R240). -/
inductive RetTo where
  | none
  | thread
  | lane (cell port entry lane : Nat)
deriving DecidableEq, Repr, Inhabited

/-- A store to a chain line or to a Cellar line that has issued and is not yet done or durable (R313, R323): an address
(physical, or offset in chain `ch`), the bytes, their mask and the poison of their words, with version once the head has
taken it. -/
structure Pending where
  id : Nat := 0
  die : Nat := 0
  agent : Agent := .host
  /-- The process whose translation it was made with (R358). -/
  pid : Nat := 0
  cls : PathClass := .ct
  epoch : Nat := 0
  ch : Option Nat := none
  /-- The 64-byte line: physical address, or offset in the chain, of its first byte. -/
  line : Nat := 0
  /-- For each byte of the line, whether it is written. -/
  mask : BitVec 64 := 0
  val : Line := 0
  psn : BitVec 16 := 0
  op : AtomicOp := .store
  /-- Byte offset and width of an atomic's word. -/
  off : Nat := 0
  width : Nat := 4
  ret : RetTo := .none
  /-- The version the head gave (R313), and the word an atomic found. -/
  ver : Option Nat := none
  old : Nat := 0
  /-- The atomic met a poisoned word (R307). -/
  bad : Bool := false
  /-- The virtual address of its line (R303), when its agent used one. -/
  va : Nat := 0
  /-- The handle of the copy it belongs to, while that copy is BUSY (R298). -/
  copy : Option Nat := none
  /-- The gang of its agent, or of the member whose callee it is (R280). -/
  gang : Nat := 0xFFFFFFFF
  /-- Its head has been dropped: it is sent again, in the issue order of its buffer (R318). -/
  again : Bool := false
  /-- The OUT endpoint that it belongs to, with the place of its line, until its path accepts it (R416). -/
  pos : Option (Nat × Nat) := none
  /-- It belongs to a guaranteed binding; the cycle when it issued, and whether its packet has taken the escape channel (R261). -/
  g : Bool := false
  at_ : Nat := 0
  escaped : Bool := false
deriving DecidableEq, Repr, Inhabited

/-- A write of a holder that a read of the same holder on another path may still miss (R297, R299): the line, in a scratchpad or not, the
bytes written, what stood there, its virtual address where it has one, whether its phase still runs or which copy it belongs to while that
is BUSY (R298), the classes whose reads no longer miss it, and those of which only the reads of a later phase or copy do not. -/
structure Unfenced where
  inst : Nat := 0
  cls : PathClass := .ct
  scr : Bool := false
  line : Nat := 0
  mask : BitVec 64 := 0
  old : Line := 0
  psn : BitVec 16 := 0
  va : Option Nat := none
  live : Bool := false
  copy : Option Nat := none
  seen : List PathClass := []
  soon : List PathClass := []
deriving DecidableEq, Repr, Inhabited

/-- A dirty-table entry (R312). -/
structure Dirty where
  line : Nat := 0
  ver : Nat := 0
  val : Line := 0
  psn : BitVec 16 := 0
deriving DecidableEq, Repr, Inhabited

/-- A forward or an acknowledgement between two links (R313). -/
structure ChainMsg where
  line : Nat := 0
  ver : Nat := 0
  val : Line := 0
  psn : BitVec 16 := 0
deriving DecidableEq, Repr, Inhabited

/-- The states of a chain (R309). -/
inductive ChainState where
  | free | active | stalled | relink | catchup | orphan
deriving DecidableEq, Repr, Inhabited

/-- One link of a chain: die, physical base, dirty table, lines forwarded to it, and acknowledgements on their way to it
(R309, R312, R313). -/
structure ChainLink where
  die : Nat := 0
  pb : Nat := 0
  dirty : List Dirty := []
  fwd : List ChainMsg := []
  acks : List Nat := []
  failed : Bool := false
deriving DecidableEq, Repr, Inhabited

/-- A Chain Table entry (R309). -/
structure Chain where
  st : ChainState := .free
  cellar : Bool := false
  links : List ChainLink := []
  np : Nat := 0
  owner : Nat := 0
  epoch : BitVec 32 := 0
  seq : Nat := 0
  /-- A link being added, and the lines copied to it (R318). -/
  cand : Option ChainLink := none
  prog : Nat := 0
  /-- A CHDROP is under way: its lines are being forwarded again (R318). -/
  moving : Bool := false
  /-- A CHFREE of this holder is draining the chain (R322). -/
  closing : Option Nat := none
deriving DecidableEq, Repr, Inhabited

/-- An Area Table entry (R333). -/
structure AreaEnt where
  st : Nat := 0
  cond : Nat := 0
  org : Bool := false
  fold : Bool := false
  pid : Nat := 0
  owner : Nat := 0
deriving DecidableEq, Repr, Inhabited

/-- A Shape Cache entry (R336). -/
structure ShapeEnt where
  valid : Bool := true
  pid : Nat := 0
  cls : Nat := 0
  digest : BitVec 384 := 0
  img : Nat := 0
  sptop : Nat := 0
  use : BitVec 8 := 0
  last : BitVec 32 := 0
  /-- The endpoint records the mapping engine keeps for the graph (R112, R415). -/
  eps : List EpRec := []
deriving DecidableEq, Repr, Inhabited

/-- A control node that has been dispatched and whose release waits at its source or is not yet made (R313, R386): its process and TCB, the
entry it chose once its word has been read, and the store of a chain signal's subtraction once that has issued. -/
structure NodeWait where
  pid : Nat := 0
  tcb : Nat := 0
  entry : Option Nat := none
  store : Option Nat := none
deriving DecidableEq, Repr, Inhabited

/-- A request to the mapping engine (R336): its Function Table entry's index, key, the agents that wait for it as (kind, number),
and the cause and edge of its failure once it has one. -/
structure MapReq where
  pid : Nat := 0
  fidx : Nat := 0
  cls : Nat := 0
  digest : BitVec 384 := 0
  waiters : List (Nat × Nat) := []
  fail : Option (Nat × Nat) := none
deriving DecidableEq, Repr, Inhabited

/-- A request in a placement queue (R343, R382): a CALL's callee, a racked image, or a task. -/
inductive PlaceReq where
  | call (inst : Nat)
  | image (inst : Nat)
  | task (pid tcb prio seq : Nat)
deriving DecidableEq, Repr, Inhabited

/-- A gang (R345, R346): age and plan (die, column, row for each member) until it is placed. -/
structure Gang where
  pid : Nat := 0
  members : List Nat := []
  dieMask : Nat := 0
  age : Nat := 0
  plan : List (Nat × Nat × Nat) := []
  placed : Bool := false
  /-- It waits for a restore of its racked members, not for its first placement. -/
  restoring : Bool := false
  packet : Option (Nat × Nat × Nat) := none
  /-- A member was killed: the GLAUNCH ends without a signal (R430). -/
  spoiled : Bool := false
deriving DecidableEq, Repr, Inhabited

/-- A ready-pool entry (R381). -/
structure PoolEnt where
  tcb : Nat := 0
  pid : Nat := 0
  prio : Nat := 0
  age : Nat := 0
  seq : Nat := 0
deriving DecidableEq, Repr, Inhabited

/-- The WAIT state of a queue (R272). -/
structure WaitSt where
  addr : Nat := 0
  value : W64 := 0
  cond : Nat := 0
  deadline : Option Nat := none
  /-- An atomic has left a word that meets the condition (R275). -/
  hit : Bool := false
deriving DecidableEq, Repr, Inhabited

/-- How far a started packet has come (R273). -/
inductive PktSt where
  /-- It has started; an access of its first work waits or is withheld. -/
  | begins
  /-- Its work is done; its signal is still due. -/
  | done
  /-- CFGLOAD waits for its region, or for its residency to be idle under RELEASE (R277). -/
  | claim
  /-- CFGLOAD's residency `inst` is loading or its thread runs. -/
  | runs (inst : Nat)
  /-- BIND waits for residency `inst`, in the order of its ticket; then its phase runs (R278). -/
  | bindWait (inst ticket : Nat)
  | bindRuns (inst : Nat)
  /-- GRAPH waits to enter its records (R279). -/
  | admits
  /-- COPY has copied `pos` bytes (R276). -/
  | copies (pos : Nat)
  /-- GLAUNCH waits for its gang (R280). -/
  | gang (g : Nat)
  /-- WAIT waits for its word (R275). -/
  | waits
  /-- It faulted: no signal (R281). -/
  | faulted
deriving DecidableEq, Repr, Inhabited

/-- A started packet: index, its eight words, and how far it has come. -/
structure RunPkt where
  idx : Nat := 0
  words : List W64 := []
  st : PktSt := .begins
  /-- The gang that a GLAUNCH made (R280). -/
  gang : Nat := 0xFFFFFFFF
deriving DecidableEq, Repr, Inhabited

/-- The states of a queue (R272). -/
inductive QState where
  | stopped | unmapped | mapped
deriving DecidableEq, Repr, Inhabited

/-- A user-mode queue: descriptor (R285) and state (R272). -/
structure Queue where
  qid : Nat := 0
  pid : Nat := 0
  log2s : Nat := 4
  gang : Nat := 0
  ring : Nat := 0
  npage : Nat := 0
  w : W64 := 0
  rd : W64 := 0
  ign : BitVec 32 := 0
  st : QState := .unmapped
  last : BitVec 8 := 0
  wait : Option WaitSt := none
  running : List RunPkt := []
  /-- Accepted WIDX writes whose packets have not all started: the index and the cycle (R271). -/
  admits : List (W64 × Nat) := []
  /-- Destroyed; its started packets run on (R283). -/
  dead : Bool := false
deriving DecidableEq, Repr, Inhabited

/-- A gang of queues that is mapped, or wants mapping (R282): members, whether it holds its slots, and the cycles of its
last start, of its becoming idle and of its request for slots. -/
structure QGang where
  key : Nat × Nat := (0, 0)
  mapped : Bool := false
  lastStart : Nat := 0
  idleAt : Option Nat := none
  wantAt : Option Nat := none
  /-- The member served last. -/
  turn : Nat := 0
deriving DecidableEq, Repr, Inhabited

/-- A process context (R284). -/
structure Ctx where
  mode : W64 := 0x29AE
  ptroot : Nat := 0
  ftab : Nat := 0
  ftabn : Nat := 0
  fqsize : Nat := 64
  fqbase : Nat := 0
  pool : Nat := 0
deriving DecidableEq, Repr, Inhabited

/-- A packet on a die's networks (R251, R261). -/
structure Packet where
  id : Nat := 0
  pid : Nat := 0
  src : Nat := 0
  dst : Nat := 0
  msg : Msg := {}
  /-- The package it goes to, when it leaves this one (R442). -/
  out : Option Nat := none
  at_ : Nat := 0
  escaped : Bool := false
deriving DecidableEq, Repr, Inhabited

/-- An entry of a router's table of reads in flight (R256): router, line, OPEN, and the requesters as (INST, cell, port,
reorder entry), its own first. -/
structure Comb where
  router : Nat := 0
  line : Nat := 0
  opened : Bool := true
  reqs : List (Nat × Nat × Nat × Nat) := []
deriving DecidableEq, Repr, Inhabited

/-- A walk in progress (R357): process, 64 KiB granule, and the misses that share it, each as the holder and the cell of an operator, or
the holder or queue and what of it waits. -/
structure Walk where
  pid : Nat := 0
  gran : Nat := 0
  who : List (Nat × Nat) := []
deriving DecidableEq, Repr, Inhabited

/-- A withheld access (R363): who waits, for which address, since when, and the time of the next walk. -/
structure Withheld where
  who : Agent := .host
  cell : Option Nat := none
  copy : Option Nat := none
  /-- The endpoint at a port that waits. -/
  ep : Option Nat := none
  va : Nat := 0
  /-- What the access asks for, and INFO of the last walk. -/
  read : Bool := false
  write : Bool := false
  info : Nat := 0
  /-- INFO of the QACCESS of a packet's access (R281). -/
  code : Nat := 3
  since : Nat := 0
  next : Nat := 0
  die : Nat := 0
deriving DecidableEq, Repr, Inhabited

/-- A tenant's state at a slice (R407). -/
structure Tenant where
  level : Nat := 0
  arr : Bool := false
  red : Bool := false
deriving DecidableEq, Repr, Inhabited

/-- A memory slice's share state (R407, R408, R410): tenants, share queue of (entry, port), requests that wait for their turn, as
(entry, port) in arrival order, holds of (port, entry), lines served, and the entry last served in turn. -/
structure Slice where
  tenants : Tbl Tenant := []
  queue : List (Nat × Nat) := []
  waiting : List (Nat × Nat) := []
  holds : List (Nat × Nat) := []
  /-- Requests that have been served and whose lines have not yet moved, as (entry, port). -/
  grants : List (Nat × Nat) := []
  served : Nat := 0
  lastServed : Nat := 0
deriving DecidableEq, Repr, Inhabited

/-- A persist-buffer line: value and poison (R323). -/
structure PbLine where
  val : Line := 0
  psn : BitVec 16 := 0
deriving DecidableEq, Repr, Inhabited

/-- Where an agent's recovery entry is (R325, R326), and its last PEPOCH once it has ended. -/
structure Recov where
  die : Nat := 0
  entry : Nat := 64
  ended : Option Nat := none
deriving DecidableEq, Repr, Inhabited

/-- A die's Queue Sequencer (R272, R282, R283, R286). -/
structure DieQ where
  queues : Tbl Queue := []
  gangs : List QGang := []
  /-- The gang served last, and the cycle of the last unmapping for want of slots (R282). -/
  turn : Nat × Nat := (0, 0)
  starveAt : Nat := 0
  aarg : W64 := 0
  acmd : W64 := 0
  astat : W64 := 0
  patch : List (BitVec 12 × BitVec 80) := []
  patchSvn : Nat := 0
  patchImg : List Byte := []
  /-- Named residencies of the die: (PID, RNAME, INST) (R277). -/
  names : List (Nat × Nat × Nat) := []
deriving DecidableEq, Repr, Inhabited

/-- A die's placement tables (R333, R336, R343, R381, R389). -/
structure DiePlace where
  area : Tbl AreaEnt := []
  shapes : List ShapeEnt := []
  hits : BitVec 32 := 0
  maps : List MapReq := []
  queue : List PlaceReq := []
  passed : Nat := 0
  /-- Later requests wait until the head is placed (R343). -/
  headBlock : Bool := false
  pool : List PoolEnt := []
  poolSeq : BitVec 32 := 0
  /-- Control nodes whose releases wait (R386). -/
  nodes : List NodeWait := []
  /-- Holding buffer: (TCB, PID, PRIO) (R389). -/
  holding : List (Nat × Nat × Nat) := []
  /-- Rings found unusable: (PID, cycle of the next try) (R389). -/
  badRings : List (Nat × Nat) := []
  /-- Processes whose rings hold records, as the device last left them (R389). -/
  ringed : List Nat := []
  /-- Placements at the idle-region or free-region scan of the head's turn (R282, R343). -/
  ringTurn : Nat := 0
deriving DecidableEq, Repr, Inhabited

/-- A die's device registers outside the Queue Sequencer (R358, R406, R419, R444). -/
structure DieRegs where
  xinva : W64 := 0
  xinvl : W64 := 0
  xinvs : W64 := 0
  prtgt : W64 := 0
  prstat : W64 := 0
  /-- SHENT as written, the table in force, SHCAP as written and in force, a checked table waiting for the tick. -/
  shent : Tbl W64 := [(0, 0x8000000000000400)]
  shcap : W64 := 6656
  shstat : W64 := 0
  shNow : Tbl W64 := [(0, 0x8000000000000400)]
  capNow : Nat := 6656
  shNext : Option (Tbl W64 × Nat) := none
  /-- Port status: the nine ZLK ports, then the three die-to-die links (R444). -/
  ports : List W64 := List.replicate 12 0x8000000000000000
deriving DecidableEq, Repr, Inhabited

/-- A die's memory-side state (R313, R323, R357, R363, R407, R256, R261). -/
structure DieMem where
  pb : Tbl PbLine := []
  aseq : Nat := 0
  /-- Durable stores and chain stores of the die's agents that have issued (R313, R323). -/
  pend : List Pending := []
  net : List Packet := []
  combs : List Comb := []
  walks : List Walk := []
  /-- Misses that found every walk busy, in order of arrival: process, granule, and who waits (R357). -/
  misses : List (Nat × Nat × Nat × Nat) := []
  /-- Walks that have ended for misses of control threads, copies, endpoints and queues, which hold them until they go on: process, granule
  and who waited (R357). -/
  walked : List (Nat × Nat × Nat × Nat) := []
  slices : List Slice := List.replicate 16 {}
  /-- Refill ticks that have taken effect (R399). -/
  ticks : Nat := 0
  /-- Of each direction of a cell's network port, by cell × 2 + direction (1 outward): SCYC when it last moved a line, and the lines
  moved since SCYC took that value (R402). -/
  portLines : Tbl (Nat × Nat) := []
deriving DecidableEq, Repr, Inhabited

/-- A die. -/
structure Die where
  fcyc : W64 := 0
  scyc : W64 := 0
  q : DieQ := {}
  p : DiePlace := {}
  r : DieRegs := {}
  m : DieMem := {}
  /-- Fault records posted (R434 word 3). -/
  faultSeq : W64 := 0
deriving DecidableEq, Repr, Inhabited

/-- The memories (R289, R307): HBM and Cellar stacks by physical address, scratchpads by cell × 2^20 + offset, poisoned words
by address / 4, and host memory. -/
structure Mem where
  bytes : List (Nat × Byte) := []
  poison : List Nat := []
  scratch : List (Nat × Byte) := []
  scratchPoison : List Nat := []
  host : List (Nat × Byte) := []
  /-- Ingress positions as the device has taken them, by the physical address of the word; 0 where none is listed (R295). -/
  ipos : Tbl Nat := []
deriving DecidableEq, Repr, Inhabited

/-- D0's host, identity and power registers (R438 to R450). -/
structure HostRegs where
  intMap : Tbl W64 := []
  msix : Tbl W64 := []
  pending : W64 := 0
  /-- MSI-X enable and function mask of the function's message control, which stand in its configuration space (R437, R440, log 18). -/
  msixOn : Bool := true
  msixMask : Bool := false
  /-- The cycle of each vector's last message, and the messages sent (R440). -/
  msgAt : Tbl Nat := []
  sent : List Nat := []
  devevt : W64 := 0
  podid : W64 := 0
  plim : W64 := 1800
  fsvn : Nat := 0
  lifeCycle : Nat := 0
  lcstat : W64 := 0
  token : List (Nat × Byte) := []
  nonce : List (Nat × Byte) := []
  report : List Byte := []
  atstat : W64 := 0
  huok : Bool := true
  throttle : Bool := false
  stopped : Bool := false
  /-- Data returned by the last HOST_READ; none for Unsupported Request (R439). -/
  readData : Option Nat := none
  unsupported : Bool := false
deriving DecidableEq, Repr, Inhabited

/-- The old value of a deferred MU atomic on its way to a lane (R238). -/
structure LaneDone where
  inst : Nat := 0
  cell : Nat := 0
  port : Nat := 0
  entry : Nat := 0
  lane : Nat := 0
  val : Nat := 0
  psn : Bool := false
deriving DecidableEq, Repr, Inhabited

/-- An instance-scoped region of a holder that has ended, base and blocks, until the holder's accesses are accepted (R370). -/
structure Freeing where
  inst : Nat := 0
  pid : Nat := 0
  region : Nat × Nat := (0, 0)
deriving DecidableEq, Repr, Inhabited

/-- A transfer that leaves over ZLK for another package (R442): a line of a host-range stream, written at a BAR4 address with a byte
mask; a host write to a notify page; a message, with its destination; the status that answers a message of a peer's instance; and what a
peer's read of BAR4's addresses returns, none where it returns no data. -/
inductive PeerOut where
  | mem (pkg addr : Nat) (mask : BitVec 64) (val : Line)
  | nwr (pkg die page off len : Nat) (v : W64)
  | msg (pkg dst : Nat) (m : Msg)
  | answer (pkg src status : Nat)
  | data (pa len : Nat) (v : Option Nat)
deriving DecidableEq, Repr, Inhabited

/-- The package's own tables and counters (R123, R309, R342, R345, R403). -/
structure Pkg where
  /-- What has left over ZLK for another package, oldest first (R442). -/
  peerOut : List PeerOut := []
  chains : Tbl Chain := []
  gangs : Tbl Gang := []
  ctxs : Tbl Ctx := []
  withheld : List Withheld := []
  /-- Regions of holders that have ended, not yet free (R370). -/
  freeing : List Freeing := []
  /-- Recovery entries of agents, by INST (R326). -/
  recov : Tbl Recov := []
  /-- Old values of deferred MU atomics on their way to their lanes (R238). -/
  laneDone : List LaneDone := []
  /-- RES of each resource (R403), by the resource number of `Res.key`. -/
  res : Tbl Nat := []
  nextInst : Nat := 1
  nextGang : Nat := 1
  pseq : Nat := 0
  age : Nat := 0
  nextId : Nat := 0
deriving DecidableEq, Repr, Inhabited

end Sys2Proof.Machine
end

