-- ==== Sys2Proof/Machine/State.lean ====
section
/-! DEFINITION. The state of the package, the reasons a step can stop, and the state after reset. -/

namespace Sys2Proof.Machine

/-- Why the machine stops. -/
inductive Fault where
  /-- Raised by `step` and by every thread or event other than a reset once the package has stopped on loss of power (R445,
  R447). Safe: the hardware does nothing until power returns. -/
  | stopped
deriving DecidableEq, Repr

/-- Why a step has no meaning. -/
inductive Refusal where
  /-- Raised by the arm of an instruction that has no meaning yet. Safe. -/
  | notModelled (mnemonic : String)
deriving DecidableEq, Repr

/-- The state of the package. `hold` is keyed by INST (R123); `cur` is the INST of the thread whose word is being executed;
`agenda` and `freeCount` are the model's own (log 4). -/
structure State where
  hold : Tbl Holder := []
  cur : Nat := 0
  mem : Mem := {}
  dies : List Die := List.replicate 4 {}
  pkg : Pkg := {}
  host : HostRegs := {}
  agenda : List Turn := []
  freeCount : Nat := 0
  /-- Writes that their own agents' reads on other paths may still miss (R297, R299). -/
  unf : List Unfenced := []
deriving DecidableEq, Repr, Inhabited

/-- The package right after reset: every memory wiped, every table empty, every counter at its start value (R332, R397,
R448). Values the manual does not give are named in log entries 1 to 4. -/
def State.reset : State := {}

/-- The outcome of a step. -/
abbrev Out := Host.Outcome State Fault Refusal

end Sys2Proof.Machine
end

