-- ==== Sys2Proof/Machine/Basics.lean ====
section
/-! DEFINITION. Access to the parts of the state: the current thread's holder, holders by INST, dies, and the agenda. -/

namespace Sys2Proof.Machine

/-- The holder whose thread's word is being executed. -/
def State.me? (s : State) : Option Holder := s.hold.find s.cur

/-- A holder by INST. -/
def State.h? (s : State) (i : Nat) : Option Holder := s.hold.find i

/-- Replace a holder's record. -/
def State.setH (s : State) (i : Nat) (h : Holder) : State := { s with hold := s.hold.put i h }

/-- Change a holder's record, if there is one. -/
def State.modH (s : State) (i : Nat) (f : Holder → Holder) : State := { s with hold := s.hold.modify i f }

/-- Change the current thread. -/
def State.modTh (s : State) (f : Thread → Thread) : State :=
  s.modH s.cur fun h => { h with th := f h.th }

/-- Change a holder's thread. -/
def State.modThOf (s : State) (i : Nat) (f : Thread → Thread) : State :=
  s.modH i fun h => { h with th := f h.th }

/-- A die. -/
def State.die (s : State) (d : Nat) : Die := s.dies.getD d {}

/-- Change a die. -/
def State.modDie (s : State) (d : Nat) (f : Die → Die) : State := { s with dies := listMod s.dies d f }

/-- Change a die's Queue Sequencer. -/
def State.modQ (s : State) (d : Nat) (f : DieQ → DieQ) : State := s.modDie d fun x => { x with q := f x.q }

/-- Change a die's placement tables. -/
def State.modP (s : State) (d : Nat) (f : DiePlace → DiePlace) : State := s.modDie d fun x => { x with p := f x.p }

/-- Change a die's memory-side state. -/
def State.modM (s : State) (d : Nat) (f : DieMem → DieMem) : State := s.modDie d fun x => { x with m := f x.m }

/-- Change a die's device registers. -/
def State.modR (s : State) (d : Nat) (f : DieRegs → DieRegs) : State := s.modDie d fun x => { x with r := f x.r }

/-- Change the package tables. -/
def State.modPkg (s : State) (f : Pkg → Pkg) : State := { s with pkg := f s.pkg }

/-- Change the host registers. -/
def State.modHost (s : State) (f : HostRegs → HostRegs) : State := { s with host := f s.host }

/-- Change the memories. -/
def State.modMem (s : State) (f : Mem → Mem) : State := { s with mem := f s.mem }

/-- The fabric-cycle counter of a die as a number (R397). -/
def State.now (s : State) (d : Nat) : Nat := (s.die d).fcyc.toNat

/-- Cycles in a microsecond (R398). -/
def usCycles : Nat := 600

/-- The first number from `n` on that is not in use, of those below 0xFFFF_FFFF; `used` is at least how many are in use (R123). -/
def freeNumber (n used : Nat) (inUse : Nat → Bool) : Nat :=
  let at_ (j : Nat) : Nat := (n + j) % (2 ^ 32 - 1)
  match (List.range (used + 1)).find? fun j => !inUse (at_ j) with
  | some j => at_ j
  | none => at_ 0

/-- The condition codes of SIGWAIT and WAIT packets (R275, R393). -/
def condHolds (c : Nat) (v x : W64) : Bool :=
  match c with
  | 0 => v == x
  | 1 => v != x
  | 2 => v.slt x
  | _ => !v.slt x

/-- A fresh number for a store or a packet. -/
def State.fresh (s : State) : Nat × State :=
  (s.pkg.nextId, s.modPkg fun p => { p with nextId := p.nextId + 1 })

/-- A fresh argument for a free value of Config (log 4). -/
def State.free (s : State) : Nat × State := (s.freeCount, { s with freeCount := s.freeCount + 1 })

/-- The context of a process (R284). -/
def State.ctx? (s : State) (pid : Nat) : Option Ctx := s.pkg.ctxs.find pid

/-- FAULTWAIT of a mode word, in µs (R125). -/
def modeFaultWait (m : W64) : Nat := bits m.toNat 9 10
/-- The AUDIT round length of a mode word, 0 when off (R125). -/
def modeAudit (m : W64) : Nat :=
  let v := bits m.toNat 5 3
  if v = 0 then 0 else 16 * 2 ^ (v - 1)
/-- A bit of a mode word (R125): 0 PREEMPT, 1 P2EN, 2 P3EN, 3 P4EN, 4 RAD1, 8 REPLAY, 19 QOS, 20 FLUSH, 21 PERSIST. -/
def modeBit (m : W64) (i : Nat) : Bool := bitAt m.toNat i

/-- The bit of a class in a mask (R86). -/
def PathClass.bit : PathClass → Nat
  | .ct => 0 | .fs => 1 | .bk => 2 | .mw => 3 | .hx => 4 | .mg => 5

/-- Whether a class mask names a class. -/
def maskHas {n : Nat} (m : BitVec n) (c : PathClass) : Bool := m.getLsbD c.bit

/-- SSTAT as MFS reads it (R132). -/
def SysRegs.sstat (r : SysRegs) : W64 :=
  BitVec.ofNat 64 (r.nbound.toNat * 256 + b2n r.serr * 4 + b2n r.run * 2 + b2n r.wake)

/-- The index of a cell in its die's Area Table (R333). -/
def cellIndex (col row : Nat) : Nat := col * 16 + row

/-- The cells of a rectangle, in column-major order. -/
def rect (col row w h : Nat) : List Nat :=
  (List.range w).flatMap fun x => (List.range h).map fun y => cellIndex (col + x) (row + y)

/-- The absolute cell of cell `c` of a region, in column-major order relative to the origin (R9). -/
def HolderId.cellAt (h : HolderId) (c : Nat) : Nat := cellIndex (h.col + c / h.h) (h.row + c % h.h)

/-- The number of cells of a region. -/
def HolderId.ncells (h : HolderId) : Nat := h.w * h.h

/-- The key of a scratchpad byte: 2^20 bytes for each of the package's 2,048 cells (R7). -/
def scratchKey (die cell off : Nat) : Nat := (die * 512 + cell) * 2 ^ 20 + off

/-! ## The two units (R118, R119) -/

/-- The unit that is ahead in program order, true the E-unit: outcomes it has pushed are still to be popped, words or jumps that it has
left to the other still to be taken, or words still to be skipped. -/
def Thread.ahead (t : Thread) : Option Bool :=
  if !t.bqe.isEmpty then some true else if !t.bqa.isEmpty || t.lead.words ≠ 0 || t.lead.jumps ≠ 0 then some false
  else if t.pcA < t.pcE then some true else if t.pcE < t.pcA then some false else none

/-- The index of the next word or sequence in program order. -/
def Thread.pc (t : Thread) : Nat := if t.ahead == some true then t.pcE else t.pcA

/-- The word or sequence at the pc is passed: the unit that is ahead goes on at an index, or both do. -/
def Thread.pass (t : Thread) (i : Nat) : Thread :=
  match t.ahead with
  | some true => { t with pcE := i }
  | some false => { t with pcA := i }
  | none => { t with pcA := i, pcE := i }

/-- A code-store word (R78): past the loaded words, and at index 4,096, 0xFFFF_FFFF. -/
def Thread.word (t : Thread) (i : Nat) : W32 := if i < 4096 then t.code.getD i 0xFFFFFFFF else 0xFFFFFFFF

/-- The word of a sequence that stands behind its prefixes (R76). -/
def Thread.seqWord (t : Thread) (k : Nat) : Nat :=
  (((List.range 3).map fun i => (t.word (k + i)).toNat).find? fun w => bits w 26 6 < 0x3E).getD 0xFFFFFFFF

/-- Read a register: register 0 reads 0 (R114). -/
def regGet (f : Vector W64 32) (r : Reg) : W64 := if r = 0 then 0 else f[r.val]

/-- Read an a-register. -/
def Thread.a (t : Thread) (r : Reg) : W64 := regGet t.regs.a r

/-- A port of a holder. -/
def Holder.port (h : Holder) (p : Nat) : Port := h.ports.getD p {}

/-- No request of an MU port is in flight, and no SEND waits for its answer: what a freeze or a drain waits for (R240, R251, R421). -/
def Holder.answered (h : Holder) : Bool :=
  (h.dp.cells.all fun x => x.ports.all fun p => p.rob.all fun r => r.res.isSome) && (match h.th.wait with | .send _ => false | _ => true)

/-- The thread of a holder is one that issues: placed, not halted, and not stopped by a drain or a freeze (R420, R421). -/
def Holder.runs (h : Holder) : Bool := h.id.life == .placed && !h.th.halted && !h.ev.draining && h.ev.rackBy.isNone

end Sys2Proof.Machine
end

