-- ==== Sys2Proof/Machine/Clock.lean ====
section
/-! DEFINITION. The local cycle counters (R397). -/

namespace Sys2Proof.Machine

/-- One fabric cycle of a die: its FCYC gains 1 and its SCYC, which runs at twice the rate (R397, R447), gains 2. The counters of different
dies are not synchronised: nothing ties one die's cycles to another's. -/
def tick (s : State) (d : Nat) : State := s.modDie d fun x => { x with fcyc := x.fcyc + 1, scyc := x.scyc + 2 }

/-- A die's counters after a step: a package reset has set both to 0; every other step leaves them as they stood (R397). -/
def dieClocks (o n : Die) : Die :=
  if n.fcyc = 0 ∧ n.scyc = 0 then n else { n with fcyc := o.fcyc, scyc := o.scyc }

/-- The dies' counters after a step other than a cycle. -/
def keepClocks (old new : State) : State :=
  { new with dies := (old.dies.zip new.dies).map fun (o, n) => dieClocks o n }

/-- The turn a step takes: the head of the agenda, or a free choice when it is empty; the counter of free
values advances (log 4). -/
def nextTurn (s : State) : Turn × State :=
  match s.agenda with
  | t :: rest => (t, { s with agenda := rest, freeCount := s.freeCount + 1 })
  | [] => (Config.freeTurn s.freeCount, { s with freeCount := s.freeCount + 1 })

/-- A stopped package takes no turn but a reset (R445). -/
def blockedTurn (s : State) (t : Turn) : Bool :=
  s.host.stopped && (match t with | .event .reset => false | _ => true)

end Sys2Proof.Machine
end

