-- ==== Sys2Proof/Machine/Sha.lean ====
section
/-! DEFINITION. SHA-384, by which graphs, patches and the control store are named (R113, R287, R450). The manual names the function and does not define it; this is FIPS 180-4 (log 15). -/

namespace Sys2Proof.Machine

/-- The first primes. -/
def primesTo (n : Nat) : List Nat := (List.range n).filter fun k => 2 ≤ k && (List.range k).all fun d => d < 2 || k % d != 0

/-- The integer cube root of `x`, by bits from `2^n` down. -/
def cubeRoot (x : Nat) : Nat → Nat → Nat
  | 0, r => if (r + 1) ^ 3 ≤ x then r + 1 else r
  | n + 1, r => cubeRoot x n (if (r + 2 ^ (n + 1)) ^ 3 ≤ x then r + 2 ^ (n + 1) else r)

/-- The integer square root, likewise. -/
def squareRoot (x : Nat) : Nat → Nat → Nat
  | 0, r => if (r + 1) ^ 2 ≤ x then r + 1 else r
  | n + 1, r => squareRoot x n (if (r + 2 ^ (n + 1)) ^ 2 ≤ x then r + 2 ^ (n + 1) else r)

/-- K of SHA-384: 64 bits of the fractions of the cube roots of the first 80 primes. -/
def shaK : List W64 := (primesTo 410).map fun p => BitVec.ofNat 64 (cubeRoot (p * 2 ^ 192) 70 0)

/-- The start value: 64 bits of the fractions of the square roots of the ninth to the sixteenth prime. -/
def shaH : List W64 := ((primesTo 54).drop 8).map fun p => BitVec.ofNat 64 (squareRoot (p * 2 ^ 128) 70 0)

def shaS0 (x : W64) : W64 := x.rotateRight 28 ^^^ x.rotateRight 34 ^^^ x.rotateRight 39
def shaS1 (x : W64) : W64 := x.rotateRight 14 ^^^ x.rotateRight 18 ^^^ x.rotateRight 41
def shas0 (x : W64) : W64 := x.rotateRight 1 ^^^ x.rotateRight 8 ^^^ (x >>> 7)
def shas1 (x : W64) : W64 := x.rotateRight 19 ^^^ x.rotateRight 61 ^^^ (x >>> 6)

/-- The 80 words of a block's schedule. -/
def shaW (m : List W64) : List W64 :=
  (List.range 64).foldl (fun w i =>
    w ++ [shas1 (w.getD (i + 14) 0) + w.getD (i + 9) 0 + shas0 (w.getD (i + 1) 0) + w.getD i 0]) m

/-- One round on the eight working words. -/
def shaRound (v : List W64) (kw : W64) : List W64 :=
  match v with
  | [a, b, c, d, e, f, g, h] =>
    let t1 := h + shaS1 e + ((e &&& f) ^^^ (~~~e &&& g)) + kw
    let t2 := shaS0 a + ((a &&& b) ^^^ (a &&& c) ^^^ (b &&& c))
    [t1 + t2, a, b, c, d + t1, e, f, g]
  | l => l

/-- One block. -/
def shaBlock (h : List W64) (m : List W64) : List W64 :=
  let v := ((shaK.zip (shaW m)).map fun (k, w) => k + w).foldl shaRound h
  (h.zip v).map fun (x, y) => x + y

/-- A big-endian number from bytes. -/
def bytesBE (l : List Byte) : Nat := l.foldl (fun n b => n * 256 + b.toNat) 0

/-- The blocks of a padded message, each sixteen words. -/
def shaBlocks : Nat → List Byte → List (List W64)
  | 0, _ => []
  | n + 1, l => ((List.range 16).map fun i => BitVec.ofNat 64 (bytesBE ((l.drop (8 * i)).take 8))) :: shaBlocks n (l.drop 128)

/-- SHA-384 of a message, as a number whose first byte is most significant. -/
def sha384 (l : List Byte) : BitVec 384 :=
  let n := l.length
  let k := (n + 17 + 127) / 128
  let pad := (0x80 : Byte) :: List.replicate (128 * k - n - 17) 0
  let len := (List.range 16).map fun i => BitVec.ofNat 8 (8 * n / 256 ^ (15 - i))
  let h := (shaBlocks k (l ++ pad ++ len)).foldl shaBlock shaH
  BitVec.ofNat 384 ((h.take 6).foldl (fun n w => n * 2 ^ 64 + w.toNat) 0)

/-- The 48 bytes of a digest, first byte first. -/
def digestBytes (d : BitVec 384) : List Byte := (List.range 48).map fun i => BitVec.ofNat 8 (d.toNat / 256 ^ (47 - i))

/-- A little-endian number from bytes. -/
def bytesLE (l : List Byte) : Nat := l.foldr (fun b n => b.toNat + 256 * n) 0

/-- A digest as tables and images hold it: its first byte is the least significant (R335, R336, R422). -/
def digestLE (l : List Byte) : BitVec 384 := BitVec.ofNat 384 (bytesLE (digestBytes (sha384 l)))

end Sys2Proof.Machine
end

