-- ==== Sys2Proof/Machine/Ecdsa.lean ====
section
/-! DEFINITION. ECDSA over the 384-bit random Brainpool curve of RFC 5639 with SHA-384 (R5, R287, R449, R450): curve and algorithm are
PRESUMED from RFC 5639 and FIPS 186 (log 9); the keys are free values. -/

namespace Sys2Proof.Machine

/-- The prime of brainpoolP384r1. -/
def ecP : Nat := 0x8CB91E82A3386D280F5D6F7E50E641DF152F7109ED5456B412B1DA197FB71123ACD3A729901D1A71874700133107EC53
/-- Its coefficient A. -/
def ecA : Nat := 0x7BC382C63D8C150C3C72080ACE05AFA0C2BEA28E4FB22787139165EFBA91F90F8AA5814A503AD4EB04A8C7DD22CE2826
/-- The order of its generator. -/
def ecQ : Nat := 0x8CB91E82A3386D280F5D6F7E50E641DF152F7109ED5456B31F166E6CAC0425A7CF3AB6AF6B7FC3103B883202E9046565
/-- A point of the curve; none is the point at infinity. -/
abbrev EcPoint := Option (Nat × Nat)
/-- Its generator. -/
def ecG : EcPoint :=
  some (0x1D1C64F068CF45FFA2A63A81B7C13F6B8847A3E77EF14FE3DB7FCAFE0CBD10E8E826E03436D646AAEF87B2E247D4AF1E,
        0x8ABE1D7520F9C2A45CB1EB8E95CFD55262B70B29FEEC5864E19C054FF99129280E4646217791811142820341263C5315)

/-- A power modulo `m`, for exponents below 2 to the fuel. -/
def powMod (m : Nat) : Nat → Nat → Nat → Nat
  | 0, _, _ => 1 % m
  | n + 1, b, e =>
    let r := powMod m n (b * b % m) (e / 2)
    if e % 2 == 1 then r * b % m else r

/-- The inverse modulo a prime of 384 bits. -/
def invMod (m a : Nat) : Nat := powMod m 384 (a % m) (m - 2)

/-- The sum of two points. -/
def ecAdd (a b : EcPoint) : EcPoint :=
  match a, b with
  | none, b => b
  | a, none => a
  | some (x, y), some (u, v) =>
    if x == u && (y + v) % ecP == 0 then none
    else
      let l := if x == u then (3 * x * x + ecA) * invMod ecP (2 * y) % ecP
        else (v + ecP - y) * invMod ecP (u + ecP - x) % ecP
      let w := (l * l + 2 * ecP - x - u) % ecP
      some (w, (l * (x + ecP - w) + ecP - y) % ecP)

/-- A multiple of a point, for numbers below 2 to the fuel. -/
def ecMul : Nat → Nat → EcPoint → EcPoint
  | 0, _, _ => none
  | n + 1, k, p =>
    let r := ecMul n (k / 2) (ecAdd p p)
    if k % 2 == 1 then ecAdd r p else r

/-- The number that is signed: the digest of a message. -/
def ecHash (msg : List Byte) : Nat := (sha384 msg).toNat

/-- A signature of 96 bytes, r and s of 48 bytes each, big-endian (R287), verifies under a public key. -/
def ecVerify (key : Nat × Nat) (msg sig : List Byte) : Bool :=
  let r := bytesBE (sig.take 48)
  let s := bytesBE (sig.drop 48)
  let w := invMod ecQ s
  sig.length == 96 && 1 ≤ r && r < ecQ && 1 ≤ s && s < ecQ &&
  (match ecAdd (ecMul 384 (ecHash msg * w % ecQ) ecG) (ecMul 384 (r * w % ecQ) (some key)) with
   | some (x, _) => x % ecQ == r
   | none => false)

/-- A number as 48 bytes, big-endian. -/
def be48 (n : Nat) : List Byte := digestBytes (BitVec.ofNat 384 n)

/-- The signature of a message by a private key with a secret number. -/
def ecSign (d k : Nat) (msg : List Byte) : List Byte :=
  match ecMul 384 k ecG with
  | some (x, _) =>
    let r := x % ecQ
    be48 r ++ be48 (invMod ecQ k * (ecHash msg + r * d) % ecQ)
  | none => be48 0 ++ be48 0

/-- A signature verifies under one of Talsel's keys: 0 patch, 1 life-cycle token (R287, R449). -/
def sigOk (k : Nat) (msg sig : List Byte) : Bool := ecVerify (Config.talselKey k) msg sig

/-- The signature of a message by the device identity key (R450). -/
def identitySign (msg : List Byte) : List Byte := ecSign Config.identityKey (Config.signNonce msg) msg

end Sys2Proof.Machine
end

