-- ==== Sys2Proof/WellFormed.lean ====
section
/-! DEFINITION. The field rules of R75, R77 and R86 to R90 that a word's fields must meet; a word that breaks one traps ILL at decode. -/

namespace Sys2Proof

/-- R75: a queue flag is set only while its register field is 0. -/
def flagOk (q : Bool) (r : Reg) : Bool := !q || r == 0

/-- R75 over the three operands. -/
def R3.ok (f : R3) : Bool := flagOk f.qd f.d && flagOk f.qa f.a && flagOk f.qb f.b
/-- R75 over the two sources. -/
def RT.ok (f : RT) : Bool := flagOk f.qa f.a && flagOk f.qb f.b
/-- R75 over d and one source. -/
def R2.ok (f : R2) : Bool := flagOk f.qd f.d && flagOk f.qa f.a
/-- R75 over d and b of an atomic. -/
def RA.ok (f : RA) : Bool := flagOk f.qd f.d && flagOk f.qb f.b
/-- R75 over b of ACAS. -/
def RC.ok (f : RC) : Bool := flagOk f.qb f.b

/-- R86: the scope codes are 0 to 4. -/
def scopeOk (s : Fin 8) : Bool := s.val ≤ 4
/-- R86: a class mask is not zero. -/
def maskOk (m : BitVec 6) : Bool := m != 0
/-- R86: the special-register numbers that are assigned. -/
def srOk (sr : Fin 32) : Bool := sr.val ≤ 0x0D
/-- R122: the special registers that MTS writes. -/
def srWritable (sr : Fin 32) : Bool := 0x06 ≤ sr.val && sr.val ≤ 0x0A
/-- R89: n is 0 to 8; n = 0 names no register; the run of registers stays below 32. -/
def runOk (first n : Fin 32) : Bool :=
  n.val ≤ 8 && (if n.val == 0 then first.val == 0 else first.val + n.val ≤ 32)

/-- The field rules of each instruction. Steps of the device have no word and no field rule. -/
def Instr.wf : Instr → Bool
  | .addE f => f.ok
  | .subE f => f.ok
  | .andE f => f.ok
  | .orE f => f.ok
  | .xorE f => f.ok
  | .andnE f => f.ok
  | .sllE f => f.ok
  | .srlE f => f.ok
  | .sraE f => f.ok
  | .rol f => f.ok
  | .ror f => f.ok
  | .mulE f => f.ok
  | .mulh f => f.ok
  | .mulhu f => f.ok
  | .div f => f.ok
  | .divu f => f.ok
  | .rem f => f.ok
  | .remu f => f.ok
  | .minE f => f.ok
  | .maxE f => f.ok
  | .minuE f => f.ok
  | .maxuE f => f.ok
  | .seqE f => f.ok
  | .sneE f => f.ok
  | .sltE f => f.ok
  | .sltuE f => f.ok
  | .sel f => f.ok
  | .clz f => f.ok
  | .popc f => f.ok
  | .bfx f => f.ok
  | .bfi f => f.ok
  | .movE f => f.ok
  | .sxb f => f.ok
  | .sxh f => f.ok
  | .sxw f => f.ok
  | .addA f => f.ok
  | .subA f => f.ok
  | .andA f => f.ok
  | .orA f => f.ok
  | .xorA f => f.ok
  | .andnA f => f.ok
  | .sllA f => f.ok
  | .srlA f => f.ok
  | .sraA f => f.ok
  | .mulA f => f.ok
  | .minA f => f.ok
  | .maxA f => f.ok
  | .minuA f => f.ok
  | .maxuA f => f.ok
  | .seqA f => f.ok
  | .sneA f => f.ok
  | .sltA f => f.ok
  | .sltuA f => f.ok
  | .movA f => f.ok
  | .fadd f => f.ok
  | .fsub f => f.ok
  | .fmul f => f.ok
  | .fma f => f.ok
  | .fmin f => f.ok
  | .fmax f => f.ok
  | .feq f => f.ok
  | .flt f => f.ok
  | .fle f => f.ok
  | .fabs f => f.ok
  | .fneg f => f.ok
  | .ftoi f => f.ok
  | .ftoiz f => f.ok
  | .ftol f => f.ok
  | .ftolz f => f.ok
  | .itof f => f.ok
  | .ltof f => f.ok
  | .ftobf f => f.ok
  | .ftoh f => f.ok
  | .bftof f => f.ok
  | .htof f => f.ok
  | .aaddW f => f.ok
  | .aaddD f => f.ok
  | .aminW f => f.ok
  | .aminD f => f.ok
  | .amaxW f => f.ok
  | .amaxD f => f.ok
  | .axchgW f => f.ok
  | .axchgD f => f.ok
  | .acasW f => f.ok
  | .acasD f => f.ok
  | .addiE _ => true
  | .andiE _ => true
  | .oriE _ => true
  | .xoriE _ => true
  | .sltiE _ => true
  | .sltiuE _ => true
  | .moviE _ _ => true
  | .movhiE _ _ => true
  | .slliE _ => true
  | .srliE _ => true
  | .sraiE _ => true
  | .bfxi _ => true
  | .bfii _ => true
  | .addiA _ => true
  | .andiA _ => true
  | .oriA _ => true
  | .xoriA _ => true
  | .sltiA _ => true
  | .sltiuA _ => true
  | .moviA _ _ => true
  | .movhiA _ _ => true
  | .slliA _ => true
  | .srliA _ => true
  | .sraiA _ => true
  | .ldB _ => true
  | .ldH _ => true
  | .ldW _ => true
  | .ldD _ => true
  | .stB _ => true
  | .stH _ => true
  | .stW _ => true
  | .stD _ => true
  | .stBSq _ _ => true
  | .stHSq _ _ => true
  | .stWSq _ _ => true
  | .stDSq _ _ => true
  | .xfence mask => maskOk mask
  | .acq _ scope => scopeOk scope
  | .rel _ scope => scopeOk scope
  | .pbar mask => maskOk mask
  | .psync mask => maskOk mask
  | .chlink _ => true
  | .chdrop _ => true
  | .chadd _ => true
  | .chstat _ => true
  | .chfree _ => true
  | .sbindG _ _ => true
  | .sbindBe _ _ => true
  | .sgo => true
  | .seos _ => true
  | .sbar => true
  | .scfg _ _ _ => true
  | .tlook _ => true
  | .tfill _ => true
  | .tevict _ => true
  | .tpin _ => true
  | .bcopy _ _ => true
  | .bwait _ => true
  | .qpush _ _ _ => true
  | .qpop _ _ _ => true
  | .send f n1 => f.b.val + n1.val ≤ 31
  | .recv _ _ => true
  | .recvw _ _ => true
  | .call f n => runOk f.b n
  | .ret x n bank => runOk x n && (n.val != 0 || !bank)
  | .waitc _ => true
  | .cancel _ => true
  | .gbar => true
  | .tsub _ => true
  | .tdec _ => true
  | .sigadd _ _ scope => scopeOk scope
  | .sigwait _ scope => scopeOk scope
  | .ralloc _ => true
  | .rfree _ => true
  | .rfork _ _ => true
  | .nop => true
  | .mfs _ sr _ => srOk sr
  | .mts sr _ _ => srWritable sr
  | .trap _ => true
  | .eret => true
  | .sleep => true
  | .halt => true
  | .jr _ => true
  | .jalr _ => true
  | .beqA _ => true
  | .bneA _ => true
  | .bltA _ => true
  | .bgeA _ => true
  | .bltuA _ => true
  | .bgeuA _ => true
  | .banyA _ => true
  | .bnoneA _ => true
  | .beqE _ => true
  | .bneE _ => true
  | .bltE _ => true
  | .bgeE _ => true
  | .bltuE _ => true
  | .bgeuE _ => true
  | .banyE _ => true
  | .bnoneE _ => true
  | .jmp _ => true
  | .jal _ => true
  | .ext _ => true
  | .rep _ _ => true
  | .threadWake _ => true
  | .stageFire _ _ _ => true
  | .reducerFire _ _ => true
  | .lutiFire _ _ => true
  | .elementFire _ _ _ => true
  | .swmMerge _ _ _ => true
  | .rollback _ => true
  | .mxWeightToken _ _ => true
  | .mxrow _ _ => true
  | .mxSegmentEnd _ _ => true
  | .cfgApply _ _ _ => true
  | .murdRequest _ _ _ => true
  | .muResponse _ _ _ _ => true
  | .muwrWrite _ _ _ => true
  | .muatUpdate _ _ _ => true
  | .musvWrite _ _ _ => true
  | .cbWrite _ _ _ => true
  | .cbRead _ _ _ => true
  | .reorderEmit _ _ => true
  | .cornerTurnEmit _ _ => true
  | .agenEmit _ _ _ => true
  | .inEndpointDeliver _ _ => true
  | .roundAck _ _ => true
  | .runFall _ => true
  | .xlatTranslate _ _ => true
  | .translationWalk _ _ => true
  | .withheldRetry _ => true
  | .faultwaitExpiry _ => true
  | .messageArrival _ _ => true
  | .escapeTimeout _ _ => true
  | .linkRetrain _ => true
  | .linkDown _ => true
  | .zlkRetrain _ => true
  | .zlkTransfer _ => true
  | .bcopyComplete _ _ => true
  | .widx _ _ _ _ _ => true
  | .ipos _ _ _ => true
  | .packetStart _ _ => true
  | .pktnv _ _ => true
  | .waitTest _ _ => true
  | .waittmo _ _ => true
  | .packetCompletion _ _ _ => true
  | .cfgloadClaim _ _ _ => true
  | .gangMap _ _ => true
  | .gangIdleUnmap _ _ => true
  | .slotStarvationUnmap _ => true
  | .ctxset _ => true
  | .qcreate _ => true
  | .qdestroy _ => true
  | .qstart _ => true
  | .patch _ => true
  | .acmdUnassigned _ _ => true
  | .xinv _ _ => true
  | .xinvComplete _ => true
  | .rack _ => true
  | .resume _ => true
  | .discard _ => true
  | .shareCommit _ _ => true
  | .refillTick _ => true
  | .lineRelease _ _ => true
  | .sliceRequest _ _ _ => true
  | .chainStoreHead _ _ => true
  | .chainForward _ _ => true
  | .chainAck _ _ => true
  | .chainRead _ _ _ _ => true
  | .chainfail _ _ => true
  | .chainHandover _ => true
  | .durableAccept _ _ => true
  | .imageLoad _ => true
  | .mappingComplete _ => true
  | .placementQueueServe _ => true
  | .placementHeadBlock _ => true
  | .gangReserve _ _ => true
  | .gangPlace _ => true
  | .dispatchDecision _ => true
  | .taskAgeing _ _ => true
  | .taskEnd _ => true
  | .overflowAdvance _ _ => true
  | .overflowRingRetry _ _ => true
  | .drain _ => true
  | .drainTimeout _ => true
  | .freeze _ => true
  | .restore _ => true
  | .msixMessage _ => true
  | .devevt _ => true
  | .hostWrite _ _ _ => true
  | .hostRead _ _ => true
  | .podid _ => true
  | .plim _ => true
  | .svnraise _ => true
  | .lcreq _ => true
  | .atcmd _ => true
  | .attestationComplete => true
  | .registerWrite _ _ _ => true
  | .pwrfail => true
  | .huokFall => true
  | .thermalWarning _ => true
  | .thermalTrip => true
  | .reset => true
  | .illAtDecode _ => true
  | .uncorrectableError _ => true
  | .huokRise => true
  | .throttleEnd => true
  | .persistBufferDrain _ => true
  | .dieLinkUp _ _ => true
  | .processEnd _ => true

end Sys2Proof
end

