-- ==== Sys2Proof/Decode.lean ====
section
/-! DEFINITION. Decoding of instruction words (R73 to R90), total on any bytes and rejecting by name, and the encoder written from the same maps. -/

namespace Sys2Proof

/-- Why a word is no instruction (R77). -/
inductive DecodeError where
  | unassignedMajor
  | unassignedFunction
  | unassignedSub
  | reservedField
  | fieldRule
  | tooShort
deriving DecidableEq, Repr

/-- A register field at bit `lo`. -/
def reg (w lo : Nat) : Reg := Fin.ofNat 32 (bits w lo 5)
/-- The immediate field, bits 15:0. -/
def imm16 (w : Nat) : BitVec 16 := BitVec.ofNat 16 w
/-- R format with three operands. -/
def r3 (w : Nat) : R3 := ⟨reg w 21, reg w 16, reg w 11, bitAt w 10, bitAt w 9, bitAt w 8⟩
/-- R format of a function that reads d. -/
def rt (w : Nat) : RT := ⟨reg w 21, reg w 16, reg w 11, bitAt w 9, bitAt w 8⟩
/-- R format with one source. -/
def r2 (w : Nat) : R2 := ⟨reg w 21, reg w 16, bitAt w 10, bitAt w 9⟩
/-- R format of an atomic. -/
def ra (w : Nat) : RA := ⟨reg w 21, reg w 16, reg w 11, bitAt w 10, bitAt w 8⟩
/-- R format of ACAS. -/
def rc (w : Nat) : RC := ⟨reg w 21, reg w 16, reg w 11, bitAt w 8⟩
/-- I format. -/
def i3 (w : Nat) : I3 := ⟨reg w 21, reg w 16, imm16 w⟩
/-- I format of a shift, n in bits 5:0. -/
def sh (w : Nat) : Sh := ⟨reg w 21, reg w 16, Fin.ofNat 64 (bits w 0 6)⟩
/-- I format of BFXI and BFII, off in bits 7:0 and wid in bits 15:8. -/
def bf (w : Nat) : Bf := ⟨reg w 21, reg w 16, Fin.ofNat 256 (bits w 0 8), Fin.ofNat 256 (bits w 8 8)⟩
/-- S format, F1, F2 and F3. -/
def s3 (w : Nat) : S3 := ⟨reg w 15, reg w 10, reg w 5⟩
/-- S format, F1 and F2. -/
def s2 (w : Nat) : S2 := ⟨reg w 15, reg w 10⟩
/-- B format. -/
def br (w : Nat) : Br := ⟨reg w 21, reg w 16, BitVec.ofNat 13 w⟩

/-- R77: a field that must be zero. -/
def zero (field : Nat) (i : Instr) : Except DecodeError Instr :=
  if field = 0 then .ok i else .error .reservedField

/-- R80, major 0x00. -/
def decEInt (w : Nat) : Except DecodeError Instr :=
  match bits w 0 8 with
  | 0x00 => .ok (.addE (r3 w))
  | 0x01 => .ok (.subE (r3 w))
  | 0x02 => .ok (.andE (r3 w))
  | 0x03 => .ok (.orE (r3 w))
  | 0x04 => .ok (.xorE (r3 w))
  | 0x05 => .ok (.andnE (r3 w))
  | 0x06 => .ok (.sllE (r3 w))
  | 0x07 => .ok (.srlE (r3 w))
  | 0x08 => .ok (.sraE (r3 w))
  | 0x09 => .ok (.rol (r3 w))
  | 0x0a => .ok (.ror (r3 w))
  | 0x0b => .ok (.mulE (r3 w))
  | 0x0c => .ok (.mulh (r3 w))
  | 0x0d => .ok (.mulhu (r3 w))
  | 0x0e => .ok (.div (r3 w))
  | 0x0f => .ok (.divu (r3 w))
  | 0x10 => .ok (.rem (r3 w))
  | 0x11 => .ok (.remu (r3 w))
  | 0x12 => .ok (.minE (r3 w))
  | 0x13 => .ok (.maxE (r3 w))
  | 0x14 => .ok (.minuE (r3 w))
  | 0x15 => .ok (.maxuE (r3 w))
  | 0x16 => .ok (.seqE (r3 w))
  | 0x17 => .ok (.sneE (r3 w))
  | 0x18 => .ok (.sltE (r3 w))
  | 0x19 => .ok (.sltuE (r3 w))
  | 0x1a => zero (bits w 10 1) (.sel (rt w))
  | 0x1b => zero (bits w 11 5 + bits w 8 1) (.clz (r2 w))
  | 0x1c => zero (bits w 11 5 + bits w 8 1) (.popc (r2 w))
  | 0x1d => .ok (.bfx (r3 w))
  | 0x1e => zero (bits w 10 1) (.bfi (rt w))
  | 0x1f => zero (bits w 11 5 + bits w 8 1) (.movE (r2 w))
  | 0x20 => zero (bits w 11 5 + bits w 8 1) (.sxb (r2 w))
  | 0x21 => zero (bits w 11 5 + bits w 8 1) (.sxh (r2 w))
  | 0x22 => zero (bits w 11 5 + bits w 8 1) (.sxw (r2 w))
  | _ => .error .unassignedFunction

/-- R81, major 0x01. -/
def decEFp (w : Nat) : Except DecodeError Instr :=
  match bits w 0 8 with
  | 0x00 => .ok (.fadd (r3 w))
  | 0x01 => .ok (.fsub (r3 w))
  | 0x02 => .ok (.fmul (r3 w))
  | 0x03 => zero (bits w 10 1) (.fma (rt w))
  | 0x04 => .ok (.fmin (r3 w))
  | 0x05 => .ok (.fmax (r3 w))
  | 0x06 => .ok (.feq (r3 w))
  | 0x07 => .ok (.flt (r3 w))
  | 0x08 => .ok (.fle (r3 w))
  | 0x09 => zero (bits w 11 5 + bits w 8 1) (.fabs (r2 w))
  | 0x0a => zero (bits w 11 5 + bits w 8 1) (.fneg (r2 w))
  | 0x0b => zero (bits w 11 5 + bits w 8 1) (.ftoi (r2 w))
  | 0x0c => zero (bits w 11 5 + bits w 8 1) (.ftoiz (r2 w))
  | 0x0d => zero (bits w 11 5 + bits w 8 1) (.ftol (r2 w))
  | 0x0e => zero (bits w 11 5 + bits w 8 1) (.ftolz (r2 w))
  | 0x0f => zero (bits w 11 5 + bits w 8 1) (.itof (r2 w))
  | 0x10 => zero (bits w 11 5 + bits w 8 1) (.ltof (r2 w))
  | 0x11 => zero (bits w 11 5 + bits w 8 1) (.ftobf (r2 w))
  | 0x12 => zero (bits w 11 5 + bits w 8 1) (.ftoh (r2 w))
  | 0x13 => zero (bits w 11 5 + bits w 8 1) (.bftof (r2 w))
  | 0x14 => zero (bits w 11 5 + bits w 8 1) (.htof (r2 w))
  | _ => .error .unassignedFunction

/-- R80, major 0x02. -/
def decAInt (w : Nat) : Except DecodeError Instr :=
  match bits w 0 8 with
  | 0x00 => .ok (.addA (r3 w))
  | 0x01 => .ok (.subA (r3 w))
  | 0x02 => .ok (.andA (r3 w))
  | 0x03 => .ok (.orA (r3 w))
  | 0x04 => .ok (.xorA (r3 w))
  | 0x05 => .ok (.andnA (r3 w))
  | 0x06 => .ok (.sllA (r3 w))
  | 0x07 => .ok (.srlA (r3 w))
  | 0x08 => .ok (.sraA (r3 w))
  | 0x0b => .ok (.mulA (r3 w))
  | 0x12 => .ok (.minA (r3 w))
  | 0x13 => .ok (.maxA (r3 w))
  | 0x14 => .ok (.minuA (r3 w))
  | 0x15 => .ok (.maxuA (r3 w))
  | 0x16 => .ok (.seqA (r3 w))
  | 0x17 => .ok (.sneA (r3 w))
  | 0x18 => .ok (.sltA (r3 w))
  | 0x19 => .ok (.sltuA (r3 w))
  | 0x1f => zero (bits w 11 5 + bits w 8 1) (.movA (r2 w))
  | _ => .error .unassignedFunction

/-- R82, major 0x03. -/
def decAtomic (w : Nat) : Except DecodeError Instr :=
  match bits w 0 8 with
  | 0x00 => zero (bits w 9 1) (.aaddW (ra w))
  | 0x01 => zero (bits w 9 1) (.aaddD (ra w))
  | 0x02 => zero (bits w 9 1) (.aminW (ra w))
  | 0x03 => zero (bits w 9 1) (.aminD (ra w))
  | 0x04 => zero (bits w 9 1) (.amaxW (ra w))
  | 0x05 => zero (bits w 9 1) (.amaxD (ra w))
  | 0x06 => zero (bits w 9 1) (.axchgW (ra w))
  | 0x07 => zero (bits w 9 1) (.axchgD (ra w))
  | 0x08 => zero (bits w 9 2) (.acasW (rc w))
  | 0x09 => zero (bits w 9 2) (.acasD (rc w))
  | _ => .error .unassignedFunction

/-- R85, major 0x30. -/
def decBrA (w : Nat) : Except DecodeError Instr :=
  match bits w 13 3 with
  | 0 => .ok (.beqA (br w))
  | 1 => .ok (.bneA (br w))
  | 2 => .ok (.bltA (br w))
  | 3 => .ok (.bgeA (br w))
  | 4 => .ok (.bltuA (br w))
  | 5 => .ok (.bgeuA (br w))
  | 6 => .ok (.banyA (br w))
  | _ => .ok (.bnoneA (br w))

/-- R85, major 0x31. -/
def decBrE (w : Nat) : Except DecodeError Instr :=
  match bits w 13 3 with
  | 0 => .ok (.beqE (br w))
  | 1 => .ok (.bneE (br w))
  | 2 => .ok (.bltE (br w))
  | 3 => .ok (.bgeE (br w))
  | 4 => .ok (.bltuE (br w))
  | 5 => .ok (.bgeuE (br w))
  | 6 => .ok (.banyE (br w))
  | _ => .ok (.bnoneE (br w))

/-- R88, major 0x2C. -/
def decSA (w : Nat) : Except DecodeError Instr :=
  match bits w 20 6 with
  | 0x00 => zero (bits w 6 14) (.xfence (BitVec.ofNat 6 w))
  | 0x01 => zero (bits w 15 5 + bits w 5 5 + bits w 3 2) (.acq (reg w 10) (Fin.ofNat 8 (bits w 0 3)))
  | 0x02 => zero (bits w 15 5 + bits w 5 5 + bits w 3 2) (.rel (reg w 10) (Fin.ofNat 8 (bits w 0 3)))
  | 0x03 => zero (bits w 6 14) (.pbar (BitVec.ofNat 6 w))
  | 0x04 => zero (bits w 6 14) (.psync (BitVec.ofNat 6 w))
  | 0x08 => zero (bits w 0 5) (.chlink (s3 w))
  | 0x09 => zero (bits w 0 5) (.chdrop (s3 w))
  | 0x0a => zero (bits w 0 5) (.chadd (s3 w))
  | 0x0b => zero (bits w 0 10) (.chstat (s2 w))
  | 0x0c => zero (bits w 0 10) (.chfree (s2 w))
  | 0x10 => .ok (.sbindG (s3 w) (reg w 0))
  | 0x11 => .ok (.sbindBe (s3 w) (reg w 0))
  | 0x12 => zero (bits w 0 20) .sgo
  | 0x13 => zero (bits w 5 15) (.seos (reg w 0))
  | 0x14 => zero (bits w 0 20) .sbar
  | 0x15 => zero (bits w 15 5) (.scfg (reg w 10) (reg w 5) (reg w 0))
  | 0x18 => zero (bits w 0 5) (.tlook (s3 w))
  | 0x19 => zero (bits w 0 5) (.tfill (s3 w))
  | 0x1a => zero (bits w 0 10) (.tevict (s2 w))
  | 0x1b => zero (bits w 0 5) (.tpin (s3 w))
  | 0x1c => .ok (.bcopy (s3 w) (reg w 0))
  | 0x1d => zero (bits w 15 5 + bits w 0 10) (.bwait (reg w 10))
  | 0x20 => zero (bits w 15 5 + bits w 6 4 + bits w 4 1) (.qpush (reg w 10) (bitAt w 5) (Fin.ofNat 16 (bits w 0 4)))
  | 0x21 => zero (bits w 10 5 + bits w 6 4 + bits w 4 1) (.qpop (reg w 15) (bitAt w 5) (Fin.ofNat 16 (bits w 0 4)))
  | 0x22 => zero (bits w 3 2) (.send (s3 w) (Fin.ofNat 8 (bits w 0 3)))
  | 0x23 => zero (bits w 4 1) (.recv (s3 w) (Fin.ofNat 16 (bits w 0 4)))
  | 0x24 => zero (bits w 4 1) (.recvw (s3 w) (Fin.ofNat 16 (bits w 0 4)))
  | _ => .error .unassignedSub

/-- R89, major 0x2D. -/
def decSK (w : Nat) : Except DecodeError Instr :=
  match bits w 20 6 with
  | 0x00 => .ok (.call (s3 w) (reg w 0))
  | 0x01 => zero (bits w 15 5 + bits w 1 4) (.ret (reg w 10) (reg w 5) (bitAt w 0))
  | 0x02 => zero (bits w 0 10) (.waitc (s2 w))
  | 0x03 => zero (bits w 0 10) (.cancel (s2 w))
  | 0x04 => zero (bits w 0 20) .gbar
  | 0x08 => zero (bits w 0 10) (.tsub (s2 w))
  | 0x09 => zero (bits w 0 10) (.tdec (s2 w))
  | 0x0a => zero (bits w 15 5 + bits w 3 2) (.sigadd (reg w 10) (reg w 5) (Fin.ofNat 8 (bits w 0 3)))
  | 0x0b => zero (bits w 3 2) (.sigwait (s3 w) (Fin.ofNat 8 (bits w 0 3)))
  | 0x10 => zero (bits w 0 5) (.ralloc (s3 w))
  | 0x11 => zero (bits w 0 10) (.rfree (s2 w))
  | 0x12 => .ok (.rfork (s3 w) (reg w 0))
  | _ => .error .unassignedSub

/-- R90, major 0x2E. -/
def decSY (w : Nat) : Except DecodeError Instr :=
  match bits w 20 6 with
  | 0x00 => zero (bits w 0 20) .nop
  | 0x01 => zero (bits w 5 5 + bits w 1 4) (.mfs (reg w 15) (reg w 10) (bitAt w 0))
  | 0x02 => zero (bits w 15 5 + bits w 1 4) (.mts (reg w 10) (reg w 5) (bitAt w 0))
  | 0x03 => zero (bits w 10 10) (.trap (BitVec.ofNat 10 w))
  | 0x04 => zero (bits w 0 20) .eret
  | 0x05 => zero (bits w 0 20) .sleep
  | 0x06 => zero (bits w 0 20) .halt
  | 0x07 => zero (bits w 15 5 + bits w 0 10) (.jr (reg w 10))
  | 0x08 => zero (bits w 0 10) (.jalr (s2 w))
  | _ => .error .unassignedSub

/-- The fields of a word by its major (R79); the field rules of `Instr.wf` are checked after. -/
def decodeRaw (w : Nat) : Except DecodeError Instr :=
  match bits w 26 6 with
  | 0x00 => decEInt w
  | 0x01 => decEFp w
  | 0x02 => decAInt w
  | 0x03 => decAtomic w
  | 0x04 => .ok (.addiE (i3 w))
  | 0x05 => .ok (.andiE (i3 w))
  | 0x06 => .ok (.oriE (i3 w))
  | 0x07 => .ok (.xoriE (i3 w))
  | 0x08 => .ok (.sltiE (i3 w))
  | 0x09 => .ok (.sltiuE (i3 w))
  | 0x0a => zero (bits w 16 5) (.moviE (reg w 21) (imm16 w))
  | 0x0b => zero (bits w 16 5) (.movhiE (reg w 21) (imm16 w))
  | 0x0c => zero (bits w 6 10) (.slliE (sh w))
  | 0x0d => zero (bits w 6 10) (.srliE (sh w))
  | 0x0e => zero (bits w 6 10) (.sraiE (sh w))
  | 0x0f => .ok (.bfxi (bf w))
  | 0x10 => .ok (.bfii (bf w))
  | 0x14 => .ok (.addiA (i3 w))
  | 0x15 => .ok (.andiA (i3 w))
  | 0x16 => .ok (.oriA (i3 w))
  | 0x17 => .ok (.xoriA (i3 w))
  | 0x18 => .ok (.sltiA (i3 w))
  | 0x19 => .ok (.sltiuA (i3 w))
  | 0x1a => zero (bits w 16 5) (.moviA (reg w 21) (imm16 w))
  | 0x1b => zero (bits w 16 5) (.movhiA (reg w 21) (imm16 w))
  | 0x1c => zero (bits w 6 10) (.slliA (sh w))
  | 0x1d => zero (bits w 6 10) (.srliA (sh w))
  | 0x1e => zero (bits w 6 10) (.sraiA (sh w))
  | 0x20 => .ok (.ldB (i3 w))
  | 0x21 => .ok (.ldH (i3 w))
  | 0x22 => .ok (.ldW (i3 w))
  | 0x23 => .ok (.ldD (i3 w))
  | 0x24 => .ok (.stB (i3 w))
  | 0x25 => .ok (.stH (i3 w))
  | 0x26 => .ok (.stW (i3 w))
  | 0x27 => .ok (.stD (i3 w))
  | 0x28 => zero (bits w 21 5) (.stBSq (reg w 16) (imm16 w))
  | 0x29 => zero (bits w 21 5) (.stHSq (reg w 16) (imm16 w))
  | 0x2a => zero (bits w 21 5) (.stWSq (reg w 16) (imm16 w))
  | 0x2b => zero (bits w 21 5) (.stDSq (reg w 16) (imm16 w))
  | 0x2c => decSA w
  | 0x2d => decSK w
  | 0x2e => decSY w
  | 0x30 => decBrA w
  | 0x31 => decBrE w
  | 0x32 => .ok (.jmp (BitVec.ofNat 26 w))
  | 0x33 => .ok (.jal (BitVec.ofNat 26 w))
  | 0x3e => zero (bits w 16 10) (.ext (imm16 w))
  | 0x3f => zero (bits w 0 15) (.rep (Fin.ofNat 64 (bits w 20 6)) (BitVec.ofNat 5 (bits w 15 5)))
  | _ => .error .unassignedMajor

/-- The instruction of a 32-bit word (R77): its fields, then the field rules. -/
def decodeWord (w : Nat) : Except DecodeError Instr :=
  match decodeRaw w with
  | .ok i => if i.wf then .ok i else .error .fieldRule
  | .error e => .error e

/-- A word as R73 stores it: four bytes, the lowest first. -/
def wordOfBytes (b0 b1 b2 b3 : Byte) : Nat :=
  b0.toNat + b1.toNat * 2 ^ 8 + b2.toNat * 2 ^ 16 + b3.toNat * 2 ^ 24

/-- Decoding of a byte sequence: the first instruction word's instruction and the bytes after it. -/
def decodeBytes : List Byte → Except DecodeError (Instr × List Byte)
  | b0 :: b1 :: b2 :: b3 :: rest =>
    match decodeWord (wordOfBytes b0 b1 b2 b3) with
    | .ok i => .ok (i, rest)
    | .error e => .error e
  | _ => .error .tooShort

/-- Byte `k` of a number. -/
def byteOf (w k : Nat) : Byte := BitVec.ofNat 8 (w / 2 ^ (8 * k))

/-- The bytes of the 32-bit word in bits 31:0 of w, as stored. -/
def wordBytes (w : Nat) : List Byte := [byteOf w 0, byteOf w 1, byteOf w 2, byteOf w 3]

/-- The instruction that a row of the opcode table reads from the bits w (bits above nbits are 0). -/
def decodeTableWord (nbits w : Nat) : Option Instr :=
  match decodeBytes (wordBytes (w % 2 ^ nbits)) with
  | .ok (i, _) => some i
  | .error _ => none

/-- R format (R134). -/
def encR (major fn : Nat) (d a b : Reg) (qd qa qb : Bool) : Nat :=
  major * 2 ^ 26 + d.val * 2 ^ 21 + a.val * 2 ^ 16 + b.val * 2 ^ 11 + b2n qd * 2 ^ 10 + b2n qa * 2 ^ 9 + b2n qb * 2 ^ 8 + fn
/-- I format (R137). -/
def encI (major : Nat) (d a : Reg) (imm : Nat) : Nat := major * 2 ^ 26 + d.val * 2 ^ 21 + a.val * 2 ^ 16 + imm
/-- S format (R73). -/
def encS (major sub f1 f2 f3 f4 : Nat) : Nat :=
  major * 2 ^ 26 + sub * 2 ^ 20 + f1 * 2 ^ 15 + f2 * 2 ^ 10 + f3 * 2 ^ 5 + f4
/-- B format (R141). -/
def encB (major cond : Nat) (f : Br) : Nat :=
  major * 2 ^ 26 + f.a.val * 2 ^ 21 + f.b.val * 2 ^ 16 + cond * 2 ^ 13 + f.off.toNat

/-- The word of an instruction (R73 to R90); the steps of the device have none. -/
def encode : Instr → Option Nat
  | .addE f => some (encR 0x00 0x00 f.d f.a f.b f.qd f.qa f.qb)
  | .subE f => some (encR 0x00 0x01 f.d f.a f.b f.qd f.qa f.qb)
  | .andE f => some (encR 0x00 0x02 f.d f.a f.b f.qd f.qa f.qb)
  | .orE f => some (encR 0x00 0x03 f.d f.a f.b f.qd f.qa f.qb)
  | .xorE f => some (encR 0x00 0x04 f.d f.a f.b f.qd f.qa f.qb)
  | .andnE f => some (encR 0x00 0x05 f.d f.a f.b f.qd f.qa f.qb)
  | .sllE f => some (encR 0x00 0x06 f.d f.a f.b f.qd f.qa f.qb)
  | .srlE f => some (encR 0x00 0x07 f.d f.a f.b f.qd f.qa f.qb)
  | .sraE f => some (encR 0x00 0x08 f.d f.a f.b f.qd f.qa f.qb)
  | .rol f => some (encR 0x00 0x09 f.d f.a f.b f.qd f.qa f.qb)
  | .ror f => some (encR 0x00 0x0a f.d f.a f.b f.qd f.qa f.qb)
  | .mulE f => some (encR 0x00 0x0b f.d f.a f.b f.qd f.qa f.qb)
  | .mulh f => some (encR 0x00 0x0c f.d f.a f.b f.qd f.qa f.qb)
  | .mulhu f => some (encR 0x00 0x0d f.d f.a f.b f.qd f.qa f.qb)
  | .div f => some (encR 0x00 0x0e f.d f.a f.b f.qd f.qa f.qb)
  | .divu f => some (encR 0x00 0x0f f.d f.a f.b f.qd f.qa f.qb)
  | .rem f => some (encR 0x00 0x10 f.d f.a f.b f.qd f.qa f.qb)
  | .remu f => some (encR 0x00 0x11 f.d f.a f.b f.qd f.qa f.qb)
  | .minE f => some (encR 0x00 0x12 f.d f.a f.b f.qd f.qa f.qb)
  | .maxE f => some (encR 0x00 0x13 f.d f.a f.b f.qd f.qa f.qb)
  | .minuE f => some (encR 0x00 0x14 f.d f.a f.b f.qd f.qa f.qb)
  | .maxuE f => some (encR 0x00 0x15 f.d f.a f.b f.qd f.qa f.qb)
  | .seqE f => some (encR 0x00 0x16 f.d f.a f.b f.qd f.qa f.qb)
  | .sneE f => some (encR 0x00 0x17 f.d f.a f.b f.qd f.qa f.qb)
  | .sltE f => some (encR 0x00 0x18 f.d f.a f.b f.qd f.qa f.qb)
  | .sltuE f => some (encR 0x00 0x19 f.d f.a f.b f.qd f.qa f.qb)
  | .sel f => some (encR 0x00 0x1a f.d f.a f.b false f.qa f.qb)
  | .clz f => some (encR 0x00 0x1b f.d f.a 0 f.qd f.qa false)
  | .popc f => some (encR 0x00 0x1c f.d f.a 0 f.qd f.qa false)
  | .bfx f => some (encR 0x00 0x1d f.d f.a f.b f.qd f.qa f.qb)
  | .bfi f => some (encR 0x00 0x1e f.d f.a f.b false f.qa f.qb)
  | .movE f => some (encR 0x00 0x1f f.d f.a 0 f.qd f.qa false)
  | .sxb f => some (encR 0x00 0x20 f.d f.a 0 f.qd f.qa false)
  | .sxh f => some (encR 0x00 0x21 f.d f.a 0 f.qd f.qa false)
  | .sxw f => some (encR 0x00 0x22 f.d f.a 0 f.qd f.qa false)
  | .addA f => some (encR 0x02 0x00 f.d f.a f.b f.qd f.qa f.qb)
  | .subA f => some (encR 0x02 0x01 f.d f.a f.b f.qd f.qa f.qb)
  | .andA f => some (encR 0x02 0x02 f.d f.a f.b f.qd f.qa f.qb)
  | .orA f => some (encR 0x02 0x03 f.d f.a f.b f.qd f.qa f.qb)
  | .xorA f => some (encR 0x02 0x04 f.d f.a f.b f.qd f.qa f.qb)
  | .andnA f => some (encR 0x02 0x05 f.d f.a f.b f.qd f.qa f.qb)
  | .sllA f => some (encR 0x02 0x06 f.d f.a f.b f.qd f.qa f.qb)
  | .srlA f => some (encR 0x02 0x07 f.d f.a f.b f.qd f.qa f.qb)
  | .sraA f => some (encR 0x02 0x08 f.d f.a f.b f.qd f.qa f.qb)
  | .mulA f => some (encR 0x02 0x0b f.d f.a f.b f.qd f.qa f.qb)
  | .minA f => some (encR 0x02 0x12 f.d f.a f.b f.qd f.qa f.qb)
  | .maxA f => some (encR 0x02 0x13 f.d f.a f.b f.qd f.qa f.qb)
  | .minuA f => some (encR 0x02 0x14 f.d f.a f.b f.qd f.qa f.qb)
  | .maxuA f => some (encR 0x02 0x15 f.d f.a f.b f.qd f.qa f.qb)
  | .seqA f => some (encR 0x02 0x16 f.d f.a f.b f.qd f.qa f.qb)
  | .sneA f => some (encR 0x02 0x17 f.d f.a f.b f.qd f.qa f.qb)
  | .sltA f => some (encR 0x02 0x18 f.d f.a f.b f.qd f.qa f.qb)
  | .sltuA f => some (encR 0x02 0x19 f.d f.a f.b f.qd f.qa f.qb)
  | .movA f => some (encR 0x02 0x1f f.d f.a 0 f.qd f.qa false)
  | .fadd f => some (encR 0x01 0x00 f.d f.a f.b f.qd f.qa f.qb)
  | .fsub f => some (encR 0x01 0x01 f.d f.a f.b f.qd f.qa f.qb)
  | .fmul f => some (encR 0x01 0x02 f.d f.a f.b f.qd f.qa f.qb)
  | .fma f => some (encR 0x01 0x03 f.d f.a f.b false f.qa f.qb)
  | .fmin f => some (encR 0x01 0x04 f.d f.a f.b f.qd f.qa f.qb)
  | .fmax f => some (encR 0x01 0x05 f.d f.a f.b f.qd f.qa f.qb)
  | .feq f => some (encR 0x01 0x06 f.d f.a f.b f.qd f.qa f.qb)
  | .flt f => some (encR 0x01 0x07 f.d f.a f.b f.qd f.qa f.qb)
  | .fle f => some (encR 0x01 0x08 f.d f.a f.b f.qd f.qa f.qb)
  | .fabs f => some (encR 0x01 0x09 f.d f.a 0 f.qd f.qa false)
  | .fneg f => some (encR 0x01 0x0a f.d f.a 0 f.qd f.qa false)
  | .ftoi f => some (encR 0x01 0x0b f.d f.a 0 f.qd f.qa false)
  | .ftoiz f => some (encR 0x01 0x0c f.d f.a 0 f.qd f.qa false)
  | .ftol f => some (encR 0x01 0x0d f.d f.a 0 f.qd f.qa false)
  | .ftolz f => some (encR 0x01 0x0e f.d f.a 0 f.qd f.qa false)
  | .itof f => some (encR 0x01 0x0f f.d f.a 0 f.qd f.qa false)
  | .ltof f => some (encR 0x01 0x10 f.d f.a 0 f.qd f.qa false)
  | .ftobf f => some (encR 0x01 0x11 f.d f.a 0 f.qd f.qa false)
  | .ftoh f => some (encR 0x01 0x12 f.d f.a 0 f.qd f.qa false)
  | .bftof f => some (encR 0x01 0x13 f.d f.a 0 f.qd f.qa false)
  | .htof f => some (encR 0x01 0x14 f.d f.a 0 f.qd f.qa false)
  | .aaddW f => some (encR 0x03 0x00 f.d f.a f.b f.qd false f.qb)
  | .aaddD f => some (encR 0x03 0x01 f.d f.a f.b f.qd false f.qb)
  | .aminW f => some (encR 0x03 0x02 f.d f.a f.b f.qd false f.qb)
  | .aminD f => some (encR 0x03 0x03 f.d f.a f.b f.qd false f.qb)
  | .amaxW f => some (encR 0x03 0x04 f.d f.a f.b f.qd false f.qb)
  | .amaxD f => some (encR 0x03 0x05 f.d f.a f.b f.qd false f.qb)
  | .axchgW f => some (encR 0x03 0x06 f.d f.a f.b f.qd false f.qb)
  | .axchgD f => some (encR 0x03 0x07 f.d f.a f.b f.qd false f.qb)
  | .acasW f => some (encR 0x03 0x08 f.d f.a f.b false false f.qb)
  | .acasD f => some (encR 0x03 0x09 f.d f.a f.b false false f.qb)
  | .addiE f => some (encI 0x04 f.d f.a f.imm.toNat)
  | .andiE f => some (encI 0x05 f.d f.a f.imm.toNat)
  | .oriE f => some (encI 0x06 f.d f.a f.imm.toNat)
  | .xoriE f => some (encI 0x07 f.d f.a f.imm.toNat)
  | .sltiE f => some (encI 0x08 f.d f.a f.imm.toNat)
  | .sltiuE f => some (encI 0x09 f.d f.a f.imm.toNat)
  | .moviE d imm => some (encI 0x0a d 0 imm.toNat)
  | .movhiE d imm => some (encI 0x0b d 0 imm.toNat)
  | .slliE f => some (encI 0x0c f.d f.a f.n)
  | .srliE f => some (encI 0x0d f.d f.a f.n)
  | .sraiE f => some (encI 0x0e f.d f.a f.n)
  | .bfxi f => some (encI 0x0f f.d f.a (f.wid * 2 ^ 8 + f.off))
  | .bfii f => some (encI 0x10 f.d f.a (f.wid * 2 ^ 8 + f.off))
  | .addiA f => some (encI 0x14 f.d f.a f.imm.toNat)
  | .andiA f => some (encI 0x15 f.d f.a f.imm.toNat)
  | .oriA f => some (encI 0x16 f.d f.a f.imm.toNat)
  | .xoriA f => some (encI 0x17 f.d f.a f.imm.toNat)
  | .sltiA f => some (encI 0x18 f.d f.a f.imm.toNat)
  | .sltiuA f => some (encI 0x19 f.d f.a f.imm.toNat)
  | .moviA d imm => some (encI 0x1a d 0 imm.toNat)
  | .movhiA d imm => some (encI 0x1b d 0 imm.toNat)
  | .slliA f => some (encI 0x1c f.d f.a f.n)
  | .srliA f => some (encI 0x1d f.d f.a f.n)
  | .sraiA f => some (encI 0x1e f.d f.a f.n)
  | .ldB f => some (encI 0x20 f.d f.a f.imm.toNat)
  | .ldH f => some (encI 0x21 f.d f.a f.imm.toNat)
  | .ldW f => some (encI 0x22 f.d f.a f.imm.toNat)
  | .ldD f => some (encI 0x23 f.d f.a f.imm.toNat)
  | .stB f => some (encI 0x24 f.d f.a f.imm.toNat)
  | .stH f => some (encI 0x25 f.d f.a f.imm.toNat)
  | .stW f => some (encI 0x26 f.d f.a f.imm.toNat)
  | .stD f => some (encI 0x27 f.d f.a f.imm.toNat)
  | .stBSq a imm => some (encI 0x28 0 a imm.toNat)
  | .stHSq a imm => some (encI 0x29 0 a imm.toNat)
  | .stWSq a imm => some (encI 0x2a 0 a imm.toNat)
  | .stDSq a imm => some (encI 0x2b 0 a imm.toNat)
  | .xfence mask => some (encS 0x2c 0x00 0 0 0 mask.toNat)
  | .acq a scope => some (encS 0x2c 0x01 0 a 0 scope)
  | .rel a scope => some (encS 0x2c 0x02 0 a 0 scope)
  | .pbar mask => some (encS 0x2c 0x03 0 0 0 mask.toNat)
  | .psync mask => some (encS 0x2c 0x04 0 0 0 mask.toNat)
  | .chlink f => some (encS 0x2c 0x08 f.d f.a f.b 0)
  | .chdrop f => some (encS 0x2c 0x09 f.d f.a f.b 0)
  | .chadd f => some (encS 0x2c 0x0a f.d f.a f.b 0)
  | .chstat f => some (encS 0x2c 0x0b f.d f.a 0 0)
  | .chfree f => some (encS 0x2c 0x0c f.d f.a 0 0)
  | .sbindG f ep => some (encS 0x2c 0x10 f.d f.a f.b ep)
  | .sbindBe f ep => some (encS 0x2c 0x11 f.d f.a f.b ep)
  | .sgo => some (encS 0x2c 0x12 0 0 0 0)
  | .seos ep => some (encS 0x2c 0x13 0 0 0 ep)
  | .sbar => some (encS 0x2c 0x14 0 0 0 0)
  | .scfg a b ep => some (encS 0x2c 0x15 0 a b ep)
  | .tlook f => some (encS 0x2c 0x18 f.d f.a f.b 0)
  | .tfill f => some (encS 0x2c 0x19 f.d f.a f.b 0)
  | .tevict f => some (encS 0x2c 0x1a f.d f.a 0 0)
  | .tpin f => some (encS 0x2c 0x1b f.d f.a f.b 0)
  | .bcopy f c => some (encS 0x2c 0x1c f.d f.a f.b c)
  | .bwait a => some (encS 0x2c 0x1d 0 a 0 0)
  | .qpush x bank p => some (encS 0x2c 0x20 0 x (b2n bank) p)
  | .qpop x bank p => some (encS 0x2c 0x21 x 0 (b2n bank) p)
  | .send f n1 => some (encS 0x2c 0x22 f.d f.a f.b n1)
  | .recv f p => some (encS 0x2c 0x23 f.d f.a f.b p)
  | .recvw f p => some (encS 0x2c 0x24 f.d f.a f.b p)
  | .call f n => some (encS 0x2d 0x00 f.d f.a f.b n)
  | .ret x n bank => some (encS 0x2d 0x01 0 x n (b2n bank))
  | .waitc f => some (encS 0x2d 0x02 f.d f.a 0 0)
  | .cancel f => some (encS 0x2d 0x03 f.d f.a 0 0)
  | .gbar => some (encS 0x2d 0x04 0 0 0 0)
  | .tsub f => some (encS 0x2d 0x08 f.d f.a 0 0)
  | .tdec f => some (encS 0x2d 0x09 f.d f.a 0 0)
  | .sigadd a b scope => some (encS 0x2d 0x0a 0 a b scope)
  | .sigwait f scope => some (encS 0x2d 0x0b f.d f.a f.b scope)
  | .ralloc f => some (encS 0x2d 0x10 f.d f.a f.b 0)
  | .rfree f => some (encS 0x2d 0x11 f.d f.a 0 0)
  | .rfork f c => some (encS 0x2d 0x12 f.d f.a f.b c)
  | .nop => some (encS 0x2e 0x00 0 0 0 0)
  | .mfs x sr bank => some (encS 0x2e 0x01 x sr 0 (b2n bank))
  | .mts sr x bank => some (encS 0x2e 0x02 0 sr x (b2n bank))
  | .trap code => some (encS 0x2e 0x03 0 0 0 code.toNat)
  | .eret => some (encS 0x2e 0x04 0 0 0 0)
  | .sleep => some (encS 0x2e 0x05 0 0 0 0)
  | .halt => some (encS 0x2e 0x06 0 0 0 0)
  | .jr a => some (encS 0x2e 0x07 0 a 0 0)
  | .jalr f => some (encS 0x2e 0x08 f.d f.a 0 0)
  | .beqA f => some (encB 0x30 0 f)
  | .bneA f => some (encB 0x30 1 f)
  | .bltA f => some (encB 0x30 2 f)
  | .bgeA f => some (encB 0x30 3 f)
  | .bltuA f => some (encB 0x30 4 f)
  | .bgeuA f => some (encB 0x30 5 f)
  | .banyA f => some (encB 0x30 6 f)
  | .bnoneA f => some (encB 0x30 7 f)
  | .beqE f => some (encB 0x31 0 f)
  | .bneE f => some (encB 0x31 1 f)
  | .bltE f => some (encB 0x31 2 f)
  | .bgeE f => some (encB 0x31 3 f)
  | .bltuE f => some (encB 0x31 4 f)
  | .bgeuE f => some (encB 0x31 5 f)
  | .banyE f => some (encB 0x31 6 f)
  | .bnoneE f => some (encB 0x31 7 f)
  | .jmp off => some (0x32 * 2 ^ 26 + off.toNat)
  | .jal off => some (0x33 * 2 ^ 26 + off.toNat)
  | .ext hi => some (0x3e * 2 ^ 26 + hi.toNat)
  | .rep last mask => some (0x3f * 2 ^ 26 + last * 2 ^ 20 + mask.toNat * 2 ^ 15)
  | .threadWake _ => none
  | .stageFire _ _ _ => none
  | .reducerFire _ _ => none
  | .lutiFire _ _ => none
  | .elementFire _ _ _ => none
  | .swmMerge _ _ _ => none
  | .rollback _ => none
  | .mxWeightToken _ _ => none
  | .mxrow _ _ => none
  | .mxSegmentEnd _ _ => none
  | .cfgApply _ _ _ => none
  | .murdRequest _ _ _ => none
  | .muResponse _ _ _ _ => none
  | .muwrWrite _ _ _ => none
  | .muatUpdate _ _ _ => none
  | .musvWrite _ _ _ => none
  | .cbWrite _ _ _ => none
  | .cbRead _ _ _ => none
  | .reorderEmit _ _ => none
  | .cornerTurnEmit _ _ => none
  | .agenEmit _ _ _ => none
  | .inEndpointDeliver _ _ => none
  | .roundAck _ _ => none
  | .runFall _ => none
  | .xlatTranslate _ _ => none
  | .translationWalk _ _ => none
  | .withheldRetry _ => none
  | .faultwaitExpiry _ => none
  | .messageArrival _ _ => none
  | .escapeTimeout _ _ => none
  | .linkRetrain _ => none
  | .linkDown _ => none
  | .zlkRetrain _ => none
  | .zlkTransfer _ => none
  | .bcopyComplete _ _ => none
  | .widx _ _ _ _ _ => none
  | .ipos _ _ _ => none
  | .packetStart _ _ => none
  | .pktnv _ _ => none
  | .waitTest _ _ => none
  | .waittmo _ _ => none
  | .packetCompletion _ _ _ => none
  | .cfgloadClaim _ _ _ => none
  | .gangMap _ _ => none
  | .gangIdleUnmap _ _ => none
  | .slotStarvationUnmap _ => none
  | .ctxset _ => none
  | .qcreate _ => none
  | .qdestroy _ => none
  | .qstart _ => none
  | .patch _ => none
  | .acmdUnassigned _ _ => none
  | .xinv _ _ => none
  | .xinvComplete _ => none
  | .rack _ => none
  | .resume _ => none
  | .discard _ => none
  | .shareCommit _ _ => none
  | .refillTick _ => none
  | .lineRelease _ _ => none
  | .sliceRequest _ _ _ => none
  | .chainStoreHead _ _ => none
  | .chainForward _ _ => none
  | .chainAck _ _ => none
  | .chainRead _ _ _ _ => none
  | .chainfail _ _ => none
  | .chainHandover _ => none
  | .durableAccept _ _ => none
  | .imageLoad _ => none
  | .mappingComplete _ => none
  | .placementQueueServe _ => none
  | .placementHeadBlock _ => none
  | .gangReserve _ _ => none
  | .gangPlace _ => none
  | .dispatchDecision _ => none
  | .taskAgeing _ _ => none
  | .taskEnd _ => none
  | .overflowAdvance _ _ => none
  | .overflowRingRetry _ _ => none
  | .drain _ => none
  | .drainTimeout _ => none
  | .freeze _ => none
  | .restore _ => none
  | .msixMessage _ => none
  | .devevt _ => none
  | .hostWrite _ _ _ => none
  | .hostRead _ _ => none
  | .podid _ => none
  | .plim _ => none
  | .svnraise _ => none
  | .lcreq _ => none
  | .atcmd _ => none
  | .attestationComplete => none
  | .registerWrite _ _ _ => none
  | .pwrfail => none
  | .huokFall => none
  | .thermalWarning _ => none
  | .thermalTrip => none
  | .reset => none
  | .illAtDecode _ => none
  | .uncorrectableError _ => none
  | .huokRise => none
  | .throttleEnd => none
  | .persistBufferDrain _ => none
  | .dieLinkUp _ _ => none
  | .processEnd _ => none

/-- Whether an instruction has a word: the control thread runs it; the others are steps of the device. -/
def Instr.isStep (i : Instr) : Bool := (encode i).isNone

end Sys2Proof
end

