-- ==== Sys2Proof/Machine/Memory.lean ====
section
/-! DEFINITION. Memories: bytes and words, the physical map (R290, R291), persist buffers (R323), poison marks (R307), the page table and its walk (R354 to R356), and the places that accesses reach (R288, R289). -/

namespace Sys2Proof.Machine

/-! ## Byte memories -/

/-- What an unlisted byte reads as: memories are wiped at reset (R332), and the value a wipe leaves is not given (log 1). -/
def wiped : Byte := 0

/-- The canonical form of a byte memory: addresses strictly rising, no listed byte equal to what an unlisted one reads as. -/
def Memory.wf (m : List Host.Cell) : Bool := Tbl.risingFrom 0 m && m.all fun c => c.2 != wiped

/-- One byte. -/
def memGet (m : List Host.Cell) (a : Nat) : Byte := Tbl.getD m a wiped

/-- Write one byte. -/
def memSet (m : List Host.Cell) (a : Nat) (b : Byte) : List Host.Cell := Tbl.set m wiped a b

/-- `n` bytes from `a`, little-endian. -/
def memGetN (m : List Host.Cell) (a : Nat) : Nat → Nat
  | 0 => 0
  | n + 1 => (memGet m a).toNat + 256 * memGetN m (a + 1) n

/-- Write the low `n` bytes of a number at `a`, little-endian. -/
def memSetN (m : List Host.Cell) (a : Nat) : Nat → Nat → List Host.Cell
  | 0, _ => m
  | n + 1, v => memSetN (memSet m a (BitVec.ofNat 8 v)) (a + 1) n (v / 256)

/-- Write the bytes of a line that a mask names. -/
def memSetMask (m : List Host.Cell) (a : Nat) (mask : BitVec 64) (v : Line) : List Host.Cell :=
  (List.range 64).foldl (fun m i => if mask.getLsbD i then memSet m (a + i) (BitVec.ofNat 8 (v.toNat / 256 ^ i)) else m) m

/-- The 64 bytes of a line. -/
def memLine (m : List Host.Cell) (a : Nat) : Line := BitVec.ofNat 512 (memGetN m a 64)

/-- Bit `i` is set for byte range `off` to `off + n - 1` of a line. -/
def byteMask (off n : Nat) : BitVec 64 := BitVec.ofNat 64 ((2 ^ n - 1) * 2 ^ off)

/-- The byte mask of the words that a lane mask names. -/
def laneMask (v : BitVec 16) : BitVec 64 :=
  (List.range 16).foldl (fun acc i => if v.getLsbD i then acc ||| byteMask (4 * i) 4 else acc) 0

/-- Put the low bytes of a number into a line at a byte offset. -/
def lineOf (off : Nat) (v : Nat) : Line := BitVec.ofNat 512 (v * 256 ^ off)

/-- A line with masked bytes replaced. -/
def lineMerge (old new : Line) (mask : BitVec 64) : Line :=
  let m : Line := (List.range 64).foldl (fun acc i => if mask.getLsbD i then acc ||| ((0xFF : Line) <<< (8 * i)) else acc) 0
  (old &&& ~~~m) ||| (new &&& m)

/-! ## The physical map -/

/-- Bytes of one die's HBM, and of one die's Cellar stack (R290). -/
def dieHbm : Nat := 0x30_0000_0000
def dieCellar : Nat := 0x80_0000_0000
/-- The ends and bases of the ranges of R290. -/
def hbmTop : Nat := 0xC0_0000_0000
def ivBase : Nat := 0x100_0000_0000
def ivTop : Nat := 0x1C0_0000_0000
def cellarBase : Nat := 0x200_0000_0000
def cellarTop : Nat := 0x400_0000_0000

/-- A physical address in an HBM view or the Cellar range (R290). -/
def paAssigned (pa : Nat) : Bool := pa < hbmTop || (ivBase ≤ pa && pa < ivTop) || (cellarBase ≤ pa && pa < cellarTop)

/-- The storage of an address: the interleaved view is folded onto the local one (R290). -/
def normPa (pa : Nat) : Nat :=
  if ivBase ≤ pa && pa < ivTop then
    let n := (pa - ivBase) / 64
    n % 4 * dieHbm + n / 4 * 64 + pa % 64
  else pa

/-- The interleaved address of a byte of storage. -/
def toInterleaved (pa : Nat) : Nat :=
  let d := pa / dieHbm
  let o := pa % dieHbm
  ivBase + (o / 64 * 4 + d) * 64 + o % 64

/-- The die that holds a byte of storage (R290). -/
def dieOfPa (pa : Nat) : Nat := if pa < cellarBase then pa / dieHbm else (pa - cellarBase) / dieCellar

/-- The slice that fronts a byte of local HBM (R291). -/
def sliceOf (pa : Nat) : Nat :=
  let o := pa % dieHbm
  let c := o / 2 ^ 24 % 4
  match o / 64 % 4 with
  | 0 => 2 * c
  | 1 => 2 * c + 1
  | 2 => 2 * c + 8
  | _ => 2 * c + 9

/-- An address is in the Cellar tier. -/
def inCellar (pa : Nat) : Bool := cellarBase ≤ pa && pa < cellarTop

/-- The physical base of a die's recovery page (R326). -/
def recoveryPage (d : Nat) : Nat := cellarBase + d * dieCellar

/-- A line of the Cellar tier that stands in a persist buffer (R323). -/
def State.pbLine? (s : State) (pa : Nat) : Option PbLine :=
  if inCellar pa then Tbl.find (s.die (dieOfPa pa)).m.pb (pa / 64) else none

/-- A 64-byte line of storage: from the persist buffer when it is there, and from the stack otherwise (R323). -/
def State.physLine (s : State) (pa : Nat) : Line :=
  match s.pbLine? pa with
  | some l => l.val
  | none => memLine s.mem.bytes (pa / 64 * 64)

/-- Poison marks of the sixteen words of a line in a sorted set of word numbers (R307). -/
def linePoison (p : List Nat) (a : Nat) : BitVec 16 :=
  (List.range 16).foldl (fun acc i => if p.contains (a / 64 * 16 + i) then acc ||| (1 <<< i) else acc) 0

/-- The poison marks of a line of storage. -/
def State.physPoison (s : State) (pa : Nat) : BitVec 16 :=
  match s.pbLine? pa with
  | some l => l.psn
  | none => linePoison s.mem.poison pa

/-- A storage address lies in the backing of a chain: of a link, or of a candidate that CHADD checked (R311). -/
def inBacking (s : State) (pa : Nat) : Bool :=
  s.pkg.chains.any fun e => e.2.st != .free &&
    (e.2.links ++ e.2.cand.toList).any fun l => l.pb ≤ pa && pa < l.pb + e.2.np * 2 ^ 24

/-- The unspecified line that an access to a backing reads, or leaves, when it does not go through the chain (R311, log 10). -/
def State.backingLine (s : State) (pa : Nat) : Line := Config.freeLine (s.freeCount * 2 ^ 36 + pa / 64)

/-- A line of storage as an access that goes through no chain finds it (R311). -/
def State.plainLine (s : State) (pa : Nat) : Line := if inBacking s pa then s.backingLine pa else s.physLine pa

/-- `n` bytes of storage inside one line, read through no chain. -/
def State.physN (s : State) (pa n : Nat) : Nat := bits (s.plainLine pa).toNat (8 * (pa % 64)) (8 * n)

/-- Replace the poison marks of the words of a line: `set` are set, `clr` are cleared. -/
def markPoison (p : List Nat) (a : Nat) (set clr : BitVec 16) : List Nat :=
  (List.range 16).foldl (fun p i =>
    if set.getLsbD i then setAdd p (a / 64 * 16 + i)
    else if clr.getLsbD i then setDel p (a / 64 * 16 + i) else p) p

/-- The words of a line that a byte mask covers whole. -/
def wholeWords (mask : BitVec 64) : BitVec 16 :=
  (List.range 16).foldl (fun acc i => if (mask >>> (4 * i)) &&& 15 == 15 then acc ||| (1 <<< i) else acc) 0

/-- Write masked bytes of a line of storage; `psn` names the words written as poison, and a word written whole without poison is
cleared (R307). A Cellar line enters the persist buffer, or the stack when the buffer writes through (R323, R446). -/
def State.physWrite (s : State) (pa : Nat) (mask : BitVec 64) (v : Line) (psn : BitVec 16) : State :=
  if inCellar pa && s.host.huok then
    let old := s.physLine pa
    let oldP := s.physPoison pa
    let l : PbLine := ⟨lineMerge old v mask, psn ||| (oldP &&& ~~~(wholeWords mask))⟩
    s.modM (dieOfPa pa) fun m => { m with pb := m.pb.put (pa / 64) l }
  else
    s.modMem fun m => { m with
      bytes := memSetMask m.bytes (pa / 64 * 64) mask v
      poison := markPoison m.poison pa psn (wholeWords mask &&& ~~~psn) }

/-- Write masked bytes of a line of storage through no chain: in a backing the line's contents are then unspecified (R311). -/
def State.plainWrite (s : State) (pa : Nat) (mask : BitVec 64) (v : Line) (psn : BitVec 16) : State :=
  if inBacking s pa then s.physWrite pa (-1) (s.backingLine pa) psn else s.physWrite pa mask v psn

/-- The device has written lines of storage that no chain-kind page led it to: those in a backing have unspecified contents (R311). `s` is the
state before, which gives the lines. -/
def State.spoil (t s : State) (lines : List Nat) : State :=
  if s.pkg.chains.isEmpty then t
  else lines.foldl (fun t a => if inBacking s a then t.physWrite a (-1) (s.backingLine a) 0 else t) t

/-- The lines of the frames of an image or of a fold (R341, R424). -/
def frameLines (fs : List Nat) : List Nat := fs.flatMap fun f => (List.range 1024).map fun i => normPa (f + 64 * i)

/-- Lines of a persist buffer: 64 MiB (R445). -/
def pbLines : Nat := 2 ^ 20

/-- The persist buffer of a Cellar line has room for `n` lines, or holds this one line already (R323). -/
def pbRoom (s : State) (pa n : Nat) : Bool :=
  !inCellar pa || !s.host.huok || (s.die (dieOfPa pa)).m.pb.length + n ≤ pbLines || (n == 1 && (s.pbLine? pa).isSome)

/-- Write a line of storage behind the persist buffer. -/
def State.stackWrite (s : State) (pa : Nat) (v : Line) (psn : BitVec 16) : State :=
  let s := if inCellar pa then s.modM (dieOfPa pa) fun m => { m with pb := m.pb.del (pa / 64) } else s
  s.modMem fun m => { m with
    bytes := memSetMask m.bytes (pa / 64 * 64) (-1) v
    poison := markPoison m.poison pa psn (~~~psn) }

/-- Write the low `n` bytes of a number inside one line of storage, through no chain. -/
def State.physSetN (s : State) (pa n v : Nat) : State :=
  s.plainWrite pa (byteMask (pa % 64) n) (lineOf (pa % 64) v) 0

/-! ## Page tables -/

/-- A table or its root lies in an HBM view and is aligned to 2 KiB (R354). -/
def tableOk (pa : Nat) : Bool := (pa < hbmTop || (ivBase ≤ pa && pa < ivTop)) && pa % 2048 == 0

/-- The bytes a leaf at a level maps (R354). -/
def leafBytes (lvl : Nat) : Nat := 2 ^ (40 - 8 * lvl)

/-- A leaf entry (R355). -/
structure Leaf where
  lvl : Nat := 0
  /-- Physical address of the entry. -/
  at_ : Nat := 0
  r : Bool := false
  w : Bool := false
  cow : Bool := false
  kind : Nat := 0
  ch : Nat := 0
  frame : Nat := 0
deriving DecidableEq, Repr, Inhabited

/-- The fields of a leaf word. -/
def leafOf (lvl at_ e : Nat) : Leaf :=
  ⟨lvl, at_, bitAt e 2, bitAt e 3, bitAt e 4, bits e 5 3, bits e 8 6, bits e 16 36 * 2 ^ 16⟩

/-- FRAME lies inside the range of its kind, whole page (R355, R290, R310, R326). -/
def frameOk (s : State) (l : Leaf) : Bool :=
  l.frame % leafBytes l.lvl == 0 &&
  (match l.kind with
   | 1 => l.frame + leafBytes l.lvl ≤ hbmTop
   | 2 => ivBase ≤ l.frame && l.frame + leafBytes l.lvl ≤ ivTop
   | 3 => cellarBase ≤ l.frame && l.frame + leafBytes l.lvl ≤ cellarTop &&
          (List.range 4).all fun d => l.frame != recoveryPage d
   | 4 => l.frame + leafBytes l.lvl ≤ (s.pkg.chains.getD l.ch {}).np * 2 ^ 24
   | _ => true)

/-- A chain id that an access may reach: not FREE and not ORPHAN (R310). -/
def chainLive (s : State) (ch : Nat) : Bool :=
  match (s.pkg.chains.getD ch {}).st with
  | .free | .orphan => false
  | _ => true

/-- A valid entry is malformed (R355). -/
def entryMalformed (s : State) (lvl e : Nat) : Bool :=
  if bitAt e 1 then
    let l := leafOf lvl 0 e
    lvl == 0 || bits e 14 2 != 0 || bits e 52 12 != 0 || (l.w && !l.r) ||
    (l.cow && (!l.w || (l.kind != 1 && l.kind != 2))) || (l.ch != 0 && l.kind != 4) || 5 ≤ l.kind || !frameOk s l
  else
    lvl == 3 || bits e 2 9 != 0 || bits e 52 12 != 0 || !tableOk (bits e 11 41 * 2 ^ 11)

/-- The walk of R356 from table `t` over the levels left: a leaf with no check of R, W and COW, or the INFO of R364. -/
def walkFrom (s : State) (va : Nat) : List Nat → Nat → Except Nat Leaf
  | [], _ => .error 4
  | lvl :: rest, t =>
    let at_ := normPa (t + 8 * bits va (40 - 8 * lvl) 8)
    let e := s.physN at_ 8
    let psn := s.physPoison at_
    if psn.getLsbD (at_ % 64 / 4) || psn.getLsbD (at_ % 64 / 4 + 1) then .error 6
    else if !bitAt e 0 then .error 1
    else if entryMalformed s lvl e then .error 4
    else if bitAt e 1 && bits e 5 3 == 4 && !chainLive s (bits e 8 6) then .error 1
    else if !bitAt e 1 then walkFrom s va rest (bits e 11 41 * 2 ^ 11)
    else .ok (leafOf lvl at_ e)

/-- The leaf that maps an address of a process, or the INFO of R364. -/
def leafAt (s : State) (pid va : Nat) : Except Nat Leaf :=
  match s.ctx? pid with
  | none => .error 1
  | some c => if !tableOk c.ptroot then .error 4 else walkFrom s va [0, 1, 2, 3] c.ptroot

/-- The permission checks of R356 on a leaf. -/
def leafAllows (rd wr : Bool) (l : Leaf) : Except Nat Leaf :=
  if l.kind == 0 then .error 1
  else if rd && !l.r then .error 2
  else if wr && !l.w then .error 3
  else .ok l

/-! ## Places -/

/-- What an access reaches: a kind (0 scratchpad, otherwise R355's KIND), the key of its first byte (scratchpad key, storage
address, or chain offset) and the chain. -/
structure Place where
  kind : Nat := 0
  addr : Nat := 0
  ch : Nat := 0
deriving DecidableEq, Repr, Inhabited

/-- One number for a place, for a wake signal (R153). -/
def Place.key (p : Place) : Nat := (p.addr * 64 + p.ch) * 8 + (if p.kind == 2 then 1 else p.kind)

/-- The place of an address under a leaf (R356). -/
def Leaf.place (l : Leaf) (va : Nat) : Place :=
  let pa := l.frame + va % leafBytes l.lvl
  if l.kind == 4 then ⟨4, pa, l.ch⟩ else ⟨l.kind, normPa pa, 0⟩

/-- The form of a 64-bit address (R288). -/
inductive AddrForm where
  | virtual | scratch | hostRange | other
deriving DecidableEq, Repr

/-- R288: bits 63:48 choose the form. -/
def addrForm (a : W64) : AddrForm :=
  match bits a.toNat 48 16 with
  | 0x0000 => .virtual
  | 0x1000 => .scratch
  | n => if n / 256 = 0x20 && bits a.toNat 40 8 == 0 then .hostRange else .other

/-- An address of scratchpad or host form, whatever its other bits (R288, R304, R392). -/
def offPage (a : W64) : Bool := bits a.toNat 48 16 == 0x1000 || bits a.toNat 56 8 == 0x20

/-- The scratchpad place of an address: inside the region, the other bits zero (R288), and below the save area for a folded
callee (R341). -/
def scratchPlace (h : Holder) (a : Nat) : Option Place :=
  let row := bits a 32 4
  let col := bits a 24 5
  let off := bits a 0 20
  if bits a 20 4 != 0 || bits a 29 3 != 0 || bits a 36 12 != 0 then none
  else if h.id.w ≤ col || h.id.h ≤ row then none
  else if h.fn.foldedOn.isSome && 0xE0000 ≤ off then none
  else some ⟨0, scratchKey h.id.die (cellIndex (h.id.col + col) (h.id.row + row)) off, 0⟩

/-- The die whose agents' Cellar and chain stores go through a place's home: the die of the memory, or the head of the chain. -/
def State.chain (s : State) (ch : Nat) : Chain := s.pkg.chains.getD ch {}

/-- Link `k` of a chain. -/
def Chain.link (c : Chain) (k : Nat) : ChainLink := c.links.getD k {}

/-- The link on a die (R315). -/
def Chain.linkOn (c : Chain) (d : Nat) : Option Nat := c.links.findIdx? fun l => l.die == d

/-- The dirty-table entry of a line at a link (R312). -/
def ChainLink.dirtyAt (l : ChainLink) (line : Nat) : Option Dirty := l.dirty.find? fun e => e.line == line

/-- The line of a chain as the tail holds it. -/
def State.tailLine (s : State) (c : Chain) (off : Nat) : Line × BitVec 16 :=
  let l := c.link (c.links.length - 1)
  (s.physLine (l.pb + off), s.physPoison (l.pb + off))

/-- A read of a chain line by a reader on a die (R315): none while it must wait (R317, R318). -/
def State.chainRead (s : State) (d ch off : Nat) : Option (Line × BitVec 16) :=
  let c := s.chain ch
  let off := off / 64 * 64
  let tail := c.link (c.links.length - 1)
  match c.linkOn d with
  | none => if tail.failed || c.moving then none else some (s.tailLine c off)
  | some k =>
    let l := c.link k
    match l.dirtyAt (off / 64) with
    | none => if l.failed then none else some (s.physLine (l.pb + off), s.physPoison (l.pb + off))
    | some _ => if tail.failed || c.moving then none else some (s.tailLine c off)

/-- A pending store of an agent to the line of a place (R315, R323). -/
def Pending.hits (x : Pending) (a : Agent) (p : Place) : Bool :=
  x.agent == a && x.line == p.addr / 64 * 64 &&
  (match x.ch with | none => p.kind == 3 | some ch => p.kind == 4 && ch == p.ch)

/-- Every pending store of the package. -/
def State.pendings (s : State) : List Pending := s.dies.flatMap fun d => d.m.pend

/-- An agent has a store to the line of a place that is not yet done or durable: its own reads of the line wait. -/
def State.ownPending (s : State) (a : Agent) (p : Place) : Bool := s.pendings.any fun x => x.hits a p

/-- The line of a place as a reader on die `d` finds it, with poison marks; none while a chain read must wait. -/
def State.lineAt (s : State) (d : Nat) (p : Place) : Option (Line × BitVec 16) :=
  match p.kind with
  | 0 => some (memLine s.mem.scratch (p.addr / 64 * 64), linePoison s.mem.scratchPoison p.addr)
  | 4 => s.chainRead d p.ch p.addr
  | _ => some (s.plainLine p.addr, s.physPoison p.addr)

/-- One byte of a place, as a reader on die `d` finds it. -/
def State.byteAt (s : State) (d : Nat) (p : Place) : Option Byte :=
  (s.lineAt d p).map fun l => BitVec.ofNat 8 (l.1.toNat / 256 ^ (p.addr % 64))

/-- Write masked bytes of a line of a place that takes its writes at once: scratchpad or HBM (R289). -/
def State.writeNow (s : State) (p : Place) (mask : BitVec 64) (v : Line) (psn : BitVec 16) : State :=
  if p.kind == 0 then
    s.modMem fun m => { m with
      scratch := memSetMask m.scratch (p.addr / 64 * 64) mask v
      scratchPoison := markPoison m.scratchPoison p.addr psn (wholeWords mask &&& ~~~psn) }
  else s.plainWrite p.addr mask v psn

/-! ## The free-frame pool and copy on write -/

/-- An address of a process in a page of local or interleaved HBM, with the permissions asked for. -/
def hbmAt (s : State) (pid va : Nat) (wr : Bool) : Option Nat :=
  if 2 ^ 48 ≤ va then none else
  match leafAt s pid va with
  | .ok l => match leafAllows (!wr) wr l with
    | .ok l => if (l.kind == 1 || l.kind == 2) && !(wr && l.cow) then some (l.place va).addr else none
    | .error _ => none
  | .error _ => none

/-- The 8-byte word at an HBM address of a process, none when unreachable or poisoned. -/
def word64 (s : State) (pid va : Nat) : Option Nat :=
  match hbmAt s pid va false with
  | some pa => if (s.physPoison pa).getLsbD (pa % 64 / 4) || (s.physPoison pa).getLsbD (pa % 64 / 4 + 1) then none
               else some (s.physN pa 8)
  | none => none

/-- The address by which kind `k` names a byte of storage (R290). -/
def viewOf (k pa : Nat) : Nat := if k == 2 then toInterleaved pa else pa

/-- Copy a frame of kind `k` to one that the pool names in either view, bytes and poison marks (R365, R367). -/
def copyFrame (m : Mem) (k src dst len : Nat) : Mem :=
  let inR (k b a : Nat) : Bool := a < hbmTop && b ≤ viewOf k a && viewOf k a < b + len
  let kd := if ivBase ≤ dst then 2 else 1
  let bs := m.bytes.filter fun c => inR k src c.1
  let ps := m.poison.filter fun w => inR k src (4 * w)
  { m with
    bytes := bs.foldl (fun t c => memSet t (normPa (dst + (viewOf k c.1 - src))) c.2) (m.bytes.filter fun c => !inR kd dst c.1)
    poison := ps.foldl (fun t w => setAdd t (normPa (dst + (viewOf k (4 * w) - src)) / 4)) (m.poison.filter fun w => !inR kd dst (4 * w)) }

/-- Discard the held translations of a process whose granule meets a condition (R358, R362, R367). -/
def dropHeld (s : State) (pid : Nat) (p : Nat → Bool) : State :=
  let drop (x : CellSt) : CellSt := match x.xlat.held with
    | some t => if p t.gran then { x with xlat := {} } else x
    | none => x
  { s with
    hold := s.hold.map fun e =>
      (e.1, if e.2.id.pid == pid then { e.2 with dp := { e.2.dp with cells := e.2.dp.cells.map drop } } else e.2)
    dies := s.dies.map fun (x : Die) => { x with m := { x.m with walked := x.m.walked.filter fun q => q.1 != pid || !p q.2.1 } } }

/-- The granules of a page that a leaf maps at an address. -/
def Leaf.covers (l : Leaf) (va gran : Nat) : Bool :=
  va / leafBytes l.lvl * leafBytes l.lvl ≤ gran * 65536 && gran * 65536 < (va / leafBytes l.lvl + 1) * leafBytes l.lvl

/-- A ring of the pool (R365): BASE, LOG2N, HEAD, TAIL and the address of HEAD, when present and well formed. -/
structure Ring where
  base : Nat
  log2n : Nat
  head : Nat
  tail : Nat
  headVa : Nat

/-- Read ring `r` of a process's pool (R365): its reserved bytes, and those at the end of the pool, are 0. -/
def poolRing (s : State) (pid r : Nat) : Option Ring := do
  let c ← s.ctx? pid
  guard (c.pool % 64 == 0)
  let d := c.pool + 64 * r
  let base ← word64 s pid d
  let lg ← word64 s pid (d + 8)
  let head ← word64 s pid (d + 16)
  let tail ← word64 s pid (d + 24)
  guard (base != 0 && base % 64 == 0 && 4 ≤ lg && lg ≤ 20)
  guard ((List.range 4).all fun i => word64 s pid (d + 32 + 8 * i) == some 0)
  guard ((List.range 8).all fun i => word64 s pid (c.pool + 192 + 8 * i) == some 0)
  some ⟨base, lg, head, tail, d + 16⟩

/-- The bytes of a frame of ring `r` (R365). -/
def ringFrame (r : Nat) : Nat := 2 ^ (16 + 8 * r)

/-- A pool entry is well formed (R365). -/
def frameEntryOk (r e : Nat) : Bool :=
  bits e 0 16 == 0 && bits e 52 12 == 0 && e % ringFrame r == 0 &&
  (e + ringFrame r ≤ hbmTop || (ivBase ≤ e && e + ringFrame r ≤ ivTop))

/-- The step of R367 that gives a copy-on-write page the frame `f`: the frame is copied (a line of a chain's backing has
unspecified contents, R311), the leaf names it, and every held translation of the page is discarded. -/
def cowInto (s : State) (pid va : Nat) (l : Leaf) (f : Nat) : State :=
  let src (i : Nat) : Nat := normPa (l.frame + 64 * i)
  let dst (i : Nat) : Nat := normPa (f + 64 * i)
  let s2 := s.modMem fun m => copyFrame m l.kind l.frame f (leafBytes l.lvl)
  let s3 := if s.pkg.chains.isEmpty then s2
    else (List.range (leafBytes l.lvl / 64)).foldl (fun t i =>
      if inBacking s (src i) || inBacking s (dst i) then t.physWrite (dst i) (-1) (s.backingLine (dst i)) 0 else t) s2
  let s3 := if s.mem.ipos.isEmpty then s3
    else s3.modMem fun m => { m with ipos := (List.range (leafBytes l.lvl / 32)).foldl (fun t i =>
      t.set 0 (normPa (f + 32 * i + 16)) (s.mem.ipos.getD (normPa (l.frame + 32 * i + 16)) 0)) m.ipos }
  let e := s3.physN l.at_ 8
  dropHeld (s3.physSetN l.at_ 8 (e - bits e 16 36 * 2 ^ 16 - 2 ^ 4 + f)) pid (l.covers va)

/-- The leaf of a writable HBM page of a process (R365). -/
def hbmLeaf (s : State) (pid va : Nat) : Option Leaf :=
  if 2 ^ 48 ≤ va then none else
  match leafAt s pid va with
  | .ok l => if (l.kind == 1 || l.kind == 2) && l.w then some l else none
  | .error _ => none

/-- Take a frame from ring `r` (R366); none is INFO 5. When HEAD's own page is copy-on-write its copy comes first (R367), with a
frame from the ring of its size; that take's HEAD moves in the new frame (log 29). -/
def poolTakeFuel (s : State) (pid : Nat) : Nat → Nat → Option (Nat × State)
  | 0, _ => none
  | fuel + 1, r => do
    let g ← poolRing s pid r
    guard (g.head != g.tail)
    let e ← word64 s pid (g.base + 8 * (g.head % 2 ^ g.log2n))
    guard (frameEntryOk r e)
    let l ← hbmLeaf s pid g.headVa
    let next (s : State) (l : Leaf) : State := s.physSetN (l.place g.headVa).addr 8 ((g.head + 1) % 2 ^ 64)
    if !l.cow then some (e, next s l)
    else if 3 - l.lvl == r then
      let s1 := cowInto s pid g.headVa l e
      let l1 ← hbmLeaf s1 pid g.headVa
      poolTakeFuel (next s1 l1) pid fuel r
    else
      let (f, s1) ← poolTakeFuel s pid fuel (3 - l.lvl)
      let l1 ← hbmLeaf s1 pid g.headVa
      poolTakeFuel (if l1.cow then cowInto s1 pid g.headVa l1 f else s1) pid fuel r

/-- Take a frame from ring `r` (R366). -/
def poolTake (s : State) (pid r : Nat) : Option (Nat × State) := poolTakeFuel s pid 4 r

/-- The copy of R367 for a write at an address through a leaf with COW = 1; none is INFO 5. -/
def cowCopy (s : State) (pid va : Nat) (l : Leaf) : Option State := do
  let (f, s1) ← poolTake s pid (3 - l.lvl)
  some (cowInto s1 pid va l f)

/-- The copy that a write at an address makes first (R367), when its leaf is copy-on-write and a frame is to be had. -/
def cowFirst (s : State) (pid va : Nat) : Option State :=
  if 2 ^ 48 ≤ va then none else
  match leafAt s pid va with
  | .ok l => match leafAllows false true l with
    | .ok l => if l.cow then cowCopy s pid va l else none
    | .error _ => none
  | .error _ => none

/-- The state in which the device's own write at an address of a process may be made: after the copy of R367 where its page is
copy-on-write. -/
def State.own (s : State) (pid va : Nat) : State := (cowFirst s pid va).getD s

/-- A device-owned write of an 8-byte word in writable local or interleaved HBM of a process; nothing when unreachable. -/
def hbmPut (s : State) (pid va v : Nat) : State :=
  match hbmAt (s.own pid va) pid va true with
  | some pa => (s.own pid va).physSetN pa 8 v
  | none => s

/-- A device-owned write at an address can be made. -/
def hbmMay (s : State) (pid va : Nat) : Bool := (hbmAt (s.own pid va) pid va true).isSome

/-- Take `n` frames from ring 0, or none. -/
def poolTakeN (s : State) (pid : Nat) : Nat → Option (List Nat × State)
  | 0 => some ([], s)
  | n + 1 => do
    let (f, s1) ← poolTake s pid 0
    let (fs, s2) ← poolTakeN s1 pid n
    some (f :: fs, s2)

/-- Frames available in ring 0 (R365). -/
def poolCount (s : State) (pid : Nat) : Nat :=
  match poolRing s pid 0 with
  | some g => (g.tail + 2 ^ 64 - g.head) % 2 ^ 64
  | none => 0

/-- Return a frame to ring `r`; false when the frame belongs to software again (R366). -/
def poolReturn (s : State) (pid r f : Nat) : Bool × State :=
  let at_ (s : State) : Option (Nat × Nat × Nat) := do
    let g ← poolRing s pid r
    guard ((g.tail + 2 ^ 64 - g.head) % 2 ^ 64 < 2 ^ g.log2n)
    some (g.headVa, g.base + 8 * ((g.head + 2 ^ 64 - 1) % 2 ^ g.log2n), (g.head + 2 ^ 64 - 1) % 2 ^ 64)
  let s := match at_ s with
    | some g => (s.own pid g.1).own pid g.2.1
    | none => s
  match at_ s with
  | some g =>
    match hbmAt s pid g.2.1 true, hbmAt s pid g.1 true with
    | some pa, some hp => (true, (s.physSetN pa 8 f).physSetN hp 8 g.2.2)
    | _, _ => (false, s)
  | none => (false, s)

/-! ## Resolving an address -/

/-- What an address of a process resolves to, with the copy of R367 made when it writes; an error is the INFO of R364. -/
def resolveVa (s : State) (pid va : Nat) (rd wr : Bool) : Except Nat (Place × State) :=
  if 2 ^ 48 ≤ va then .error 1 else
  match leafAt s pid va with
  | .error e => .error e
  | .ok l => match leafAllows rd wr l with
    | .error e => .error e
    | .ok l =>
      if wr && l.cow then
        match cowCopy s pid va l with
        | none => .error 5
        | some s' => match leafAt s' pid va with
          | .ok l' => .ok (l'.place va, s')
          | .error e => .error e
      else .ok (l.place va, s)

/-- Every walk of a die is busy (R357). -/
def walksFull (s : State) (d : Nat) : Bool := 1024 ≤ (s.die d).m.walks.length

/-- What of a holder waits for a walk, beside its translation operators by cell: its control thread, a copy, an endpoint; and a queue,
which stands in the holder's place (R357). -/
def missCt : Nat := 512
def missCopy (n : Nat) : Nat := 1024 + n
def missEp (e : Nat) : Nat := 2048 + e
def missQueue : Nat := 4096

/-- Walks in progress on a die. -/
def walksOn (s : State) (d : Nat) : List Walk := (s.die d).m.walks

/-- A miss waits for a walk. -/
def awaitsWalk (s : State) (d i c : Nat) : Bool :=
  ((walksOn s d).any fun w => w.who.contains (i, c)) || (s.die d).m.misses.any fun q => q.2.2 == (i, c)

/-- A miss of a process for a granule: it shares a walk of the same granule; else it starts one, or waits in order of arrival while every
walk is busy or an earlier miss waits (R357). -/
def startWalk (s : State) (d pid gran i c : Nat) : State :=
  let ws := walksOn s d
  if ws.any fun w => w.pid == pid && w.gran == gran then
    s.modM d fun m => { m with walks := m.walks.map fun w => if w.pid == pid && w.gran == gran then { w with who := w.who ++ [(i, c)] } else w }
  else if walksFull s d || !(s.die d).m.misses.isEmpty then s.modM d fun m => { m with misses := m.misses ++ [(pid, gran, i, c)] }
  else s.modM d fun m => { m with walks := m.walks ++ [⟨pid, gran, [(i, c)]⟩] }

/-- A control thread, copy, endpoint or queue may reach a granule: a walk for it has ended, or one can begin and end now, for one is free, no
earlier miss waits and none of the same granule is in progress that it would share (R357). DESIGN CHOICE (log 24): such a walk takes no
time. -/
def State.mayWalk (s : State) (d pid gran i c : Nat) : Bool :=
  (s.die d).m.walked.contains (pid, gran, i, c) ||
  (!walksFull s d && (s.die d).m.misses.isEmpty && !(walksOn s d).any fun w => w.pid == pid && w.gran == gran)

/-- The state in which it waits for a walk of the first granule that it may not reach yet; none when it may go on. -/
def State.missFor (s : State) (d pid i c : Nat) (grans : List Nat) : Option State :=
  (grans.find? fun g => !s.mayWalk d pid g i c).map fun g => if awaitsWalk s d i c then s else startWalk s d pid g i c

/-- It has gone on: only a control thread and a translation operator keep what has been walked (R357). -/
def State.forgetWalks (s : State) (d i c : Nat) : State :=
  if (s.die d).m.walked.any fun q => q.2.2 == (i, c) then s.modM d fun m => { m with walked := m.walked.filter fun q => q.2.2 != (i, c) } else s

/-- What a control-thread address reaches (R288): virtual or scratchpad. -/
def resolveCt (s : State) (h : Holder) (a : W64) (rd wr : Bool) : Except Nat (Place × State) :=
  match addrForm a with
  | .virtual => resolveVa s h.id.pid (bits a.toNat 0 48) rd wr
  | .scratch => match scratchPlace h (bits a.toNat 0 48) with
    | some p => .ok (p, s)
    | none => .error 1
  | _ => .error 1

/-- Bytes of a process's memory, as the device's own engines read them (every HBM, chain or Cellar page): none when
unreachable or poisoned. -/
def readVa (s : State) (pid d va n : Nat) : Option Nat :=
  match resolveVa s pid va true false with
  | .ok (p, _) => match s.lineAt d p with
    | some (v, psn) =>
      if (List.range ((n + 3) / 4)).any fun i => psn.getLsbD ((p.addr % 64) / 4 + i) then none
      else some (bits v.toNat (8 * (p.addr % 64)) (8 * n))
    | none => none
  | .error _ => none

/-- A read of `n` bytes by the device's own engines must only wait: a chain line that is not to be had for now (R315, R317, R318). -/
def vaWaits (s : State) (pid d va n : Nat) : Bool :=
  !s.pkg.chains.isEmpty && (List.range (n / 64 + 2)).any fun i =>
    let a := max va (va / 64 * 64 + 64 * i)
    decide (a < va + n) && match resolveVa s pid a true false with
      | .ok (p, _) => p.kind == 4 && (s.lineAt d p).isNone
      | .error _ => false

/-- `n` bytes inside one line at a virtual address: none when unreachable or when a word that holds one is poisoned. -/
def readChunk (s : State) (pid d va n : Nat) : Option (List Byte) :=
  match resolveVa s pid va true false with
  | .ok (p, _) => match s.lineAt d p with
    | some (v, psn) =>
      let off := p.addr % 64
      if (List.range n).any fun i => psn.getLsbD ((off + i) / 4) then none
      else some ((List.range n).map fun i => BitVec.ofNat 8 (v.toNat / 256 ^ (off + i)))
    | none => none
  | .error _ => none

/-- `n` bytes at a virtual address from at most `lines` lines. -/
def readLines (s : State) (pid d : Nat) : Nat → Nat → Nat → Option (List Byte)
  | 0, _, _ => some []
  | lines + 1, va, n =>
    if n = 0 then some []
    else do
      let m := min n (64 - va % 64)
      let b ← readChunk s pid d va m
      let t ← readLines s pid d lines (va + m) (n - m)
      some (b ++ t)

/-- `n` bytes at a virtual address, which may cross lines, as a list of bytes. -/
def readBytes (s : State) (pid d va n : Nat) : Option (List Byte) := readLines s pid d (n / 64 + 2) va n

/-- Write the low `n` bytes of a number inside one line of a process's local or interleaved memory; none when unreachable. -/
def writeVa (s : State) (pid va n v : Nat) : Option State :=
  match resolveVa s pid va false true with
  | .ok (p, s') => if p.kind == 1 || p.kind == 2 then some (s'.physSetN p.addr n v) else none
  | .error _ => none

/-- The agent of a holder. -/
def Holder.agent (h : Holder) : Agent := .holder h.id.inst

/-- Pending stores of a class by an agent. -/
def pendingOf (s : State) (a : Agent) (c : PathClass) : List Pending := s.pendings.filter fun x => x.agent == a && x.cls == c

/-- A store not yet accepted precedes a point of its agent's order that is reached now (R298): its own program order for CT, and for
BK a copy that is no longer BUSY. A phase or a copy under way neither precedes nor follows. -/
def Pending.before (x : Pending) : Bool := x.cls == .ct || (x.cls == .bk && x.copy.isNone)

/-- The stores of an agent that precede the present point and are not yet accepted by their path (R298, R299). -/
def writesOpen (s : State) (a : Agent) : List Pending := s.pendings.filter fun x => x.agent == a && x.before

/-- Every write of an agent that precedes the present point has been accepted by its path (R298, R392). -/
def writesAccepted (s : State) (h : Holder) : Bool := (writesOpen s h.agent).isEmpty

/-- Every CT store of an agent has been accepted by its path (R299, R314). Stores to scratchpad and HBM are accepted when they are
made. -/
def ctAccepted (s : State) (h : Holder) : Bool := (pendingOf s h.agent .ct).isEmpty && h.th.lead.words == 0

end Sys2Proof.Machine
end

