-- ==== Sys2Proof/Machine/Faults.lean ====
section
/-! DEFINITION. Fault records (R433, R434), the interrupts they raise (R440), queue faults (R281), load-check reports (R107) and trap causes (R436). -/

namespace Sys2Proof.Machine

/-- Cause codes (R436). -/
def cILL : Nat := 0x01
def cTRAP : Nat := 0x02
def cPOISON : Nat := 0x03
def cALIGN : Nat := 0x04
def cACCESS : Nat := 0x05
def cQUEUE : Nat := 0x06
def cHALT : Nat := 0x07
def cNESTED : Nat := 0x08
def cPORT : Nat := 0x10
def cSTREAM : Nat := 0x11
def cBULK : Nat := 0x12
def cMSGOVF : Nat := 0x13
def cQOVERRUN : Nat := 0x14
def cPKTNV : Nat := 0x15
def cBADPKT : Nat := 0x16
def cCFGFAIL : Nat := 0x17
def cBINDFAIL : Nat := 0x18
def cWAITTMO : Nat := 0x19
def cQACCESS : Nat := 0x1A
def cSYNC : Nat := 0x1B
def cCHAINFAIL : Nat := 0x1C
def cCALLX : Nat := 0x1D
def cRACKFAIL : Nat := 0x1E
def cXFAULT : Nat := 0x1F
def cXPEND : Nat := 0x20
def cSIGNAL : Nat := 0x21
def cTASKF : Nat := 0x22
def cADMLOST : Nat := 0x23
def cREGION : Nat := 0x24
def cEXTENT : Nat := 0x25
def cLOADCHK : Nat := 0x26
def cLINKDOWN : Nat := 0x27

/-- What a fault record carries (R434): cause, INFO, die, SRC, ID, ADDR and AUX. -/
structure FaultRec where
  cause : Nat := 0
  info : Nat := 0
  die : Nat := 0
  src : Nat := 0
  id : Nat := 0
  addr : Nat := 0
  aux : Nat := 0
deriving DecidableEq, Repr

/-- SRC of a holder's records (R434). -/
def HolderKind.src : HolderKind → Nat
  | .callee => 0 | .member => 1 | .task => 2 | .named => 3

/-- A record of a holder. -/
def HolderId.record (h : HolderId) (cause info addr aux : Nat) : FaultRec :=
  ⟨cause, info, h.die, h.kind.src, h.inst, addr, aux⟩

/-- Word 0 of a record (R434). -/
def FaultRec.word0 (r : FaultRec) (phase : Nat) : Nat :=
  r.cause % 256 + r.info % 1024 * 2 ^ 8 + r.die % 4 * 2 ^ 18 + r.src % 16 * 2 ^ 20 + phase % 2 * 2 ^ 24 + r.id % 2 ^ 32 * 2 ^ 32

/-- Raise the vector of a process, if the interrupt map gives it a valid entry that no other valid entry shadows (R440). -/
def raiseFor (s : State) (pid : Nat) : State :=
  let hits := s.host.intMap.filter fun e => bitAt e.2.toNat 63 && bits e.2.toNat 32 16 == pid
  match hits with
  | [e] => if bits e.2.toNat 0 6 == 0 then s
           else s.modHost fun h => { h with pending := h.pending ||| ((1 : W64) <<< bits e.2.toNat 0 6) }
  | _ => s

/-- Set bits of DEVEVT; each change raises vector 0 (R440). -/
def devEvent (s : State) (bit : Nat) : State :=
  s.modHost fun h => { h with
    devevt := h.devevt ||| ((1 : W64) <<< bit)
    pending := if h.devevt.getLsbD bit then h.pending else h.pending ||| 1 }

/-- A device-owned 8-byte write in a fault queue, at an address of local or interleaved HBM. -/
def fqWrite (s : State) (pid va v : Nat) : State :=
  hbmPut s pid va v

/-- Post a record to a process's fault queue (R433, R434): words 1 to 3, then word 0, then PUT; dropped with LOST + 1 when the
queue is full, and without any count when it cannot be written. -/
def postFault (s : State) (pid : Nat) (r : FaultRec) : State :=
  let s := s.modDie r.die fun d => { d with faultSeq := d.faultSeq + 1 }
  match s.ctx? pid with
  | none => s
  | some c =>
    if c.fqbase % 64 != 0 then s else
    match word64 s pid c.fqbase, word64 s pid (c.fqbase + 8), word64 s pid (c.fqbase + 16), hbmMay s pid c.fqbase with
    | some put, some take, some lost, true =>
      if c.fqsize ≤ (put + 2 ^ 64 - take) % 2 ^ 64 then fqWrite s pid (c.fqbase + 16) ((lost + 1) % 2 ^ 64)
      else
        let e := c.fqbase + 64 + 32 * (put % c.fqsize)
        if !hbmMay s pid e then s
        else
          let phase := 1 - put / c.fqsize % 2
          let s := fqWrite s pid (e + 8) r.addr
          let s := fqWrite s pid (e + 16) r.aux
          let s := fqWrite s pid (e + 24) (s.die r.die).faultSeq.toNat
          let s := fqWrite s pid e (r.word0 phase)
          raiseFor (fqWrite s pid c.fqbase ((put + 1) % 2 ^ 64)) pid
    | _, _, _, _ => s

/-- A load-check report (R107). -/
structure LoadReport where
  edge : Nat := 0xFFFF
  part : Nat := 0
  target : Nat := 0
  kind : Nat := 0
  row : Nat := 0
  col : Nat := 0
  die : Nat := 0
  cause : Nat := 0
deriving DecidableEq, Repr

/-- The report word of R107. -/
def LoadReport.word (r : LoadReport) : Nat :=
  r.edge % 2 ^ 16 * 2 ^ 48 + r.part % 16 * 2 ^ 44 + r.target % 32 * 2 ^ 39 + r.kind % 4 * 2 ^ 37 + r.row % 16 * 2 ^ 33 +
  r.col % 32 * 2 ^ 28 + r.die % 4 * 2 ^ 26 + r.cause % 256

/-- Post a load-check report to the launching process (R106, R436). -/
def postLoad (s : State) (pid : Nat) (h : HolderId) (r : LoadReport) : State :=
  postFault s pid (h.record cLOADCHK 0 r.word 0)

/-- Replace a queue. -/
def State.modQueue (s : State) (d qid : Nat) (f : Queue → Queue) : State :=
  s.modQ d fun q => { q with queues := q.queues.modify qid f }

/-- Discard the read-ahead of a queue (R270): a withheld read of a packet that has not started. -/
def dropAhead (s : State) (d qid : Nat) : State :=
  let started (i : Nat) : Bool := match (s.die d).q.queues.find qid with
    | some q => q.running.any fun p => p.idx == i
    | none => false
  s.modPkg fun p => { p with withheld := p.withheld.filter fun x => match x.who with
    | .packet e k i => e != d || k != qid || started i
    | _ => true }

/-- A queue fault (R281): the queue stops and a record is posted; packets already started run on. -/
def queueFault (s : State) (d qid cause info addr : Nat) : State :=
  match (s.die d).q.queues.find qid with
  | none => s
  | some q =>
    let s := (dropAhead s d qid).modQueue d qid fun q => { q with st := .stopped, last := BitVec.ofNat 8 cause }
    postFault s q.pid ⟨cause, info, d, 4, qid, addr, 0⟩

/-- The address of packet `i` of a queue (R264). -/
def Queue.packetAddr (q : Queue) (i : Nat) : Nat := q.ring + 64 * (i % 2 ^ q.log2s)

/-- Change a started packet. -/
def State.modPkt (s : State) (d qid idx : Nat) (f : RunPkt → RunPkt) : State :=
  s.modQueue d qid fun q => { q with running := q.running.map fun p => if p.idx == idx then f p else p }

/-- A started packet fails (R281): it signals nothing and its queue stops. -/
def packetFault (s : State) (d qid idx cause info : Nat) (addr : Option Nat) : State :=
  match (s.die d).q.queues.find qid with
  | none => s
  | some q => queueFault (s.modPkt d qid idx fun p => { p with st := .faulted }) d qid cause info (addr.getD (q.packetAddr idx))

/-- RD passes a packet, and the times of the writes that admitted no later one go with it (R270, R271). -/
def Queue.pass (q : Queue) : Queue :=
  let rd := q.rd + 1
  { q with rd := rd, admits := q.admits.filter fun a => decide (0 < (a.1 - rd).toNat) && decide ((a.1 - rd).toNat ≤ 2 ^ 63) }

/-- The residency of a CFGLOAD goes: the packet fails unless it has failed already, or its work is done and only its signal is due (R277). -/
def loadGone (s : State) (p : Option (Nat × Nat × Nat)) : State :=
  match p with
  | none => s
  | some (d, qid, i) =>
    match ((s.die d).q.queues.find qid).bind fun q => q.running.find? fun x => x.idx == i && x.st != .done && x.st != .faulted with
    | some _ => packetFault s d qid i cCFGFAIL 5 none
    | none => s

/-- A packet's work is complete (R273). -/
def packetDone (s : State) (p : Option (Nat × Nat × Nat)) : State :=
  match p with
  | some (d, qid, idx) => s.modPkt d qid idx fun p => { p with st := .done }
  | none => s

end Sys2Proof.Machine
end

