-- ==== Sys2Proof/Machine/Area.lean ====
section
/-! DEFINITION. The Area Table (R333, R334), claims, releases and gang reservations (R345, R346), and the scan of claim step 2 (R338). -/

namespace Sys2Proof.Machine

/-- An Area Table entry of a die. -/
def State.area (s : State) (d c : Nat) : AreaEnt := (s.die d).p.area.getD c {}

/-- Write an Area Table entry. -/
def State.setArea (s : State) (d c : Nat) (e : AreaEnt) : State :=
  s.modP d fun p => { p with area := Tbl.set p.area {} c e }

/-- STATE of an entry (R333): a cell with COND 3 is RETIRED. -/
def AreaEnt.state (e : AreaEnt) : Nat := if e.cond == 3 then 4 else e.st

/-- A cell meets a class (R11). -/
def AreaEnt.meets (e : AreaEnt) (cls : Nat) : Bool :=
  match e.cond with
  | 0 => true
  | 1 => cls == 1
  | 2 => cls == 2
  | _ => false

/-- FREE or RESIDENT, not RETIRED, meeting the class (R333). -/
def AreaEnt.claimable (e : AreaEnt) (cls : Nat) : Bool := (e.state == 0 || e.state == 2) && e.meets cls

/-- A rectangle lies wholly on a die. -/
def onDie (col row w h : Nat) : Bool := col + w ≤ 32 && row + h ≤ 16

/-- Every cell of a rectangle meets a condition. -/
def rectAll (s : State) (d col row w h : Nat) (p : AreaEnt → Bool) : Bool :=
  onDie col row w h && (rect col row w h).all fun c => p (s.area d c)

/-- The scan of claim step 2 (R338): origins column by column, and rows within a column; the first rectangle all of whose cells
meet a condition. -/
def scanDie (s : State) (d w h : Nat) (p : AreaEnt → Bool) : Option (Nat × Nat) :=
  if 32 < w || 16 < h || w == 0 || h == 0 then none else
  firstSome (List.range (33 - w)) fun c =>
    (firstBelow (17 - h) fun r => rectAll s d c r w h p).map fun r => (c, r)

/-- A region of the shape and class could exist on a die with every non-retired cell free (R339). -/
def couldExist (s : State) (d w h cls : Nat) : Bool := (scanDie s d w h fun e => e.meets cls).isSome

/-! ## Reservations -/

/-- The cells a gang plans on a die (R345). -/
def Gang.plannedOn (s : State) (g : Gang) (d : Nat) : List Nat :=
  (g.members.zip g.plan).flatMap fun (m, pd, pc, pr) =>
    if pd == d then match s.h? m with
      | some x => rect pc pr x.id.w x.id.h
      | none => []
    else []

/-- The oldest waiting gang whose plan takes a cell (R345). -/
def wantedBy (s : State) (d c : Nat) : Option (Nat × Gang) :=
  s.pkg.gangs.foldl (fun best (n, g) =>
    if !g.placed && (g.plannedOn s d).contains c then
      match best with
      | some (_, b) => if g.age < b.age then some (n, g) else best
      | none => some (n, g)
    else best) none

/-- A cell is released (R345, R333): RESERVED for the oldest waiting gang that plans it, and otherwise FREE. -/
def releaseCell (s : State) (d c : Nat) : State :=
  let cond := (s.area d c).cond
  match wantedBy s d c with
  | some (n, g) => s.setArea d c { st := 3, cond := cond, pid := g.pid, owner := n }
  | none => s.setArea d c { cond := cond }

/-- Release the cells of a rectangle, in one update (R334). -/
def releaseRect (s : State) (d col row w h : Nat) : State :=
  (rect col row w h).foldl (fun s c => releaseCell s d c) s

/-- Evict the idle residency that owns a RESIDENT cell, as a whole (R333). -/
def evictAt (s : State) (d c : Nat) : State :=
  let e := s.area d c
  if e.state == 2 then
    match s.h? e.owner with
    | some x => { releaseRect s d x.id.col x.id.row x.id.w x.id.h with hold := s.hold.del e.owner }
    | none => s.setArea d c { e with st := 0, pid := 0, owner := 0, org := false }
  else s

/-- Mark the cells of a rectangle HELD by a holder, ORG on the origin (R333); idle residencies on it are evicted first. -/
def claimRect (s : State) (d col row w h pid owner : Nat) : State :=
  let cs := rect col row w h
  let s := cs.foldl (fun s c => evictAt s d c) s
  cs.foldl (fun s c =>
    let e := s.area d c
    s.setArea d c { e with st := 1, pid := pid, owner := owner, org := c == cellIndex col row }) s

/-- An idle RESIDENT region becomes held again by its residency (R383). -/
def holdRect (s : State) (h : HolderId) : State :=
  (rect h.col h.row h.w h.h).foldl (fun s c => s.setArea h.die c { s.area h.die c with st := 1 }) s

end Sys2Proof.Machine
end

