-- ==== Sys2Proof/Machine/Num.lean ====
section
/-! DEFINITION. Number formats, rounding and conversion (R49 to R65): floating values as exact dyadic numbers, narrowed once at the end of an operation. -/

namespace Sys2Proof.Machine

/-- A floating value: NaN, an infinity, or ±m × 2^e, a zero keeping its sign. -/
inductive FV where
  | nan
  | inf (neg : Bool)
  | fin (neg : Bool) (m : Nat) (e : Int)
deriving DecidableEq, Repr, Inhabited

/-- What the top exponent of a format means: infinity and NaN, NaN in one code (E4M3), or ordinary values (R50, R55). -/
inductive FKind where
  | ieee | one | finite
deriving DecidableEq, Repr, Inhabited

/-- A floating format: exponent bits, mantissa bits, bias. -/
structure FFmt where
  eb : Nat
  mb : Nat
  bias : Nat
  kind : FKind
deriving DecidableEq, Repr, Inhabited

/-- The formats of R50 and R55. -/
def f32 : FFmt := ⟨8, 23, 127, .ieee⟩
def bf16 : FFmt := ⟨8, 7, 127, .ieee⟩
def f16 : FFmt := ⟨5, 10, 15, .ieee⟩
def e2m1 : FFmt := ⟨2, 1, 1, .finite⟩
def e2m3 : FFmt := ⟨2, 3, 1, .finite⟩
def e3m2 : FFmt := ⟨3, 2, 3, .finite⟩
def e3m4 : FFmt := ⟨3, 4, 3, .finite⟩
def e4m3 : FFmt := ⟨4, 3, 7, .one⟩
def e5m2 : FFmt := ⟨5, 2, 15, .ieee⟩

/-- The sign bit of a format, as a number. -/
def FFmt.sign (f : FFmt) : Nat := 2 ^ (f.eb + f.mb)

/-- The greatest finite magnitude code, the infinity and the canonical quiet NaN (R50, R55, R63). -/
def FFmt.max (f : FFmt) : Nat :=
  match f.kind with
  | .ieee => (2 ^ f.eb - 1) * 2 ^ f.mb - 1
  | .one => 2 ^ (f.eb + f.mb) - 2
  | .finite => 2 ^ (f.eb + f.mb) - 1
def FFmt.inf (f : FFmt) : Nat := (2 ^ f.eb - 1) * 2 ^ f.mb
def FFmt.nan (f : FFmt) : Nat :=
  match f.kind with
  | .ieee => f.inf + 2 ^ (f.mb - 1)
  | .one => 2 ^ (f.eb + f.mb) - 1
  | .finite => 0

/-- The value of a code (R50, R55). -/
def FFmt.dec (f : FFmt) (c : Nat) : FV :=
  let s := bitAt c (f.eb + f.mb)
  let e := bits c f.mb f.eb
  let m := bits c 0 f.mb
  if f.kind == .ieee && e == 2 ^ f.eb - 1 then (if m == 0 then .inf s else .nan)
  else if f.kind == .one && e == 2 ^ f.eb - 1 && m == 2 ^ f.mb - 1 then .nan
  else if e == 0 then .fin s m (1 - f.bias - f.mb)
  else .fin s (m + 2 ^ f.mb) ((e : Int) - f.bias - f.mb)

/-- `m` × 2^k rounded to an integer: toward zero, or to nearest with ties to even. -/
def shiftRound (rtz : Bool) (m : Nat) (k : Int) : Nat :=
  if 0 ≤ k then m * 2 ^ k.toNat
  else
    let d := (-k).toNat
    let t := m / 2 ^ d
    let r := m % 2 ^ d
    if rtz then t else if 2 ^ d < 2 * r || (2 * r == 2 ^ d && t % 2 == 1) then t + 1 else t

/-- The magnitude code of m × 2^e rounded to a format's precision, its exponent unbounded (R63). -/
def FFmt.round (f : FFmt) (rtz : Bool) (m : Nat) (e : Int) : Nat :=
  if m == 0 then 0
  else
    let low : Int := 1 - f.bias
    let top : Int := Nat.log2 m + e
    let q : Int := Max.max top low - f.mb
    let r := shiftRound rtz m (e - q)
    if q == low - f.mb then r else (q + f.mb + f.bias).toNat * 2 ^ f.mb + (r - 2 ^ f.mb)

/-- The code of a value under a rounding and an overflow rule (R63). -/
def FFmt.enc (f : FFmt) (rtz sat : Bool) (v : FV) : Nat :=
  let sg (s : Bool) (c : Nat) : Nat := if s then f.sign + c else c
  match v with
  | .nan => f.nan
  | .inf s =>
    match f.kind with
    | .ieee => sg s (if sat then f.max else f.inf)
    | .one => if sat then sg s f.max else f.nan
    | .finite => sg s f.max
  | .fin s m e =>
    let c := f.round rtz m e
    if c ≤ f.max then sg s c
    else match f.kind with
      | .ieee => sg s (if sat || rtz then f.max else f.inf)
      | .one => if sat then sg s f.max else f.nan
      | .finite => sg s f.max

/-- FLUSH on a code: a subnormal becomes zero of its sign (R65). -/
def FFmt.flush (f : FFmt) (on : Bool) (c : Nat) : Nat :=
  if on && bits c f.mb f.eb == 0 then bits c (f.eb + f.mb) 1 * f.sign else c

/-! ## Exact arithmetic -/

/-- Sign inversion. -/
def FV.neg : FV → FV
  | .nan => .nan
  | .inf s => .inf !s
  | .fin s m e => .fin (!s) m e

/-- ±m as an integer. -/
def signed (s : Bool) (m : Nat) : Int := if s then -(m : Int) else m

/-- An exact sum; a zero sum is −0 only when both terms are negative (R51). -/
def FV.add : FV → FV → FV
  | .nan, _ => .nan
  | _, .nan => .nan
  | .inf s, .inf t => if s == t then .inf s else .nan
  | .inf s, _ => .inf s
  | _, .inf t => .inf t
  | .fin s m e, .fin t n g =>
    let q := min e g
    let z := signed s (m * 2 ^ (e - q).toNat) + signed t (n * 2 ^ (g - q).toNat)
    if z == 0 then .fin (s && t) 0 0 else .fin (z < 0) z.natAbs q

/-- An exact product. -/
def FV.mul : FV → FV → FV
  | .nan, _ => .nan
  | _, .nan => .nan
  | .inf s, .inf t => .inf (s != t)
  | .inf s, .fin t n _ => if n == 0 then .nan else .inf (s != t)
  | .fin s m _, .inf t => if m == 0 then .nan else .inf (s != t)
  | .fin s m e, .fin t n g => .fin (s != t) (m * n) (e + g)

/-- a < b on values that are no NaN; zeros of either sign are equal. -/
def FV.lt : FV → FV → Bool
  | .nan, _ => false
  | _, .nan => false
  | .inf s, .inf t => s && !t
  | .inf s, _ => s
  | _, .inf t => !t
  | .fin s m e, .fin t n g =>
    let q := min e g
    signed s (m * 2 ^ (e - q).toNat) < signed t (n * 2 ^ (g - q).toNat)

/-- A value is a NaN. -/
def FV.isNan : FV → Bool
  | .nan => true
  | _ => false

/-- The sign of a value. -/
def FV.isNeg : FV → Bool
  | .nan => false
  | .inf s => s
  | .fin s _ _ => s

/-- Equality; a NaN equals nothing, +0 equals −0. -/
def FV.eqv (a b : FV) : Bool := !a.isNan && !b.isNan && !a.lt b && !b.lt a

/-- FMIN of R140. -/
def FV.min (a b : FV) : FV :=
  if a.isNan then b else if b.isNan then a
  else if a.lt b then a else if b.lt a then b else if a.isNeg then a else b

/-- FMAX of R140. -/
def FV.max (a b : FV) : FV :=
  if a.isNan then b else if b.isNan then a
  else if b.lt a then a else if a.lt b then b else if a.isNeg then b else a

/-- The sign cleared. -/
def FV.abs : FV → FV
  | .nan => .nan
  | .inf _ => .inf false
  | .fin _ m e => .fin false m e

/-! ## Operations on codes -/

/-- An operation on two codes of a format, rounded once, FLUSH applied to inputs and result (R51, R65). -/
def FFmt.op2 (f : FFmt) (fl : Bool) (op : FV → FV → FV) (a b : Nat) : Nat :=
  f.flush fl (f.enc false false (op (f.dec (f.flush fl a)) (f.dec (f.flush fl b))))

/-- An operation on three codes. -/
def FFmt.op3 (f : FFmt) (fl : Bool) (op : FV → FV → FV → FV) (a b c : Nat) : Nat :=
  f.flush fl (f.enc false false (op (f.dec (f.flush fl a)) (f.dec (f.flush fl b)) (f.dec (f.flush fl c))))

/-- An operation on one code. -/
def FFmt.op1 (f : FFmt) (fl : Bool) (op : FV → FV) (a : Nat) : Nat :=
  f.flush fl (f.enc false false (op (f.dec (f.flush fl a))))

/-- A comparison of two codes. -/
def FFmt.cmp (f : FFmt) (fl : Bool) (op : FV → FV → Bool) (a b : Nat) : Bool :=
  op (f.dec (f.flush fl a)) (f.dec (f.flush fl b))

/-- a ≤ b. -/
def FV.le (a b : FV) : Bool := !a.isNan && !b.isNan && !b.lt a

/-- Addition of FP32 codes (R70, R71, R175, R190). -/
def fadd32 (fl : Bool) (a b : Nat) : Nat := f32.op2 fl FV.add a b

/-! ## Integers -/

/-- Conversion to an integer in a range: saturated, NaN gives 0 (R63). -/
def FV.toInt (rtz : Bool) (lo hi : Int) : FV → Int
  | .nan => 0
  | .inf s => if s then lo else hi
  | .fin s m e =>
    let z := signed s (shiftRound rtz m e)
    if z < lo then lo else if hi < z then hi else z

/-- An integer as an exact value. -/
def FV.ofInt (z : Int) : FV := .fin (z < 0) z.natAbs 0

/-- The two's complement value of the low `n` bits. -/
def sInt (n c : Nat) : Int := if c % 2 ^ n < 2 ^ (n - 1) then (c % 2 ^ n : Nat) else (c % 2 ^ n : Nat) - (2 ^ n : Nat)

/-- The low `n` bits of an integer. -/
def uNat (n : Nat) (z : Int) : Nat := (z % (2 ^ n : Nat)).toNat

/-! ## Matrix operand formats (R54 to R59) -/

/-- Storage width of a port format code, in bits (R53, R61). -/
def fmtWidth (c : Nat) : Nat :=
  match c with
  | 0x00 => 1
  | 0x01 | 0x02 => 2
  | 0x03 | 0x04 | 0x08 | 0x09 | 0x12 => 4
  | 0x07 | 0x10 | 0x11 => 16
  | 0x05 | 0x06 | 0x0A | 0x0B | 0x0C | 0x0D | 0x0E | 0x0F | 0x13 => 8
  | _ => 32

/-- A code of the integer class (R54). -/
def fmtInt (c : Nat) : Bool := c ≤ 7
/-- A K format (R58). -/
def fmtK (c : Nat) : Bool := c == 0x09 || c == 0x0E

/-- What an element decodes to: a value, the block's k, or poison for a reserved code (R57, R58). -/
inductive Elem where
  | val (v : FV)
  | k
  | bad
deriving DecidableEq, Repr, Inhabited

/-- The float format of a code, where it has one. -/
def fmtFloat (c : Nat) : Option FFmt :=
  match c with
  | 0x08 | 0x09 => some e2m1
  | 0x0A => some e2m3
  | 0x0B => some e3m2
  | 0x0C => some e3m4
  | 0x0D | 0x0E => some e4m3
  | 0x0F => some e5m2
  | 0x10 => some bf16
  | 0x11 => some f16
  | 0x20 => some f32
  | _ => none

/-- The code of an element that stands for k (R58). -/
def kCode (c : Nat) : Nat := if c == 0x09 then 8 else 0x80

/-- CB8: T[i] × 2^−e, rounded to BF16 (R59). -/
def cb8 (t : Nat) (e : Nat) : Nat := bf16.enc false false ((bf16.dec t).mul (.fin false 1 (-(e : Int))))

/-- Decode element bits `x` of a format code with FLUSH and the code table `tbl` of the region in force (R54 to R59, R65). -/
def decodeElem (fl : Bool) (tbl : Nat → Nat) (c x : Nat) : Elem :=
  let flt (f : FFmt) (x : Nat) : Elem := .val (f.dec (f.flush fl x))
  match c with
  | 0x00 => .val (.ofInt (if x % 2 == 0 then 1 else -1))
  | 0x01 => match x % 4 with
    | 0 => .val (.ofInt 0)
    | 1 => .val (.ofInt 1)
    | 3 => .val (.ofInt (-1))
    | _ => .bad
  | 0x02 => .val (.ofInt (sInt 2 x))
  | 0x03 => .val (.ofInt (sInt 4 x))
  | 0x04 => .val (.ofInt (x % 16 : Nat))
  | 0x05 => .val (.ofInt (sInt 8 x))
  | 0x06 => .val (.ofInt (x % 256 : Nat))
  | 0x07 => .val (.ofInt (sInt 16 x))
  | 0x0A => if 64 ≤ x then .bad else flt e2m3 x
  | 0x0B => if 64 ≤ x then .bad else flt e3m2 x
  | 0x12 => flt bf16 (tbl (x % 16))
  | 0x13 => flt bf16 (cb8 (tbl (x / 16 % 16)) (x % 16))
  | 0x21 => .val (.ofInt (sInt 32 x))
  | _ => match fmtFloat c with
    | some f =>
      if fmtK c && x == kCode c then .k
      else if fmtK c && fl && bits x f.mb f.eb == 0 then .val (.fin false 0 0)
      else flt f x
    | none => .bad

/-- The value of a SCALE field (R60): E8M0, or E4M3 for `e4`. FLUSH never acts on it. -/
def scaleVal (e4 : Bool) (c : Nat) : FV :=
  if e4 then e4m3.dec c else if c == 0xFF then .nan else .fin false 1 ((c : Int) - 127)

/-- The value of KVAL (R58, R60), with FLUSH. -/
def kVal (fl : Bool) (c : Nat) : FV := e4m3.dec (e4m3.flush fl c)

/-- Conversion of a value to a port format code (R63, R64, R65). -/
def encodeElem (fl rtz sat : Bool) (c : Nat) (v : FV) : Nat :=
  match c with
  | 0x00 => match v with
    | .nan => 0
    | .inf s => b2n s
    | .fin s m _ => b2n (s && m != 0)
  | 0x01 => uNat 2 (v.toInt rtz (-1) 1)
  | 0x02 => uNat 2 (v.toInt rtz (-2) 1)
  | 0x03 => uNat 4 (v.toInt rtz (-8) 7)
  | 0x04 => uNat 4 (v.toInt rtz 0 15)
  | 0x05 => uNat 8 (v.toInt rtz (-128) 127)
  | 0x06 => uNat 8 (v.toInt rtz 0 255)
  | 0x07 => uNat 16 (v.toInt rtz (-32768) 32767)
  | 0x21 => uNat 32 (v.toInt rtz (-2147483648) 2147483647)
  | _ => match fmtFloat c with
    | some f =>
      let x := f.flush fl (f.enc rtz sat v)
      if fmtK c && x == kCode c then 0 else x
    | none => 0

end Sys2Proof.Machine
end

