-- ==== Sys2Proof/Machine/Cfg.lean ====
section
/-! DEFINITION. Configuration frames (R91 to R102): their fields, the routes of the switches (R99), and where links lead. -/

namespace Sys2Proof.Machine

/-! ## Frames -/

/-- The 256 bits of a frame (R91), as a number. -/
def frameOf (v : Nat) : Frame :=
  { kind := bits v 254 2, col := bits v 249 5, row := bits v 245 4, target := bits v 240 5, part := bits v 236 4
    pay := BitVec.ofNat 224 v }

/-- The frame of a CFG token: lanes 0 to 7 (R102). -/
def Token.frame (t : Token) : Frame := frameOf (bits t.val.toNat 0 256)

/-- A frame configures a kind, target and part of a cell. -/
def Frame.sits (f : Frame) (kind col row target part : Nat) : Bool :=
  f.kind == kind && f.col == col && f.row == row && f.target == target && f.part == part

/-- Two frames configure the same word. -/
def Frame.same (f g : Frame) : Bool := f.sits g.kind g.col g.row g.target g.part

/-- Column and row of cell `c` of a region. -/
def Holder.cellCol (h : Holder) (c : Nat) : Nat := c / h.id.h
def Holder.cellRow (h : Holder) (c : Nat) : Nat := c % h.id.h

/-- The payload in force for a target of a cell; 0, which is off, when no frame configures it (R105). -/
def Holder.pay (h : Holder) (c kind target part : Nat) : Nat :=
  match h.dp.cfg.find? fun f => f.sits kind (h.cellCol c) (h.cellRow c) target part with
  | some f => f.pay.toNat
  | none => 0

/-- Put a frame in force. -/
def Datapath.setFrame (d : Datapath) (f : Frame) : Datapath :=
  { d with cfg := if d.cfg.any fun g => g.same f then d.cfg.map fun g => if g.same f then f else g else d.cfg ++ [f] }

/-- A cell of the datapath. -/
def Holder.cell (h : Holder) (c : Nat) : CellSt := h.dp.cells.getD c {}

/-- Change a cell of the datapath. -/
def Holder.modCell (h : Holder) (c : Nat) (f : CellSt → CellSt) : Holder :=
  { h with dp := { h.dp with cells := listMod h.dp.cells c f } }

/-- Record a region error (R427), the first one standing. -/
def Holder.fail (h : Holder) (reason c : Nat) : Holder :=
  { h with dp := { h.dp with err := h.dp.err <|> some (reason, c) } }

/-! ## Stage words (R94) -/

/-- The stage word of a CU stage. -/
def Holder.stage (h : Holder) (c k : Nat) : Nat := h.pay c 0 k 0

def sOp (w : Nat) : Nat := bits w 0 8
def sOpx (w : Nat) : Nat := bits w 8 8
def sSrcA (w : Nat) : Nat := bits w 16 4
def sSrcB (w : Nat) : Nat := bits w 20 4
def sSrcC (w : Nat) : Nat := bits w 24 4
def sFmtI (w : Nat) : Nat := bits w 32 8
def sFmtR (w : Nat) : Nat := bits w 40 8
def sOport (w : Nat) : Nat := bits w 48 2
def sOen (w : Nat) : Bool := bitAt w 50
def sRed (w : Nat) : Bool := bitAt w 51
def sAcc (w : Nat) : Bool := bitAt w 52
def sRtz (w : Nat) : Bool := bitAt w 53
def sSat (w : Nat) : Bool := bitAt w 54
def sPat (w : Nat) : Nat := bits w 64 64
def sConst (w : Nat) : Nat := bits w 128 32

/-- NOSC of PACK and UNPACK (R193, R194). -/
def sNosc (w : Nat) : Bool := bitAt (sOpx w) 1

/-- Which of a, b and c an operation reads (R169 to R174, R178, R192 to R197, R215). -/
def opReads (w : Nat) : Bool × Bool × Bool :=
  match sOp w with
  | 0x04 | 0x13 | 0x30 | 0x31 | 0x60 | 0x61 | 0x62 | 0x63 => (true, true, true)
  | 0x07 | 0x08 | 0x32 | 0x33 | 0x34 | 0x40 | 0x41 | 0x42 | 0x43 | 0x44 | 0x45 => (true, false, false)
  | 0x48 => (true, sFmtI w == 0x20 && (sFmtR w == 0x10 || sFmtR w == 0x11), false)
  | 0x49 => (true, true, !sNosc w)
  | 0x4A => (true, false, !sNosc w)
  | 0x50 | 0x51 | 0x52 => (false, false, false)
  | _ => (true, true, false)

/-- The source codes an operation reads, in the order a, b, c. -/
def stageSrcs (w : Nat) : List Nat :=
  let (a, b, c) := opReads w
  (if a then [sSrcA w] else []) ++ (if b then [sSrcB w] else []) ++ (if c then [sSrcC w] else [])

/-- The named heads of a stage: source codes 0 to 4, each once, in field order (R163). -/
def stageHeads (w : Nat) : List Nat := ((stageSrcs w).filter (· < 5)).eraseDups

/-- A reducer (R188). -/
def isReducer (w : Nat) : Bool := sOp w == 0x50 || sOp w == 0x51 || sOp w == 0x52

/-- The stage of a CU that drives an output port. -/
def Holder.stageOut (h : Holder) (c n : Nat) : Option Nat :=
  firstBelow 6 fun k => sOp (h.stage c k) != 0 && sOen (h.stage c k) && sOport (h.stage c k) == n

/-- The stage of a CU that reads an input port. -/
def Holder.stageIn (h : Holder) (c n : Nat) : Option Nat :=
  firstBelow 6 fun k => sOp (h.stage c k) != 0 && (stageSrcs (h.stage c k)).contains (n + 1)

/-- Stage k + 1 reads PIPE[k]. -/
def Holder.nextReads (h : Holder) (c k : Nat) : Bool :=
  k < 5 && sOp (h.stage c (k + 1)) != 0 && (stageSrcs (h.stage c (k + 1))).contains 0

/-! ## Routes (R99) -/

/-- A route entry: source port, destinations (port and slots, by position), arbitration. -/
structure Route where
  src : Nat
  dsts : List (Nat × Nat)
  arb : Nat
deriving DecidableEq, Repr

/-- Fields of a route entry of 56 bits. -/
def routeOf (v : Nat) : Option Route :=
  if bitAt v 0 then
    some ⟨bits v 1 7, (List.range 4).map fun i => (bits v (8 + 11 * i) 7, bits v (15 + 11 * i) 4), bits v 52 2⟩
  else none

/-- Route entry `e` of switch `tile` of a cell. -/
def Holder.route (h : Holder) (c tile e : Nat) : Option Route :=
  routeOf (bits (h.pay c 2 tile (e / 4)) (56 * (e % 4)) 56)

/-- A route destination of the region. -/
structure DstRef where
  cell : Nat
  tile : Nat
  e : Nat
  i : Nat
deriving DecidableEq, Repr

/-- The key of a link in its cell. -/
def DstRef.key (r : DstRef) : Nat := r.tile * 64 + r.e * 4 + r.i
/-- One number for a destination of the region, above 0. -/
def DstRef.code (r : DstRef) : Nat := r.key * 512 + r.cell % 512 + 1
/-- The destination of a link of a cell, by its key. -/
def DstRef.ofKey (c k : Nat) : DstRef := ⟨c, k / 64, k / 4 % 16, k % 4⟩
/-- The destination that a number stands for. -/
def DstRef.ofCode (n : Nat) : DstRef := .ofKey ((n - 1) % 512) ((n - 1) / 512)
/-- A link whose destination a frame has taken away: its key is 256 or more (R236). -/
def DstRef.old (r : DstRef) : Bool := 4 ≤ r.tile

/-- The used destinations of a cell, in entry order. -/
def Holder.dstsOf (h : Holder) (c : Nat) : List (DstRef × Route × Nat × Nat) :=
  (List.range 4).flatMap fun tile => (List.range 16).flatMap fun e =>
    match h.route c tile e with
    | none => []
    | some r => (r.dsts.zipIdx.filter fun (d, _) => d.1 != 0x7F).map fun (d, i) => (⟨c, tile, e, i⟩, r, d.1, d.2)

/-- The destinations fed by a source port of a cell; a link from a neighbour feeds its own switch only. -/
def Holder.fed (h : Holder) (c : Nat) (tile : Option Nat) (src : Nat) : List (DstRef × Nat × Nat) :=
  ((h.dstsOf c).filter fun (r, rt, _, _) => rt.src == src && (match tile with | some t => r.tile == t | none => true)).map
    fun (r, _, d, sl) => (r, d, sl)

/-- The cell of a region next to a cell: 4 N, 5 E, 6 S, 7 W (R8, R99). -/
def Holder.beside (h : Holder) (c dir : Nat) : Option Nat :=
  let col := h.cellCol c
  let row := h.cellRow c
  match dir with
  | 4 => if row + 1 < h.id.h then some (c + 1) else none
  | 5 => if col + 1 < h.id.w then some (c + h.id.h) else none
  | 6 => if 0 < row then some (c - 1) else none
  | 7 => if 0 < col then some (c - h.id.h) else none
  | _ => none

/-- The facing side of the adjacent switch. -/
def facing (dir : Nat) : Nat := if dir < 6 then dir + 2 else dir - 2

/-- Longest path of 0-slot links that is followed. -/
def hopFuel : Nat := 64

/-- The entries of a switch that reach an edge port, with their arbitration (R99). -/
def Holder.intoEdge (h : Holder) (c tile d : Nat) : List (DstRef × Nat) :=
  ((h.dstsOf c).filter fun (r, _, e, _) => r.tile == tile && e == d).map fun (r, rt, _, _) => (r, rt.arb)

/-- An edge port at which routes merge (R99, R221). -/
def Holder.edgeMerged (h : Holder) (c tile d : Nat) : Bool := (h.intoEdge c tile d).any fun (_, arb) => arb != 0

/-- The port that a destination leads to. -/
def Holder.leads (h : Holder) (r : DstRef) : Option Nat :=
  if r.old then ((h.cell r.cell).links.getD r.key {}).gone else (h.route r.cell r.tile r.e).map fun rt => (rt.dsts.getD r.i (0, 0)).1

/-- The links of a cell whose destination, a port of an element or an edge port of a switch, a frame has taken away while they hold
tokens, oldest first (R236). -/
def Holder.olds (h : Holder) (c tile d : Nat) : List (DstRef × Nat) :=
  ((h.cell c).links.filter fun l => l.2.gone == some d && (d < 64 || l.1 / 64 % 4 == tile)).map fun l => (.ofKey c l.1, 0)

/-- Tokens that leave through links of an earlier configuration go ahead of those of a destination (R218, R236). -/
def Holder.behindOld (h : Holder) (r : DstRef) : Bool :=
  !r.old && (h.leads r).any fun d => !(h.olds r.cell r.tile d).isEmpty

/-- Tokens stand at a destination: those that its link holds, also when its SLOTS field has shrunk to 0 below them, or those that go
there through a link of an earlier configuration (R236). -/
def Holder.linkFull (h : Holder) (r : DstRef) : Bool := !((h.cell r.cell).links.getD r.key {}).q.isEmpty || h.behindOld r

/-! ## Route frames (R236) -/

/-- A frame that the switch at a source port applies: a route frame of the cell that carries an entry for the port. -/
def Holder.siteFrame (h : Holder) (t : Token) (c id : Nat) (tile : Option Nat) : Option Frame :=
  let f := t.frame
  if t.kind == .cfg && f.kind == 2 && f.target < 4 && f.col == h.cellCol c && f.row == h.cellRow c &&
     (match tile with | some x => x == f.target | none => true) &&
     (List.range 4).any fun j => match routeOf (bits f.pay.toNat (56 * j) 56) with | some r => r.src == id | none => false
  then some f else none

/-- The destinations that a source writes a token to, 0-slot links to a neighbour followed (R219, R220): with port and slots. A
switch behind such a link that applies the token as a route frame takes it there (R236), and so does a merge at an edge port
(R221). -/
def Holder.finals (h : Holder) (t : Token) : Nat → Nat → Option Nat → Nat → List (DstRef × Nat × Nat)
  | 0, _, _, _ => []
  | fuel + 1, c, tile, src =>
    (h.fed c tile src).flatMap fun (r, d, sl) =>
      if sl == 0 && 64 ≤ d && !h.linkFull r && !h.edgeMerged c r.tile d then
        match h.beside c (d / 16) with
        | some n =>
          let id := facing (d / 16) * 16 + d % 16
          if (h.siteFrame t n id (some r.tile)).isSome then [] else h.finals t fuel n (some r.tile) id
        | none => []
      else [(r, d, sl)]

/-- The route frame that a switch behind 0-slot links of a source applies as the token leaves (R236). -/
def Holder.deepFrame (h : Holder) (t : Token) : Nat → Nat → Option Nat → Nat → Option Frame
  | 0, _, _, _ => none
  | fuel + 1, c, tile, src =>
    firstSome (h.fed c tile src) fun (r, d, sl) =>
      if sl == 0 && 64 ≤ d && !h.linkFull r && !h.edgeMerged c r.tile d then
        match h.beside c (d / 16) with
        | some n =>
          let id := facing (d / 16) * 16 + d % 16
          match h.siteFrame t n id (some r.tile) with
          | some f => some f
          | none => h.deepFrame t fuel n (some r.tile) id
        | none => none
      else none

/-- What a token waits in before a destination: an output port of a cell, a link, or the output of a merge at an edge port. -/
inductive Source where
  | port (c id : Nat)
  | link (r : DstRef)
  | edge (c tile d : Nat)
deriving DecidableEq, Repr

/-- Where a destination's tokens wait (R219). -/
def Holder.sourceOf (h : Holder) : Nat → DstRef → Option Source
  | 0, _ => none
  | fuel + 1, r =>
    if r.old then some (.link r) else
    match h.route r.cell r.tile r.e with
    | none => none
    | some rt =>
      if (rt.dsts.getD r.i (0, 0)).2 != 0 || h.linkFull r then some (.link r)
      else if rt.src < 64 then some (.port r.cell rt.src)
      else match h.beside r.cell (rt.src / 16) with
        | none => none
        | some n =>
          let d := facing (rt.src / 16) * 16 + rt.src % 16
          if h.edgeMerged n r.tile d then some (.edge n r.tile d)
          else match h.olds n r.tile d ++ h.intoEdge n r.tile d with
            | (q, _) :: _ => h.sourceOf fuel q
            | [] => none

/-- Cell, port identifier and switch at which a source meets its switch. -/
def Holder.site (h : Holder) : Source → Nat × Nat × Option Nat
  | .port c id => (c, id, none)
  | .link r => match h.leads r with
    | none => (r.cell, 0, some (r.tile % 4))
    | some d => ((h.beside r.cell (d / 16)).getD r.cell, facing (d / 16) * 16 + d % 16, some (r.tile % 4))
  | .edge c tile d => ((h.beside c (d / 16)).getD c, facing (d / 16) * 16 + d % 16, some tile)

/-- A link ends at an element's input, or at the merge of an edge port. -/
def Holder.linkEnds (h : Holder) (r : DstRef) : Bool :=
  match h.leads r with
  | none => true
  | some d => d < 64 || h.edgeMerged r.cell (r.tile % 4) d

/-- The destinations of a token at a source. -/
def Holder.sinksOf (h : Holder) (t : Token) (src : Source) : List (DstRef × Nat × Nat) :=
  let (c, id, tile) := h.site src
  match src with
  | .link r => if h.linkEnds r then [] else h.finals t hopFuel c tile id
  | _ => h.finals t hopFuel c tile id

/-- The destinations that reach an input port (R99), in entry order. -/
def Holder.into (h : Holder) (c id : Nat) : List (DstRef × Nat) :=
  ((h.dstsOf c).filter fun (_, _, d, _) => d == id).map fun (r, rt, _, _) => (r, rt.arb)

/-- The destinations whose tokens reach an input port: those of an earlier configuration first, then those in force (R99, R236). -/
def Holder.feeding (h : Holder) (c id : Nat) : List (DstRef × Nat) := h.olds c 0 id ++ h.into c id

/-! ## Other words -/

/-- The MX control word (R96). -/
def Holder.mxWord (h : Holder) (c : Nat) : Nat := h.pay c 0 7 0
/-- An MU port word (R98). -/
def Holder.muWord (h : Holder) (c p : Nat) : Nat := h.pay c 1 p 0
/-- A circular-buffer word (R98). -/
def Holder.cbWord (h : Holder) (c n : Nat) : Nat := h.pay c 1 (4 + n) 0
/-- An address-generator word (R101). -/
def Holder.agenWord (h : Holder) (c g : Nat) : Nat := h.pay c 3 g 0
/-- The translation-operator word (R101). -/
def Holder.xlatWord (h : Holder) (c : Nat) : Nat := h.pay c 3 2 0

/-- TYPE of an MU port: 0 off, 1 MURD, 2 MUWR, 3 MUCB, 4 MUAT, 5 MUSV. -/
def muType (w : Nat) : Nat := bits w 0 4
def muFmt (w : Nat) : Nat := bits w 4 8
def muCb (w : Nat) : Nat := bits w 12 3
def muReader (w : Nat) : Bool := bitAt w 15
def muEp (w : Nat) : Option Nat := if bitAt w 24 then some (bits w 16 8) else none
def muAop (w : Nat) : Nat := bits w 25 4
def muRes (w : Nat) : Bool := bitAt w 29
def muWbase (w : Nat) : Nat := bits w 30 14
def muWsize (w : Nat) : Nat := bits w 44 15

/-- BASE, SIZE and EN of a buffer. -/
def cbBase (w : Nat) : Nat := bits w 0 14
def cbSize (w : Nat) : Nat := bits w 14 15
def cbEn (w : Nat) : Bool := bitAt w 29

/-- AFMT, BFMT, MACEN, EMIT, ROWS and CHAIN. -/
def mxA (w : Nat) : Nat := bits w 0 8
def mxB (w : Nat) : Nat := bits w 8 8
def mxMacen (w : Nat) : Nat := bits w 16 4
def mxEmit (w : Nat) : Nat := bits w 20 2
def mxRows (w : Nat) : Nat := bits w 22 5
def mxChain (w : Nat) : Bool := bitAt w 27

/-- The format in which elements are held: CB4 and CB8 are BF16 from their arrival on (R202, R203). -/
def held16 (f : Nat) : Nat := if f % 64 == 0x12 || f % 64 == 0x13 then 0x10 else f % 64

/-- N of a B format (R202). -/
def mxCols (w : Nat) : Nat := if fmtWidth (held16 (mxB w)) == 16 then 64 else 128

/-- The enabled macros. -/
def mxMacs (w : Nat) : List Nat := (List.range 4).filter fun m => bitAt (mxMacen w) m

/-- A and B K formats. -/
def mxKA (w : Nat) : Bool := fmtK (mxA w % 64)
def mxKB (w : Nat) : Bool := fmtK (mxB w % 64)
def mxK (w : Nat) : Bool := mxKA w || mxKB w

/-- −0.0. -/
def negZero : Nat := 0x80000000

/-- What the row buffer holds for an element of a poisoned lane. -/
def poisonCode : Nat := 0x10000

/-- EP and EPV, PAGEB, MODE, NLEV, XBOUND, COUNT − 1 and STRIDE of a generator. -/
def agEp (w : Nat) : Option Nat := if bitAt w 8 then some (bits w 0 8) else none
def agPageb (w : Nat) : Bool := bitAt w 9
def agMode (w : Nat) : Nat := bits w 10 2
def agNlev (w : Nat) : Nat := bits w 12 2 + 1
def agXbound (w : Nat) : Bool := bitAt w 14
def agCount (w k : Nat) : Nat := bits w (32 + 48 * k) 24 + 1
def agStride (w k : Nat) : Int := sInt 24 (bits w (56 + 48 * k) 24)

/-- Port identifiers of input and output ports (log 12): in0 to in3 and out0 to out3 of the CU; in0, w, k, in1 and out0, out1 of
the MX; in0, in1 and out of MU port `p`, and the reorder and corner-turn elements; the generators, XLAT and the LUT island. -/
def idMuIn0 (p : Nat) : Nat := 32 + 2 * p
def idMuIn1 (p : Nat) : Nat := 33 + 2 * p
def idMuOut (p : Nat) : Nat := 32 + p
def idReord : Nat := 40
def idCturn : Nat := 41
def idAgen (g : Nat) : Nat := 48 + g
def idXlat : Nat := 50
def idLuti : Nat := 51
def idMx (n : Nat) : Nat := 16 + n

/-! ## The LUT island's words (R100) -/

/-- Truth table, input selects and output selects (R100). -/
def Holder.lutTable (h : Holder) (c m : Nat) : Nat :=
  if m < 56 then bits (h.pay c 2 8 (m / 14)) (16 * (m % 14)) 16 else bits (h.pay c 2 8 4) (16 * (m - 56)) 16
def Holder.lutSel (h : Holder) (c m i : Nat) : Nat := bits (h.pay c 2 9 ((4 * m + i) / 22)) (10 * ((4 * m + i) % 22)) 10
def Holder.lutOut (h : Holder) (c l j : Nat) : Option Nat :=
  let s := bits (h.pay c 2 10 l) (7 * j) 7
  if bitAt s 6 then some (s % 64) else none

/-- An island with no valid output select is off (R198). -/
def Holder.lutiOn (h : Holder) (c : Nat) : Bool :=
  (List.range 2).any fun l => (List.range 32).any fun j => (h.lutOut c l j).isSome

/-! ## Endpoints -/

/-- The endpoint attached to a port of a cell, in or out (R228). -/
def Holder.epAt (h : Holder) (out : Bool) (c id : Nat) : Option Nat :=
  h.eps.findIdx? fun e => e.gr.out == out && e.gr.place == .port c (id / 16) (id % 16)

/-- A code-table entry at a decoding place of a cell (R374): stage number, 6 for in0, 7 for w. -/
def CellSt.table (c : CellSt) (place t i : Nat) : Nat := c.tables.getD (place * 64 + t * 16 + i) 0

/-- A TARGET 8 frame at a decoding place (R97, R374). -/
def CellSt.setTable (c : CellSt) (place : Nat) (f : Frame) : CellSt :=
  { c with tables := (List.range 8).foldl (fun t j =>
      Tbl.set t 0 (place * 64 + f.part / 2 * 16 + f.part % 2 * 8 + j) (bits f.pay.toNat (16 * j) 16)) c.tables }

end Sys2Proof.Machine
end

