-- ==== Sys2Proof/Machine/Layout.lean ====
section
/-! DEFINITION. The layout of a saved image (R157, R189, R199, R213, R394, R422, R423): what each section holds, and a cell's record read back. -/

namespace Sys2Proof.Machine

/-- `n` little-endian bytes of a number. -/
def leBytes (n v : Nat) : List Byte := (List.range n).map fun i => BitVec.ofNat 8 (v / 256 ^ i)

/-- A little-endian number of `n` bytes at an offset of a byte source. -/
def readLE (rd : Nat → Byte) (off n : Nat) : Nat := bytesLE ((List.range n).map fun i => rd (off + i))

/-! ## Tokens -/

/-- KIND of a token (R217). -/
def TokKind.code : TokKind → Nat
  | .data => 0 | .eos => 1 | .rmk => 2 | .dmk => 3 | .cfg => 4 | .flt => 5 | .arg => 6

/-- The kind that a code names (R217). -/
def kindOf (n : Nat) : TokKind :=
  match n with
  | 1 => .eos | 2 => .rmk | 3 => .dmk | 4 => .cfg | 5 => .flt | 6 => .arg | _ => .data

/-- The 547 bits of a token (R217). -/
def Token.bits547 (t : Token) : Nat := t.val.toNat + t.vld.toNat * 2 ^ 512 + t.psn.toNat * 2 ^ 528 + t.kind.code * 2 ^ 544

/-- The token that 547 bits are. -/
def tokenOf (v : Nat) : Token :=
  { kind := kindOf (bits v 544 3), psn := BitVec.ofNat 16 (bits v 528 16), vld := BitVec.ofNat 16 (bits v 512 16), val := BitVec.ofNat 512 v }

/-- TREE or LOUT in 69 bytes: bits 547:0 of R157 (R189, R199); `old` is what it holds while it is not FULL. -/
def tokRecord (t : Option Token) (old : Token) : List Byte := leBytes 69 (match t with | some t => t.bits547 + 2 ^ 547 | none => old.bits547)

/-- TREE or LOUT from its record. -/
def tokBack (v : Nat) : Option Token := if bitAt v 547 then some (tokenOf v) else none

/-! ## Pipeline registers -/

/-- PIPE[k] stands for an accumulation or a part-filled pack; a marker or a FLT that passes it may be FULL there (R176). -/
def Pipe.accumulates (p : Pipe) : Bool := p.opn && !p.ends

/-- The 553 bits of PIPE[k] (R157). -/
def Pipe.bits553 (p : Pipe) : Nat :=
  (if p.accumulates then p.acc else p.tok).bits547 + b2n p.full * 2 ^ 547 + b2n p.opn * 2 ^ 548 +
  (if p.accumulates then p.packT else p.rest.length) % 16 * 2 ^ 549

/-- The in-flight list of PIPE[k]: tokens to be emitted behind the held one that are no copies of it, which are the results of an UNPACK
(R194, R421), and a marker or a FLT that passes an open accumulation or pack, whose VAL the register has no place for (R176; DESIGN
CHOICE, log 8). -/
def Pipe.inFlight (p : Pipe) : List Token :=
  if p.accumulates then (if p.full then [p.tok] else []) else if p.rest.all fun t => t == p.tok then [] else p.rest

/-- PIPE[k] in 70 bytes, and its in-flight list: a count, and 69 bytes a token (log 8). -/
def Pipe.record (p : Pipe) : List Byte :=
  leBytes 70 p.bits553 ++ leBytes 1 p.inFlight.length ++ p.inFlight.flatMap fun t => leBytes 69 t.bits547

/-- PIPE[k] from its record at an offset, and the offset behind it. -/
def Pipe.back (rd : Nat → Byte) (off : Nat) (p : Pipe) : Pipe × Nat :=
  let v := readLE rd off 70
  let n := (rd (off + 70)).toNat
  let t := tokenOf v
  let full := bitAt v 547
  let opn := bitAt v 548
  let acc := opn && (!full || n != 0)
  let l := (List.range n).map fun i => tokenOf (readLE rd (off + 71 + 69 * i) 69)
  ({ p with
      tok := if acc then l.getD 0 p.tok else t, full := full, opn := opn, acc := if opn then t else {}, ends := opn && !acc
      packT := if acc then bits v 549 4 else 0
      rest := if acc then [] else if n == 0 then List.replicate (bits v 549 4) t else l },
   off + 71 + 69 * n)

/-! ## The matrix tile (R213) -/

/-- Bits of the row buffer in use, RBF. -/
def mxRbf (w : Nat) (x : Mx) : Nat := x.rbuf.length * fmtWidth (held16 (mxA w))

/-- MXST. A poisoned element in the row buffer stands in TPSN, since RBUF has no place for it (log 12). -/
def mxst (w : Nat) (x : Mx) : Nat :=
  x.loaded.toNat * 2 ^ 60 + x.mpsn.toNat * 2 ^ 56 + b2n (x.tpsn || x.rbuf.contains (some poisonCode)) * 2 ^ 55 + b2n x.wdone * 2 ^ 54 +
  x.first * 2 ^ 52 + x.nact * 2 ^ 50 + x.ldstart * 2 ^ 48 + x.ldm * 2 ^ 46 + x.ldp * 2 ^ 38 + x.rc * 2 ^ 32 +
  mxRbf w x % 2 ^ 14 * 2 ^ 18 + x.kpos % 512 * 2 ^ 9

/-- Elements packed from bit 0 up, `wd` bits each. -/
def packElems (wd : Nat) (l : List Nat) : Nat := (l.zipIdx.map fun (v, i) => v % 2 ^ wd * 2 ^ (wd * i)).sum

/-- A macro's B in 16 KiB, in the order of its load; of a 16-bit format the plane of low bytes first (R202, log 8). -/
def mxBRecord (w : Nat) (b : Tbl Nat) : List Byte :=
  let wd := fmtWidth (held16 (mxB w))
  let l := (List.range (128 * mxCols w)).map fun j => b.getD j 0
  leBytes 16384 (if wd == 16 then packElems 8 (l.map (· % 256)) + packElems 8 (l.map (· / 256)) * 2 ^ 65536 else packElems wd l)

/-- The matrix tile's items, in the order of R213. -/
def mxRecord (w : Nat) (x : Mx) : List Byte :=
  let sums (t : Tbl Nat) : List Byte := leBytes 16384 (packElems 32 ((List.range 4096).map fun i => t.getD i negZero))
  leBytes 8 (mxst w x) ++ leBytes 1024 (packElems (fmtWidth (held16 (mxA w))) (x.rbuf.map fun e => e.getD 0 % poisonCode)) ++
  leBytes 69 (x.ktok.getD {}).bits547 ++ sums x.acc ++ (if mxK w then sums x.acck else []) ++
  (mxMacs w).flatMap fun m => mxBRecord w (x.b.getD m []) ++
    (if mxKB w then leBytes 128 (packElems 8 ((List.range 128).map fun c => (x.bk.getD m []).getD c 0)) else [])

/-- Bytes of the tile's items. -/
def mxSize (w : Nat) : Nat :=
  8 + 1024 + 69 + 16384 + (if mxK w then 16384 else 0) + (mxMacs w).length * (16384 + if mxKB w then 128 else 0)

/-- A table from a list, leaving out the value that an absent entry reads as. -/
def tblOf (d : Nat) (l : List Nat) : Tbl Nat := l.zipIdx.foldl (fun t (v, i) => Tbl.set t d i v) []

/-- The matrix tile from its items. What R213 gives no place (an invalid element in the row buffer, and the model's own records) stays
as it was kept. -/
def mxFrom (w : Nat) (rd : Nat → Byte) (off : Nat) (x : Mx) : Mx :=
  let st := readLE rd off 8
  let wa := fmtWidth (held16 (mxA w))
  let wb := fmtWidth (held16 (mxB w))
  let rb := readLE rd (off + 8) 1024
  let sums (o : Nat) : Tbl Nat := tblOf negZero ((List.range 4096).map fun i => readLE rd (o + 4 * i) 4)
  let o1 := off + 8 + 1024 + 69
  let o2 := o1 + 16384
  let o3 := o2 + if mxK w then 16384 else 0
  let size := 16384 + if mxKB w then 128 else 0
  let at_ (m : Nat) : Option Nat := (indexOf (mxMacs w) fun k => k == m).map fun i => o3 + size * i
  let elem (o j : Nat) : Nat :=
    if wb == 16 then (rd (o + j)).toNat + (rd (o + 8192 + j)).toNat * 256 else bits (rd (o + j * wb / 8)).toNat (j * wb % 8) wb
  { x with
    loaded := BitVec.ofNat 4 (bits st 60 4), mpsn := BitVec.ofNat 4 (bits st 56 4), tpsn := bitAt st 55, wdone := bitAt st 54
    first := bits st 52 2, nact := bits st 50 2, ldstart := bits st 48 2, ldm := bits st 46 2, ldp := bits st 38 8, rc := bits st 32 5
    kpos := x.kpos / 512 * 512 + bits st 9 9
    rbuf := x.rbuf.zipIdx.map fun (e, i) => e.map fun v => if v == poisonCode then v else bits rb (wa * i) wa
    ktok := x.ktok.map fun _ => tokenOf (readLE rd (off + 8 + 1024) 69)
    acc := sums o1
    acck := if mxK w then sums o2 else x.acck
    b := x.b.zipIdx.map fun (t, m) => match at_ m with
      | some o => tblOf 0 ((List.range (128 * mxCols w)).map (elem o))
      | none => t
    bk := x.bk.zipIdx.map fun (t, m) => match at_ m with
      | some o => if mxKB w then tblOf 0 ((List.range 128).map fun c => (rd (o + 16384 + c)).toNat) else t
      | none => t }

/-! ## A cell's record (R423) -/

/-- Fields of an image whose packing the manual leaves open, as width in bits and value, in the order of R423 and of the tables that it
names. -/
abbrev Fields := List (Nat × Nat)

/-- The bytes of the fields of section `t`, or for 2 of the rest of a cell's record (log 8). -/
def packed (t : Nat) (l : Fields) : List Byte := (List.range (Config.packLength t (l.map (·.1)))).map (Config.packByte t l)

/-- A token as a field (R217). -/
def Token.fields (t : Token) : Fields := [(547, t.bits547)]

/-- A list with its occupancy of `n` bits. -/
def listFields {α : Type} (n : Nat) (l : List α) (f : α → Fields) : Fields := (n, l.length) :: l.flatMap f

/-- Numbers of one width. -/
def numFields {α : Type} (n : Nat) (l : List α) (f : α → Nat) : Fields := l.map fun x => (n, f x)

/-- A link: its tokens, occupancy and LDIFF (R218, R412). -/
def LinkSt.fields (l : LinkSt) : Fields := listFields 4 l.q Token.fields ++ [(5, (l.ldiff % 32).toNat)]

/-- An MU port: its request queue, and the tokens of its reorder buffer with head and tail (R240). -/
def MuPort.fields (p : MuPort) : Fields :=
  listFields 3 p.reqs (fun r => r.1.fields ++ r.2.fields) ++ p.rob.flatMap (fun r => (r.res.getD {}).fields) ++
  [(4, (p.tail + 16 - p.rob.length % 16) % 16), (4, p.tail % 16)]

/-- A circular buffer of `n` slots, with KIND, PSN and VLD of each (R241). -/
def CBuf.fields (b : CBuf) (n : Nat) : Fields :=
  [(14, b.wptr), (14, b.rptr), (15, b.fill), (15, n - b.fill)] ++
  numFields 35 (List.range n) fun i =>
    let (k, p, v) := b.side.getD i (.data, 0, 0)
    v.toNat + p.toNat * 2 ^ 16 + k.code * 2 ^ 32

/-- A reorder or corner-turn element: its tokens with arrived bits, its positions of `w` bits, and its held tokens (R245). -/
def BlockSt.fields (b : BlockSt) (n w : Nat) : Fields :=
  (List.range n).flatMap (fun i => match b.toks.find? fun e => e.1 % n == i with
    | some e => (1, 1) :: e.2.fields
    | none => (1, 0) :: ({} : Token).fields) ++
  [(w, b.inPos % 2 ^ w), (w, b.outPos % 2 ^ w)] ++ listFields 3 b.held fun e => e.2.fields

/-- A tag-table entry (R371). -/
def TagEnt.fields (e : TagEnt) : Fields := [(1, b2n e.valid), (1, b2n e.pin), (48, e.key.toNat), (16, e.last.toNat)]

/-- An address generator (R395). -/
def AgenSt.fields (g : AgenSt) : Fields := numFields 24 (List.range 4) (fun k => g.idx.getD k 0) ++ [(34, g.n), (32, g.gran.getD 0), (1, b2n g.done)]

/-- What a cell's record holds behind LOUT, in the order of R423: the links of the switches in route-entry order with LDIFF, the MU ports,
the circular buffers, the reorder and corner-turn elements, the tag table, the code tables, the address generators, the output registers
and the ratio checks. -/
def Holder.restFields (h : Holder) (c : Nat) : Fields :=
  let x := h.cell c
  x.links.flatMap (fun l => l.2.fields) ++ x.ports.flatMap MuPort.fields ++ x.cbs.zipIdx.flatMap (fun (b, n) => b.fields (cbSize (h.cbWord c n))) ++
  x.reord.fields 64 7 ++ x.cturn.fields 32 5 ++ (List.range 256).flatMap (fun i => (x.tags.getD i {}).fields) ++ [(16, x.hits.toNat)] ++
  numFields 16 (List.range 512) (fun i => x.tables.getD i 0) ++ x.agens.flatMap AgenSt.fields ++
  x.outs.flatMap (fun o => (1, b2n o.2.tok.isSome) :: (o.2.tok.getD {}).fields) ++ numFields 24 x.diffs fun d => (d.2 % 2 ^ 24).toNat

/-- A channel port: STATE, PEER, OCC and its words with their poison bits (R223). -/
def Port.fields (p : Port) : Fields :=
  let st := match p.st with | .free => 0 | .child => 1 | .parent => 2 | .recv => 3 | .closed => 4
  [(3, st), (32, p.peer)] ++ listFields 5 p.q fun w => [(65, w.1.toNat + b2n w.2 * 2 ^ 64)]

/-- A BCOPY handle with its copy (R259). -/
def Copy.fields (x : Copy) : Fields :=
  let (k, a) := match x.st with | .free => (0, 0) | .busy => (1, 0) | .failed a => (2, a)
  [(2, k), (64, a), (64, x.dst.toNat), (64, x.src.toNat), (33, x.len), (33, x.pos)]

/-- THREAD: both register files, LQ, SQ, BQE, BQA, the two program counters, the wake latch and the special registers (R117), PSEQ, the
channel ports and the BCOPY handles (R423). -/
def Holder.threadFields (h : Holder) : Fields :=
  let t := h.th
  let r := t.sys
  let out (l : List (Bool × BitVec 12)) : Fields := listFields 4 l fun x => [(13, b2n x.1 * 2 ^ 12 + x.2.toNat)]
  numFields 64 t.regs.a.toList BitVec.toNat ++ numFields 64 t.regs.s.toList BitVec.toNat ++
  listFields 5 t.lq (fun v => [(64, v.toNat)]) ++ listFields 5 t.sq (fun v => [(64, v.toNat)]) ++ out t.bqe ++ out t.bqa ++
  [(12, t.pcA), (12, t.pcE), (1, b2n r.wake), (32, h.id.inst), (32, h.id.gang), (6, h.id.mem), (32, h.id.parent), (64, h.id.mode.toNat)] ++
  numFields 64 [r.tvec, r.epc, r.ecause, r.eaddr, r.repst, r.pepoch, r.sstat] BitVec.toNat ++ [(64, h.id.pseq)] ++
  h.ports.flatMap Port.fields ++ t.copies.flatMap Copy.fields

/-- MESSAGES: the posted-receive list, the overflow queue and OVFL (R247). -/
def Holder.messageFields (h : Holder) : Fields :=
  listFields 6 h.recvs (fun r => [(32, r.src.toNat), (16, r.tag.toNat), (16, r.mask.toNat), (4, r.port), (4, r.max)]) ++
  listFields 7 h.oflow (fun m => [(32, m.src), (11, m.pkg), (1, b2n m.remote), (16, m.tag.toNat), (4, m.words.length)] ++ numFields 64 m.words BitVec.toNat) ++
  [(1, b2n h.ovfl)]

/-- An endpoint: its binding with class and rate, its counters, its queued SCFG frames and its retained tokens (R229, R416). -/
def Ep.fields (e : Ep) : Fields :=
  (match e.bind with
    | none => [(1, 0)]
    | some b => [(1, 1), (1, b2n b.g), (64, b.rate), (64, b.base), (64, b.extent)] ++ (match b.host with | some a => [(1, 1), (64, a)] | none => [(1, 0)])) ++
  [(41, e.issued), (10, e.inrnd), (32, e.round), (32, e.acked), (11, e.held.length), (41, e.written), (32, e.srnd)] ++
  listFields 16 (e.cfgNow ++ e.scfg) (fun f => [(64, f.1), (16, f.2)]) ++ e.held.flatMap fun t => (32, t.1) :: t.2.fields

/-- The fields of sections 3 to 7 (R423). -/
def Holder.fieldsOf (h : Holder) (t : Nat) : Fields :=
  match t with
  | 3 => h.threadFields
  | 4 => h.messageFields
  | 5 => h.eps.flatMap Ep.fields
  | 6 => listFields 5 h.regions fun r => [(32, r.1), (21, r.2)]
  | _ => listFields 5 (h.ports.zipIdx.filter fun (p, _) => p.st == .child) fun (p, i) => [(4, i), (32, p.peer)]

/-- A cell's record without its size: PIPE[0] to PIPE[5], TREE, the loop counters, the MX items, LOUT, and the rest, whose packing the
manual leaves open (log 8). -/
def Holder.cellBody (h : Holder) (c : Nat) : List Byte :=
  let x := h.cell c
  x.pipes.flatMap Pipe.record ++ tokRecord x.tree x.treeOld ++ (x.loops.flatMap fun l => leBytes 4 l.n.toNat ++ leBytes 4 l.p.toNat) ++
  mxRecord (h.mxWord c) x.mx ++ tokRecord x.lout.tok x.loutOld ++ packed 2 (h.restFields c)

/-- A cell's record; its size counts the size field too (log 8). -/
def Holder.cellRecord (h : Holder) (c : Nat) : List Byte :=
  let l := h.cellBody c
  leBytes 4 (4 + l.length) ++ l

/-- A cell put back from its record at an offset. -/
def Holder.cellBack (h : Holder) (rd : Nat → Byte) (off c : Nat) : CellSt :=
  let x := h.cell c
  let (ps, o) := x.pipes.foldl (fun (acc : List Pipe × Nat) p =>
    let (q, o) := p.back rd acc.2
    (acc.1 ++ [q], o)) ([], off + 4)
  let loops := x.loops.zipIdx.map fun (_, i) =>
    ({ n := BitVec.ofNat 32 (readLE rd (o + 69 + 8 * i) 4), p := BitVec.ofNat 32 (readLE rd (o + 73 + 8 * i) 4) } : Loop)
  let om := o + 69 + 8 * x.loops.length
  let w := h.mxWord c
  { x with
    pipes := ps, tree := tokBack (readLE rd o 69), treeOld := tokenOf (readLE rd o 69), loops := loops, mx := mxFrom w rd om x.mx
    lout := { x.lout with tok := tokBack (readLE rd (om + mxSize w) 69) }
    loutOld := tokenOf (readLE rd (om + mxSize w) 69) }

/-- Every cell put back from the records that follow one another from an offset. -/
def Holder.cellsBack (h : Holder) (rd : Nat → Byte) (off : Nat) : List CellSt :=
  ((List.range h.dp.cells.length).foldl (fun (acc : List CellSt × Nat) c =>
    (acc.1 ++ [h.cellBack rd acc.2 c], acc.2 + readLE rd acc.2 4)) ([], off)).1

/-! ## Sections (R422, R423) -/

/-- A frame as 256 bits (R91). -/
def frameNum (f : Frame) : Nat :=
  f.pay.toNat + f.part * 2 ^ 236 + f.target * 2 ^ 240 + f.row * 2 ^ 245 + f.col * 2 ^ 249 + f.kind * 2 ^ 254

/-- CONFIG: the frames in force, LAST in the last one, and the code words padded to 32 bytes (R91, R103). -/
def Holder.configBytes (h : Holder) : List Byte :=
  let fs := h.dp.cfg
  let code := h.th.code
  (fs.zipIdx.flatMap fun (f, i) => leBytes 32 (frameNum f + b2n (i + 1 == fs.length) * 2 ^ 235)) ++
  (code.flatMap fun w => leBytes 4 w.toNat) ++ List.replicate (ceilDiv code.length 8 * 32 - 4 * code.length) 0xFF

/-- A section: its TYPE and its bytes. -/
structure Section where
  type : Nat
  size : Nat
  byte : Nat → Byte

/-- A section of listed bytes. -/
def sectionOf (type : Nat) (l : List Byte) : Section := ⟨type, l.length, fun i => l.getD i 0⟩

/-- The sections of a holder's racked image, in the order of TYPE (log 8). -/
def Holder.sections (h : Holder) (m : Mem) : List Section :=
  [sectionOf 1 h.configBytes, sectionOf 2 ((List.range h.id.ncells).flatMap fun c => h.cellRecord c)] ++
  ([3, 4, 5, 6, 7].map fun t => sectionOf t (packed t (h.fieldsOf t))) ++
  [⟨8, h.id.ncells * 2 ^ 20, fun i => memGet m.scratch (scratchKey h.id.die (h.id.cellAt (i / 2 ^ 20)) (i % 2 ^ 20))⟩]

/-- Each section with its offset in the image. -/
def placed (l : List Section) : List (Section × Nat) :=
  (l.foldl (fun (acc : List (Section × Nat) × Nat) x => (acc.1 ++ [(x, acc.2)], acc.2 + x.size)) ([], 256)).1

/-- The ten directory entries, as offset, size and value of their fields (R422). -/
def directory (l : List Section) : List (Nat × Nat × Nat) :=
  ((placed l).zipIdx.flatMap fun ((x, o), i) => [(96 + 16 * i, 4, x.type), (100 + 16 * i, 4, o), (104 + 16 * i, 8, x.size)]) ++
  (List.range (10 - l.length)).map fun i => (96 + 16 * (l.length + i), 16, 0)

end Sys2Proof.Machine
end

