-- ==== Sys2Proof/Machine/Recover.lean ====
section
/-! DEFINITION. Releasing, cancelling, killing and racking holders (R22, R341, R342, R349, R351, R424, R430, R431), and the persist epochs of agents (R324 to R326). -/

namespace Sys2Proof.Machine

/-! ## Recovery entries -/

/-- The storage address of recovery entry `e` of a die (R326). -/
def recovAddr (d e : Nat) : Nat := recoveryPage d + 32 * e

/-- Write bytes of a recovery page, in the persist domain (R323). -/
def recovSet (s : State) (pa n v : Nat) : State := s.modMem fun m => { m with bytes := memSetN m.bytes pa n v }

/-- The entry a first durable store takes on a die (R326): a free one, or else the ended one with the smallest ASEQ. -/
def recovPick (s : State) (d : Nat) : Option Nat :=
  let flags (e : Nat) : Nat := memGetN s.mem.bytes (recovAddr d e + 6) 1
  match ((List.range 2048).drop 64).find? fun e => !bitAt (flags e) 0 with
  | some e => some e
  | none =>
    ((List.range 2048).drop 64).foldl (fun best e =>
      if bitAt (flags e) 1 then
        match best with
        | some b => if memGetN s.mem.bytes (recovAddr d e + 16) 8 < memGetN s.mem.bytes (recovAddr d b + 16) 8 then some e else best
        | none => some e
      else best) none

/-- A durable store: to a Cellar page or to a chain of KIND 1 (R323). -/
def Pending.durable (s : State) (x : Pending) : Bool :=
  match x.ch with
  | none => true
  | some ch => (s.chain ch).cellar

/-- The durable stores of an agent not yet durable. -/
def durablePending (s : State) (a : Agent) : List Pending := s.pendings.filter fun x => x.agent == a && x.durable s

/-- DONE of an agent as R325 advances it: the least epoch of a store not yet durable, or PEPOCH. -/
def doneOf (s : State) (inst pepoch : Nat) : Nat :=
  (durablePending s (.holder inst)).foldl (fun m x => min m x.epoch) pepoch

/-- Record DONE, and END once an ended agent has no store left (R325, R326). -/
def recovUpdate (s : State) (inst : Nat) : State :=
  match s.pkg.recov.find inst with
  | none => s
  | some r =>
    let a := recovAddr r.die r.entry
    match r.ended with
    | some p =>
      if (durablePending s (.holder inst)).isEmpty then
        let s := recovSet (recovSet s (a + 6) 1 3) (a + 8) 8 (p + 1)
        s.modPkg fun k => { k with recov := k.recov.del inst }
      else recovSet s (a + 8) 8 (doneOf s inst p)
    | none => match s.h? inst with
      | some h => recovSet s (a + 8) 8 (doneOf s inst h.th.sys.pepoch.toNat)
      | none => s

/-- Give an agent its recovery entry on its home die at its first durable store (R325, R326), with DONE 0, which then advances to
its PEPOCH, as no earlier store is left; none while every entry is in use. -/
def recovAlloc (s : State) (inst pid d : Nat) : Option State :=
  match s.pkg.recov.find inst with
  | some _ => some s
  | none => match recovPick s d with
    | none => none
    | some e =>
      let a := recovAddr d e
      let q := (s.die d).m.aseq
      let s := recovSet (recovSet (recovSet (recovSet (recovSet (recovSet s a 4 inst) (a + 4) 2 pid) (a + 6) 2 1) (a + 8) 8 0)
        (a + 16) 8 q) (a + 24) 8 0
      let s := s.modM d fun m => { m with aseq := q + 1 }
      some (recovUpdate (s.modPkg fun p => { p with recov := p.recov.put inst { die := d, entry := e, ended := none } }) inst)

/-- The recorded DONE of an agent (R325). -/
def recovDone (s : State) (inst : Nat) : Nat :=
  match s.pkg.recov.find inst with
  | some r => memGetN s.mem.bytes (recovAddr r.die r.entry + 8) 8
  | none => 0

/-- The agent of a holder ends (R326). -/
def recovEnd (s : State) (h : Holder) : State :=
  let s := s.modPkg fun k => { k with recov := k.recov.modify h.id.inst fun r => { r with ended := some h.th.sys.pepoch.toNat } }
  recovUpdate s h.id.inst

/-! ## Release of what a holder holds -/

/-- The granules that the bitmap of an arena of `nb` blocks touches. -/
def bitmapGranules (bm nb : Nat) : List Nat :=
  (List.range ((bm + (nb + 7) / 8 - 1) / 65536 - bm / 65536 + 1)).map fun k => bm / 65536 + k

/-- The arena descriptor of a process (R369): ABASE, NBLK, BMAP; none when it is malformed, or it or the bitmap is not in writable local
or interleaved HBM. -/
def arena (s : State) (pid : Nat) : Option (Nat × Nat × Nat) := do
  let ab ← word64 s pid 0xFFFFFFFF2000
  let nb ← word64 s pid 0xFFFFFFFF2008
  let bm ← word64 s pid 0xFFFFFFFF2010
  guard (ab % 2 ^ 16 == 0 && ab < 2 ^ 48 && 1 ≤ nb && nb ≤ 2 ^ 20 && bm % 64 == 0)
  guard ([24, 32, 40, 48, 56].all fun o => word64 s pid (0xFFFFFFFF2000 + o) == some 0)
  guard (bitmapGranules bm nb |>.all fun g => hbmMay s pid (65536 * g))
  some (ab, nb, bm)

/-- Set or clear `n` bits of a bitmap from bit `i` (R370). -/
def bitmapSet (s : State) (pid bm : Nat) (v : Bool) (i : Nat) : Nat → State
  | 0 => s
  | n + 1 =>
    let s := match readVa s pid 0 (bm + i / 8) 1 with
      | some b =>
        let b' := if v then b ||| 2 ^ (i % 8) else b &&& (255 - 2 ^ (i % 8))
        (writeVa s pid (bm + i / 8) 1 b').getD s
      | none => s
    bitmapSet s pid bm v (i + 1) n

/-- Free one instance-scoped region (R370). -/
def freeRegion (s : State) (pid : Nat) (r : Nat × Nat) : State :=
  match arena s pid with
  | some (ab, _, bm) => bitmapSet s pid bm false (r.1 - ab / 2 ^ 16) r.2
  | none => s

/-- The regions that a holder holds are released, or wait until every access of it that precedes is accepted (R370). -/
def releaseRegions (s : State) (h : Holder) : State :=
  if writesAccepted s h then h.regions.foldl (fun s r => freeRegion s h.id.pid r) s
  else s.modPkg fun p => { p with freeing := p.freeing ++ h.regions.map fun r => ⟨h.id.inst, h.id.pid, r⟩ }

/-- Regions of ended holders whose accesses have all been accepted become free (R370). -/
def settleRegions (s : State) : State :=
  let ready (x : Freeing) : Bool := (writesOpen s (.holder x.inst)).isEmpty
  (s.pkg.freeing.filter ready).foldl (fun s x => freeRegion s x.pid x.region)
    (s.modPkg fun p => { p with freeing := p.freeing.filter fun x => !ready x })

/-- Release the G charges of a binding (R404). -/
def releaseCharges (s : State) (cs : List (Nat × Nat)) : State :=
  s.modPkg fun p => { p with res := cs.foldl (fun t c => Tbl.set t 0 c.1 (t.getD c.1 0 - c.2)) p.res }

/-- Release every G charge of a holder (R404). -/
def releaseAllCharges (s : State) (h : Holder) : State :=
  let s := h.eps.foldl (fun s e => match e.bind with | some b => releaseCharges s b.charges | none => s) s
  s.modH h.id.inst fun h => { h with eps := h.eps.map fun e => { e with bind := e.bind.map fun b => { b with charges := [] } } }

/-- Return frames to ring 0 (R366, R424); a frame that cannot be returned is posted with INFO 8. -/
def returnFrames (s : State) (h : HolderId) (fs : List Nat) : State :=
  fs.foldl (fun s f => match poolReturn s h.pid 0 f with
    | (true, s) => s
    | (false, s) => postFault s h.pid (h.record cXFAULT 8 f 0)) s

/-- Misses, or walks that have ended for them, without a holder's. -/
def dropMiss (inst : Nat) (l : List (Nat × Nat × Nat × Nat)) : List (Nat × Nat × Nat × Nat) :=
  l.filter fun q => q.2.2.2 == missQueue || q.2.2.1 != inst

/-- The walks of a die without a holder's misses; a walk that nobody waits for is still under way. -/
def dropWaiter (inst : Nat) (ws : List Walk) : List Walk := ws.map fun w => { w with who := w.who.filter fun q => q.2 == missQueue || q.1 != inst }

/-- Drop what the package keeps for a holder outside its record: withheld accesses, walks, placement requests and reads in
flight. A queue whose head goes counts the passes of its next head anew (R343). -/
def dropRefs (s : State) (inst : Nat) : State :=
  let s := s.modPkg fun p => { p with withheld := p.withheld.filter fun x => x.who != .holder inst }
  let s : State := { s with unf := s.unf.filter fun x => x.inst != inst }
  let mine : PlaceReq → Bool := fun r => match r with
    | .call i | .image i => i == inst
    | .task _ _ _ _ => false
  { s with dies := s.dies.map fun d => { d with
      m := { d.m with walks := dropWaiter inst d.m.walks
                      misses := dropMiss inst d.m.misses
                      walked := dropMiss inst d.m.walked
                      combs := (d.m.combs.map fun c => { c with reqs := c.reqs.filter fun r => r.1 != inst }).filter fun c => !c.reqs.isEmpty }
      p := { d.p with
        queue := d.p.queue.filter fun r => !mine r
        passed := if d.p.queue.head?.any mine then 0 else d.p.passed
        headBlock := d.p.headBlock && !d.p.queue.head?.any mine } } }

/-- Set SSTAT.WAKE (R153). -/
def wakeUp (s : State) (inst : Nat) : State := s.modThOf inst fun t => { t with sys := { t.sys with wake := true } }

/-- Change a channel port. -/
def State.modPort (s : State) (inst p : Nat) (f : Port → Port) : State :=
  s.modH inst fun h => { h with ports := listMod h.ports p f }

/-- Append a word to a port's inbound queue; it sets WAKE (R223, R225). -/
def portPush (s : State) (inst p : Nat) (w : W64) (psn : Bool) : State :=
  wakeUp (s.modPort inst p fun x => { x with q := x.q ++ [(w, psn)] }) inst

/-- Ports that a WAITC operand names. -/
def waitcPorts (a : Nat) : List Nat := if bitAt a 8 then List.range 16 else [bits a 0 4]

/-- A thread waits at QPOP, also as a repeat (R226), RECVW, WAITC or SLEEP. -/
def Holder.waitsNow (h : Holder) : Bool :=
  match decodeWord (h.th.seqWord (h.th.pc + h.th.pfx.len)) with
  | .ok (.qpop _ _ p) => let x := h.port p.val
                         x.q.isEmpty && (x.st == .child || x.st == .parent || x.st == .recv)
  | .ok (.recvw _ _) => match h.th.wait with | .recvw q _ => (h.port q).st == .recv | _ => false
  | .ok (.waitc f) => (waitcPorts (h.th.a f.a).toNat).any fun p => (h.port p).st == .child
  | .ok .sleep => h.th.asleep && !h.th.sys.wake
  | _ => false

/-- The event that a racked instance waited for has occurred in its image (R343): the match of its RECVW, which the saved thread has
passed (R252), or what ends the wait of the instruction that it stands at. -/
def Holder.eventCame (h : Holder) : Bool :=
  match h.saved.recvw with
  | some p => (h.port p).st != .recv
  | none => !h.waitsNow

/-- A racked holder that waited becomes ready when the word, match, copy's end or wake that it waited for reaches it (R343): it joins its
die's placement queue. -/
def readyIfRacked (s : State) (inst : Nat) : State :=
  match s.h? inst with
  | some h => if h.id.life == .racked && h.eventCame then
      (s.modH inst fun h => { h with id := { h.id with life := .ready } }).modP h.id.die fun p => { p with queue := p.queue ++ [.image inst] }
    else s
  | none => s

/-- The word of a place has changed: a queue's outstanding WAIT on it is tested again (R275), and one that it satisfies completes. -/
def waitHits (s : State) (p : Place) : State :=
  let w := s.physN p.addr 8
  let hits (q : Queue) (x : WaitSt) : Bool :=
    condHolds x.cond (BitVec.ofNat 64 w) x.value && hbmAt s q.pid x.addr false == some p.addr
  if p.kind != 1 && p.kind != 2 then s
  else { s with dies := s.dies.map fun (d : Die) => { d with q := { d.q with queues := d.q.queues.map fun e =>
    (e.1, { e.2 with wait := e.2.wait.map fun x => if hits e.2 x then { x with hit := true } else x }) } } }

/-- The signal word of a place has changed: threads whose last SIGWAIT named it wake (R153). -/
def wakeOn (s : State) (p : Place) : State :=
  let s := waitHits s { p with addr := p.addr / 8 * 8 }
  (s.hold.filter fun e => e.2.th.wakeSig == some ({ p with addr := p.addr / 8 * 8 } : Place).key).foldl
    (fun s e => readyIfRacked (wakeUp s e.1) e.1) s

/-- Wake the threads that wait for a word of a line which atomics have changed since `old` (R153, R391). -/
def wakeChanged (old s : State) (p : Place) : State :=
  match old.lineAt 0 p, s.lineAt 0 p with
  | some (a, _), some (b, _) => (List.range 8).foldl (fun s i =>
      if bits a.toNat (64 * i) 64 == bits b.toNat (64 * i) 64 then s else wakeOn s { p with addr := p.addr / 64 * 64 + 8 * i }) s
  | _, _ => s

/-- A CALL that waits for a callee completes with a result, also in a saved image (R342, R347). -/
def completeCall (s : State) (caller callee : Nat) (v : W64) : State :=
  match s.h? caller with
  | none => s
  | some c => match c.th.wait with
    | .call d _ k =>
      if k == callee then s.modThOf caller fun t =>
        { t.pass (t.pc + 1) with
                 wait := .none, pfx := {}
                 regs := { t.regs with a := if d = 0 then t.regs.a else t.regs.a.setIfInBounds d v } }
      else s
    | _ => s

/-- Close the link of a callee to its caller: the caller's port becomes CLOSED and its PEER none, and `empty` when the callee was cancelled (R224, R350). A
callee that was still loading or queued ends its CALL with status 6, cause 8 (R108, R347). -/
def closeLink (s : State) (h : Holder) (empty : Bool) : State :=
  match s.h? h.id.parent with
  | some c =>
    let p := c.ports.getD h.id.callerPort {}
    if p.st == .child && p.peer == h.id.inst then
      readyIfRacked (s.modPort h.id.parent h.id.callerPort fun x => { x with st := .closed, peer := 0, q := if empty then [] else x.q }) h.id.parent
    else completeCall s h.id.parent h.id.inst 0x806
  | none => s

/-- The holders frozen with the caller of a folded callee: a gang member's whole gang (R418). -/
def foldGroup (s : State) (c : Holder) : List Holder :=
  if c.id.kind == .member then
    match s.pkg.gangs.find c.id.gang with
    | some g => g.members.filterMap fun m => s.h? m
    | none => [c]
  else [c]

/-! ## Save areas of a fold (R341) -/

/-- An MU atomic port is configured (R98, R429). -/
def Holder.hasMuat (h : Holder) : Bool :=
  h.dp.cfg.any fun f => f.kind == 1 && f.target < 4 && f.part == 0 && bits f.pay.toNat 0 4 == 4

/-- The region is replayable in its current phase (R429). Outside a phase nothing is retained, and it is not. -/
def Holder.replayable (h : Holder) : Bool :=
  h.th.sys.run && modeBit h.id.mode 8 && modeAudit h.id.mode != 0 && !h.hasMuat && !h.dp.openStart &&
  !(h.ev.ropen && h.eps.any fun e => 1 ≤ e.acked)

/-- The header fields of an image (R422): offset, size and value. One that is racked or parked takes frames and carries SCRATCH. -/
def headerFields (h : Holder) (kind size frames : Nat) : List (Nat × Nat × Nat) :=
  [(0, 4, 0x4D49465A), (4, 2, 1), (6, 1, kind), (7, 1, h.id.cls), (8, 1, h.id.w), (9, 1, h.id.h), (10, 1, h.id.die),
   (11, 1, b2n (frames != 0) + 2 * b2n (h.th.sys.run && !h.replayable)),
   (12, 4, h.id.inst), (16, 2, h.id.pid), (18, 1, h.id.mem), (19, 1, h.id.dieMask), (20, 4, h.id.gang),
   (24, 4, bits h.id.mode.toNat 0 22), (28, 4, 0), (32, 48, h.fn.digest.toNat), (80, 8, size), (88, 4, frames), (92, 4, 0)]

/-- The header and directory of a fold save (R422): KIND 2, not racked, with the sections that R341 saves, CELLS to CALLS. -/
def Holder.foldHeader (h : Holder) : List Byte :=
  let l := (h.sections {}).filter fun x => 2 ≤ x.type && x.type ≤ 7
  (headerFields h 2 (256 + (l.map Section.size).sum) 0 ++ directory l).flatMap fun (_, n, v) => leBytes n v

/-- A cell's share of a fold save: its record, and at the origin THREAD, MESSAGES, ENDPOINTS, REGIONS and CALLS behind it (R423), and the
header with its directory behind them, for which R341 names no place (DESIGN CHOICE, log 8). -/
def Holder.share (h : Holder) (c : Nat) : List Byte :=
  h.cellRecord c ++ (if c == 0 then ([3, 4, 5, 6, 7].flatMap fun t => packed t (h.fieldsOf t)) ++ h.foldHeader else [])

/-- Bytes at the start of a save area that the list of frames takes: 4 KiB at the origin, when some share does not fit. -/
def foldHead (listed : Bool) (c : Nat) : Nat := if listed && c == 0 then 4096 else 0

/-- Bytes of a share that its save area takes. -/
def foldRoom (listed : Bool) (c : Nat) : Nat := 0x20000 - foldHead listed c

/-- The frames that a fold needs, each with its cell and its offset within that cell's share. -/
def foldPlan (h : Holder) : List (Nat × Nat) :=
  let size (c : Nat) : Nat := (h.share c).length
  let cells := List.range h.id.ncells
  if cells.any fun c => 0x20000 < size c then
    cells.flatMap fun c => (List.range (ceilDiv (size c - foldRoom true c) 65536)).map fun i => (c, foldRoom true c + 65536 * i)
  else []

/-- A byte of a frozen cell's share. The list in the origin's save area names the frames. -/
def shareByte (s : State) (h : Holder) (c i : Nat) : Byte :=
  let listed := !h.saved.foldFrames.isEmpty
  let at_ (cell off : Nat) : Byte := memGet s.mem.scratch (scratchKey h.id.die (h.id.cellAt cell) (0xE0000 + off))
  if i < foldRoom listed c then at_ c (foldHead listed c + i)
  else
    let o := foldRoom listed c + (i - foldRoom listed c) / 65536 * 65536
    match (List.range h.saved.foldFrames.length).find? fun j =>
        readLE (at_ 0) (16 * j + 8) 4 == c && readLE (at_ 0) (16 * j + 12) 4 == o with
    | some j =>
      let a := normPa (readLE (at_ 0) (16 * j) 8 + (i - o))
      BitVec.ofNat 8 (bits (s.plainLine a).toNat (8 * (a % 64)) 8)
    | none => 0

/-- A frozen holder takes its cells back and is restored from its save areas (R341). -/
def unfoldOne (s : State) (c : Holder) : State :=
  let s := s.modH c.id.inst fun x => { x with dp := { x.dp with
    cells := (List.range x.dp.cells.length).map fun k => x.cellBack (shareByte s c k) 0 k } }
  let s := (rect c.id.col c.id.row c.id.w c.id.h).foldl (fun s i =>
    s.setArea c.id.die i { s.area c.id.die i with owner := c.id.inst, fold := false, org := i == cellIndex c.id.col c.id.row }) s
  let s := returnFrames s c.id c.saved.foldFrames
  s.modH c.id.inst fun c => { c with id := { c.id with life := .restoring }, saved := { c.saved with foldFrames := [] } }

/-- A folded caller, with what was frozen with it, takes its cells back when its callee ends (R341). -/
def unfold' (s : State) (caller : Nat) : State :=
  match s.h? caller with
  | none => s
  | some c => ((foldGroup s c).filter fun x => x.id.life == .folded).foldl unfoldOne s

/-- A frozen caller that was racked with its folded callee becomes ready when the callee ends (R342, R343). -/
def readyCaller (s : State) (caller : Nat) : State :=
  match s.h? caller with
  | some c => if c.id.life == .folded && !c.saved.frames.isEmpty then
      let s := (foldGroup s c).foldl (fun s x => s.modH x.id.inst fun y =>
        { y with id := { y.id with life := if y.id.life == .folded then .ready else y.id.life } }) s
      s.modP c.id.die fun p => { p with queue := p.queue ++ [.image caller] }
    else s
  | none => s

/-- The caller of a folded callee that ends without cells goes on (R341, R342, R351). -/
def calleeGone (s : State) (h : Holder) : State :=
  match h.fn.foldedOn with
  | some c => readyCaller s c
  | none => s

/-- Release a holder's region (R22): its cells, or the caller's cells it was folded into (R341). A holder that holds no cells
releases none. -/
def releaseRegion (s : State) (h : Holder) : State :=
  match h.id.life with
  | .placed | .loading | .restoring =>
    match h.fn.foldedOn with
    | some c => unfold' s c
    | none => releaseRect s h.id.die h.id.col h.id.row h.id.w h.id.h
  | .resident => releaseRect s h.id.die h.id.col h.id.row h.id.w h.id.h
  | .folded => if h.saved.frames.isEmpty then releaseRect s h.id.die h.id.col h.id.row h.id.w h.id.h else s
  | .checkpoint => if h.saved.frames.isEmpty then releaseRect s h.id.die h.id.col h.id.row h.id.w h.id.h else calleeGone s h
  | _ => calleeGone s h

/-- Live members of a gang. -/
def gangLive (s : State) (g : Gang) : List Nat := g.members.filter fun m => (s.h? m).isSome

/-- The gang that a holder belongs to through its callers (R280). -/
def rootGang (s : State) : Nat → Nat → Nat
  | 0, _ => 0xFFFFFFFF
  | fuel + 1, i => match s.h? i with
    | some h => if h.id.kind == .callee then rootGang s fuel h.id.parent else h.id.gang
    | none => 0xFFFFFFFF

/-- A gang whose last member has ended: its GLAUNCH completes, without a signal if a member was killed (R280, R430). -/
def gangEnd (s : State) (g : Nat) : State :=
  match s.pkg.gangs.find g with
  | none => s
  | some x =>
    if (gangLive s x).isEmpty then
      let s := s.modPkg fun p => { p with gangs := p.gangs.del g }
      match x.packet with
      | some (d, q, i) => if x.spoiled then s.modPkt d q i fun p => { p with st := .faulted } else packetDone s x.packet
      | none => s
    else s

/-- A RACK whose target has ended first gives result 1 (R419, R426); of a gang, once no other member is left. -/
def rackLost (s : State) (h : Holder) : State :=
  match h.ev.rackBy with
  | none => s
  | some d =>
    if h.id.kind == .member && (match s.pkg.gangs.find h.id.gang with | some g => (gangLive s g).any (· != h.id.inst) | none => false) then s
    else s.modR d fun r => { r with prstat := 1 }

/-- Take a holder out of the package: regions, receives and charges released, frames returned, region released once (R22, R349,
R351). Its entry in the recovery page ends when its stores are durable (R326). -/
def removeHolder (s : State) (h : Holder) : State :=
  let s := releaseRegions s h
  let s := rackLost s h
  let s := releaseAllCharges s h
  let s := dropRefs s h.id.inst
  let s := returnFrames s h.id (h.saved.frames ++ h.saved.foldFrames)
  let s := recovEnd s h
  let s := { s with hold := s.hold.del h.id.inst, pkg := { s.pkg with laneDone := s.pkg.laneDone.filter fun l => l.inst != h.id.inst } }
  let s := releaseRegion s h
  gangEnd s h.id.gang

/-- An entry of a Shape Cache has a key (R336). -/
def ShapeEnt.is (e : ShapeEnt) (pid cls : Nat) (dg : BitVec 384) : Bool := e.valid && e.pid == pid && e.cls == cls && e.digest == dg

/-- Change the entries of a die's Shape Cache. -/
def State.modShapes (s : State) (d : Nat) (f : ShapeEnt → ShapeEnt) : State := s.modP d fun p => { p with shapes := p.shapes.map f }

/-- USE of the entry that a holder's image streams from (R336): 1 more at the start of its load, and 1 less of that same entry at its
end, whatever the entry's key is by then. -/
def shapeUse (s : State) (h : Holder) (up : Bool) : State :=
  let l := (s.die h.fn.cacheDie).p.shapes
  let put (i : Nat) (f : BitVec 8 → BitVec 8) : State :=
    s.modP h.fn.cacheDie fun p => { p with shapes := listMod l i fun x => { x with use := f x.use } }
  if !h.fn.found then s
  else if up then match indexOf l fun x => x.is h.id.pid h.id.cls h.fn.digest with
    | some i => (put i (· + 1)).modH h.id.inst fun g => { g with fn := { g.fn with entry := some i } }
    | none => s
  else match h.fn.entry with
    | some i => (put i (· - 1)).modH h.id.inst fun g => { g with fn := { g.fn with entry := none } }
    | none => s

/-- A load that is stopped posts a report of cause 8 (R108). -/
def loadStopped (s : State) (h : Holder) : State :=
  if h.id.life == .loading then
    postLoad (shapeUse s h false) h.id.pid h.id { cause := 8, row := h.id.row, col := h.id.col, die := h.id.die }
  else s

/-- The descendants of a holder by CALL links, the holder included. -/
def subtree (s : State) (root : Nat) : List Nat :=
  let kids (l : List Nat) : List Nat := (s.hold.filter fun e => e.2.id.kind == .callee && l.contains e.2.id.parent).map (·.1)
  (List.range s.hold.length).foldl (fun acc _ => acc ++ (kids acc).filter fun k => !acc.contains k) [root]

/-- Reclaim a set of holders at once (R351): descendants first, so that a folded callee gives its cells back to its caller before
the caller goes. -/
def reclaimAll (s : State) (l : List Nat) : State :=
  l.reverse.foldl (fun s i => match s.h? i with
    | some h => removeHolder (loadStopped s h) h
    | none => s) s

/-- CANCEL of a subtree (R351): the state, and the number reclaimed. -/
def cancelTree (s : State) (root : Nat) : State × Nat :=
  match s.h? root with
  | none => (s, 0)
  | some h =>
    let l := subtree s root
    let s := reclaimAll s l
    (closeLink s h true, l.length)

/-! ## Kill -/

/-- Write STATE of a TCB, leaving its other fields (R376, R377). -/
def tcbState (s : State) (pid t st : Nat) : State :=
  match readVa s pid 0 (t + 4) 1 with
  | some b => (writeVa s pid (t + 4) 1 (b / 8 * 8 + st)).getD s
  | none => s

/-- What a kill does to each kind of holder (R430); the record has been posted. -/
def killHolder (s : State) (h : Holder) : State :=
  match h.id.kind with
  | .callee => (cancelTree s h.id.inst).1
  | .member =>
    let s := s.modPkg fun p => { p with gangs := p.gangs.modify h.id.gang fun g => { g with spoiled := true } }
    (cancelTree s h.id.inst).1
  | .task =>
    let s := tcbState s h.id.pid h.fn.tcb 5
    (cancelTree s h.id.inst).1
  | .named =>
    let s := s.modQ h.id.die fun q => { q with names := q.names.filter fun n => n.2.2 != h.id.inst }
    let s := loadGone s h.fn.packet
    let s := { s with dies := s.dies.map fun d => { d with q := { d.q with queues := d.q.queues.map fun (k, q) =>
      (k, { q with running := q.running.map fun p => if p.st == .bindRuns h.id.inst then { p with st := .faulted } else p }) } } }
    (cancelTree s h.id.inst).1

/-! ## Racking -/

/-- The bytes of an image (R422, R423): header and sections. -/
def imageSize (h : Holder) : Nat := 256 + ((h.sections {}).map Section.size).sum

/-- The frames an image takes (R424): SIZE bytes and an 8-byte list entry for each frame. -/
def imageFrames (h : Holder) : Nat := ceilDiv (imageSize h) (65536 - 8)

/-- Bytes and poison marks of a holder's scratchpads, keyed from its first cell (R423 section 8). -/
def scratchOf (s : State) (h : HolderId) : List (Nat × Byte) × List Nat :=
  let cells := List.range h.ncells
  (cells.foldl (fun acc c =>
      let b := scratchKey h.die (h.cellAt c) 0
      (s.mem.scratch.filter fun e => b ≤ e.1 && e.1 < b + 2 ^ 20).foldl (fun t e => Tbl.put t (c * 2 ^ 20 + (e.1 - b)) e.2) acc) [],
   cells.foldl (fun acc c =>
      let b := scratchKey h.die (h.cellAt c) 0 / 4
      acc ++ ((s.mem.scratchPoison.filter fun w => b ≤ w && w < b + 2 ^ 18).map fun w => c * 2 ^ 18 + (w - b))) [])

/-- Put saved scratchpads onto a region (R425). -/
def scratchBack (s : State) (h : HolderId) (sv : Saved) : State :=
  let cells := List.range h.ncells
  s.modMem fun m => cells.foldl (fun m c =>
    let b := scratchKey h.die (h.cellAt c) 0
    let keep := m.scratch.filter fun e => !(b ≤ e.1 && e.1 < b + 2 ^ 20)
    let keepP := m.scratchPoison.filter fun w => !(b / 4 ≤ w && w < b / 4 + 2 ^ 18)
    { m with
      scratch := (sv.scratch.filter fun e => e.1 / 2 ^ 20 == c).foldl (fun t e => memSet t (b + e.1 % 2 ^ 20) e.2) keep
      scratchPoison := (sv.poison.filter fun w => w / 2 ^ 18 == c).foldl (fun t w => setAdd t (b / 4 + w % 2 ^ 18)) keepP }) m

/-- Where byte `b` of a stored image stands: in the frame at list entry b div 65,536 (R424). -/
def streamAddr (fs : List Nat) (b : Nat) : Nat := normPa (fs.getD (b / 65536) 0 + b % 65536)

/-- Write the low `n` bytes of a number at stream byte `off`, with no poison. -/
def streamPut (fs : List Nat) (m : Mem) (off n v : Nat) : Mem :=
  (List.range n).foldl (fun m i => { m with
    bytes := memSet m.bytes (streamAddr fs (off + i)) (BitVec.ofNat 8 (v / 256 ^ i))
    poison := setDel m.poison (streamAddr fs (off + i) / 4) }) m

/-- Write bytes into a cell's scratchpad from an offset, with no poison. -/
def scratchPut (m : Mem) (die cell off : Nat) (l : List Byte) : Mem :=
  let b := scratchKey die cell off
  l.zipIdx.foldl (fun m (v, i) => { m with scratch := memSet m.scratch (b + i) v, scratchPoison := setDel m.scratchPoison ((b + i) / 4) }) m

/-- Write the shares of a frozen holder: each into its cell's save area, the rest into frames, which the first 4 KiB of the origin's
save area list (R341). -/
def foldWrite (h : Holder) (fs : List Nat) (m : Mem) : Mem :=
  let listed := !fs.isEmpty
  let m := (List.range h.id.ncells).foldl (fun m c =>
    scratchPut m h.id.die (h.id.cellAt c) (0xE0000 + foldHead listed c) ((h.share c).take (foldRoom listed c))) m
  ((foldPlan h).zip fs).zipIdx.foldl (fun m (((c, o), f), i) =>
    let m := scratchPut m h.id.die (h.id.cellAt 0) (0xE0000 + 16 * i) (leBytes 8 f ++ leBytes 4 c ++ leBytes 4 o)
    (((h.share c).drop o).take 65536).zipIdx.foldl (fun m (b, j) => streamPut [f] m j 1 b.toNat) m) m

/-- Write an image's header with its directory, its frame list and its sections into its frames (R422 to R424). -/
def writeImage (s : State) (h : Holder) (kind : Nat) (fs : List Nat) : State :=
  let l := h.sections s.mem
  (s.modMem fun m =>
    let m := (headerFields h kind (imageSize h) fs.length ++ directory l).foldl (fun m (o, n, v) => streamPut fs m o n v) m
    let m := fs.zipIdx.foldl (fun m (f, i) => streamPut fs m (256 + 8 * i) 8 f) m
    (placed l).foldl (fun m (x, o) =>
      (List.range x.size).foldl (fun m i => streamPut fs m (8 * fs.length + o + i) 1 (x.byte i).toNat) m) m).spoil s (frameLines fs)

/-- A byte of a stored image, at its offset in the image: behind the header stands the frame list (R424). -/
def imageByte (s : State) (fs : List Nat) (off : Nat) : Byte :=
  let a := streamAddr fs (if off < 256 then off else off + 8 * fs.length)
  BitVec.ofNat 8 (bits (s.plainLine a).toNat (8 * (a % 64)) 8)

/-- The cells of a holder as its stored image gives them: the CELLS section stands where the directory says (R158, R213, R425). -/
def imageCells (s : State) (h : Holder) : List CellSt :=
  let rd := imageByte s h.saved.frames
  h.cellsBack rd (readLE rd 116 4)

/-- Holders racked as one (R342, R418): a member's whole gang, a folded callee with its frozen caller. -/
def rackGroup (s : State) (h : Holder) : List Holder :=
  let base : List Holder := if h.id.kind == .member then
      match s.pkg.gangs.find h.id.gang with
      | some g => g.members.filterMap fun m => s.h? m
      | none => [h]
    else [h]
  base.flatMap fun x => match x.fn.foldedOn with
    | some c => match s.h? c with
      | some y => x :: foldGroup s y
      | none => [x]
    | none => [x]

/-- Take the frames for a group's images, each from the pool of its own process; none keeps no frame (R424). A ring that is
absent gives none at once. -/
def takeFor : State → List Holder → Option (List (Holder × List Nat) × State)
  | s, [] => some ([], s)
  | s, h :: t =>
    if poolCount s h.id.pid == 0 then none
    else
      match poolTakeN s h.id.pid (imageFrames h) with
      | none => none
      | some (fs, s1) => match takeFor s1 t with
        | none => none
        | some (l, s2) => some ((h, fs) :: l, s2)

/-- A thread whose load of a clean line waits for its reply reads the line again once it is restored (log 22). -/
def Thread.unread (t : Thread) : Thread :=
  match t.wait with
  | .combined _ _ | .replied _ _ => { t with wait := .none }
  | _ => t

/-- The thread as an image saves it: a repeat sequence under way is recorded in REPST (R145), and a waiting RECVW is left with
d = 0 and its entry posted (R252). -/
def Thread.saved (t : Thread) : Thread :=
  match t.wait with
  | .recvw _ d => { t.pass (t.pc + 1) with
      wait := .none, pfx := {}
      regs := { t.regs with a := if d = 0 then t.regs.a else t.regs.a.setIfInBounds d 0 } }
  | _ =>
    let t := t.unread
    match t.pfx.rep with
    | some (last, _) => if t.pfx.idx == 0 then { t with pfx := {} } else
        { t with pfx := {}, resume := some t.pfx.idx
                 sys := { t.sys with repst := BitVec.ofNat 64 (2 ^ 15 + last * 2 ^ 8 + t.pfx.idx) } }
    | none => { t with pfx := {} }

/-- Save one holder into its frames and free its cells (R342, R424). -/
def rackOne (s : State) (h : Holder) (fs : List Nat) (kind : Nat) (life : Life) : State :=
  let (sc, ps) := scratchOf s h.id
  let s := writeImage s { h with th := h.th.saved } kind fs
  let s := releaseAllCharges s h
  let s := dropRefs s h.id.inst
  let s := s.modH h.id.inst fun h => { h with
    id := { h.id with life := if h.id.life == .folded then .folded else life }
    ev := { h.ev with draining := false, rackBy := none, dmkAt := none }
    th := h.th.saved
    saved := { h.saved with frames := fs, scratch := sc, poison := ps, recvw := match h.th.wait with | .recvw p _ => some p | _ => none } }
  if h.fn.foldedOn.isSome then s else releaseRegion s h

/-- Rack a holder with its group: freeze or drain save, images to frames, cells released; none when a ring cannot supply every
frame, and then no frame is kept (R424). -/
def rack (s : State) (h : Holder) (kind : Nat) (life : Life) : Option State :=
  match takeFor s (rackGroup s h) with
  | none => none
  | some (l, s') => some (l.foldl (fun s (x, fs) => rackOne s x fs kind life) s')

/-- A holder can be frozen: its requests and its SEND are answered, and no rollback of its region is due, which completes first (R240, R251,
R426). -/
def Holder.settled (h : Holder) : Bool := h.answered && !h.ev.rollDue

/-- A holder and what is saved with it can be saved now. -/
def canSave (s : State) (h : Holder) : Bool := (rackGroup s h).all Holder.settled

/-- What happens to the holder of a thread that takes a trap with no handler, or HALT in an instance (R151, R156, R431): an
instance is parked, or killed when the frames cannot be had; a residency is killed. The record carries frame 0 of the parked
image and the PC. -/
def parkOrKill (s : State) (h : Holder) (cause info addr pc : Nat) : State :=
  match h.id.kind with
  | .callee | .member =>
    match rack s h 0 .parked with
    | some s' =>
      let f0 := match s'.h? h.id.inst with | some x => x.saved.frames.headD 0 | none => 0
      postFault s' h.id.pid (h.id.record cause info addr (f0 / 2 ^ 16 * 2 ^ 16 + pc))
    | none => killHolder (postFault s h.id.pid (h.id.record cause info addr pc)) h
  | _ => killHolder (postFault s h.id.pid (h.id.record cause info addr pc)) h

/-- A region error's record (R434): reason, fate (0 rolled back, 1 killed), rollbacks so far, and the element's cell. -/
def regionRecord (s : State) (h : Holder) (reason fate cell : Nat) : State :=
  let c := h.id.cellAt cell
  let aux := h.id.die * 2 ^ 26 + (c / 16) * 2 ^ 28 + (c % 16) * 2 ^ 33
  postFault s h.id.pid (h.id.record cREGION (reason + fate * 16 + h.ev.rollbacks * 64) 0 aux)

/-- Kill a region for a reason of R427. -/
def killRegion (s : State) (h : Holder) (reason cell : Nat) : State := killHolder (regionRecord s h reason 1 cell) h

end Sys2Proof.Machine
end

