-- ==== Sys2Proof/Machine/Ops.lean ====
section
/-! DEFINITION. Registers and queues of the thread, retiring an instruction, transferring control, taking a trap (R150, R151) and returning from one (R152). -/

namespace Sys2Proof.Machine

/-! ## Registers -/

/-- Write a register: a write to register 0 is discarded (R114). -/
def regSet (f : Vector W64 32) (r : Reg) (v : W64) : Vector W64 32 := if r = 0 then f else f.set r.val v

/-- Read an s-register. -/
def Thread.s (t : Thread) (r : Reg) : W64 := regGet t.regs.s r
/-- Write an a-register. -/
def Thread.setA (t : Thread) (r : Reg) (v : W64) : Thread := { t with regs := { t.regs with a := regSet t.regs.a r v } }
/-- Write an s-register. -/
def Thread.setS (t : Thread) (r : Reg) (v : W64) : Thread := { t with regs := { t.regs with s := regSet t.regs.s r v } }

/-- Read a register of the unit that executes (R74): `e` is true for the E-unit. -/
def Thread.get (t : Thread) (e : Bool) (r : Reg) : W64 := if e then t.s r else t.a r
/-- Write a register of the unit that executes. -/
def Thread.set (t : Thread) (e : Bool) (r : Reg) (v : W64) : Thread := if e then t.setS r v else t.setA r v

/-! ## LQ and SQ -/

/-- Pop LQ; the error is INFO 0 of R120. -/
def Thread.popLq (t : Thread) : Except Nat (W64 × Thread) :=
  match t.lq with
  | [] => .error 0
  | v :: q => .ok (v, { t with lq := q })

/-- Push LQ; the error is INFO 1 of R120. -/
def Thread.pushLq (t : Thread) (v : W64) : Except Nat Thread :=
  if 16 ≤ t.lq.length then .error 1 else .ok { t with lq := t.lq ++ [v] }

/-- Pop SQ; the error is INFO 2 of R120. -/
def Thread.popSq (t : Thread) : Except Nat (W64 × Thread) :=
  match t.sq with
  | [] => .error 2
  | v :: q => .ok (v, { t with sq := q })

/-- Push SQ; the error is INFO 3 of R120. -/
def Thread.pushSq (t : Thread) (v : W64) : Except Nat Thread :=
  if 16 ≤ t.sq.length then .error 3 else .ok { t with sq := t.sq ++ [v] }

/-- The queue a unit pops: the E-unit LQ, the A-unit SQ (R75). -/
def Thread.popIn (t : Thread) (e : Bool) : Except Nat (W64 × Thread) := if e then t.popLq else t.popSq
/-- The queue a unit pushes: the E-unit SQ, the A-unit LQ (R75). -/
def Thread.pushOut (t : Thread) (e : Bool) (v : W64) : Except Nat Thread := if e then t.pushSq v else t.pushLq v

/-! ## Retiring and transferring -/

/-- The instruction of the sequence at the pc has completed: the next repeat of a REP follows, or the word after the sequence
(R144). REPST is cleared when a sequence runs to its end (R145). -/
def Thread.retire (t : Thread) : Thread :=
  match t.pfx.rep with
  | some (last, mask) =>
    if t.pfx.idx < last then
      { t with wait := .none, pfx := { t.pfx with rep := some (last, mask), idx := t.pfx.idx + 1 } }
    else { t.pass (t.pc + t.pfx.len + 1) with wait := .none, pfx := {}, sys := { t.sys with repst := 0 } }
  | none => { t.pass (t.pc + t.pfx.len + 1) with wait := .none, pfx := {} }

/-- Both units continue at an index (R152). -/
def Thread.goto (t : Thread) (i : Nat) : Thread := { t with wait := .none, pfx := {}, lead := {}, pcA := i, pcE := i }

/-- Both units compute the target of a jump (R119, R142): they go there together, or an A-unit that is ahead alone, and the E-unit when it
reaches the word (`Thread.follow`). -/
def Thread.jumpTo (t : Thread) (i : Nat) : Thread :=
  if t.ahead == some false then { t with wait := .none, pfx := {}, pcA := i, lead := { t.lead with jumps := t.lead.jumps + 1 } }
  else t.goto i

/-- The A-unit waits for the words that it has left to the E-unit: its next instruction traps (R121). -/
def Thread.askEven (t : Thread) : Thread := { t with lead := { t.lead with even := t.lead.words != 0 } }

/-- A 32-bit word of an instruction, for EADDR (R77). -/
def wordOf (i : Instr) : Nat := (encode i).getD 0

/-! ## Traps -/

/-- TVEC.INH and TVEC.EN and TVEC.HANDLER (R127). -/
def SysRegs.inh (r : SysRegs) : Bool := r.tvec.getLsbD 15
def SysRegs.en (r : SysRegs) : Bool := r.tvec.getLsbD 12
def SysRegs.handler (r : SysRegs) : Nat := bits r.tvec.toNat 0 12

/-- ECAUSE as trap entry writes it (R129). -/
def ecauseWord (unit : Bool) (repi : Bool) (info cause : Nat) : W64 :=
  BitVec.ofNat 64 (b2n unit * 2 ^ 19 + b2n repi * 2 ^ 18 + info % 1024 * 2 ^ 8 + cause % 256)

/-- REPST of a sequence stopped before repeat `i` (R131, R145). -/
def repstWord (last i : Nat) : W64 := BitVec.ofNat 64 (2 ^ 15 + last % 64 * 2 ^ 8 + i % 64)

/-- The thread at its handler (R150): EPC, ECAUSE and EADDR written, INH set, both branch queues empty (R121). -/
def Thread.enter (t : Thread) (unit : Bool) (cause info : Nat) (eaddr : W64) : Thread :=
  let k := if cause == cTRAP then t.pc + 1 else t.pc
  let r := t.sys
  { t with
    pcA := r.handler, pcE := r.handler, pfx := {}, wait := .none, resume := none, bqe := [], bqa := [], lead := {}
    sys := { r with
      tvec := r.tvec ||| ((1 : W64) <<< 15)
      epc := BitVec.ofNat 64 k
      ecause := ecauseWord unit t.pfx.rep.isSome info cause
      eaddr := eaddr
      repst := match t.pfx.rep with | some (last, _) => repstWord last t.pfx.idx | none => r.repst } }

/-- A trap must wait: for what precedes it (R121), or, with no handler to take it, for what a freeze waits for (R421). -/
def trapWaits (s : State) (h : Holder) : Bool := !ctAccepted s h || (!(h.th.sys.en && !h.th.sys.inh) && !canSave s h)

/-- Taking a trap (R150, R151), once every earlier memory access has completed and the E-unit has executed every earlier word of its own (R121): the handler is entered when one is installed and none is running; otherwise the thread stops, its
region is frozen once its requests are answered and a record is posted, with cause NESTED when a handler was running. -/
def trap (s : State) (unit : Bool) (cause info : Nat) (eaddr : W64) : State :=
  match s.me? with
  | none => s
  | some h =>
    let r := h.th.sys
    if trapWaits s h then s.modTh Thread.askEven
    else if r.en && !r.inh then s.modTh fun t => t.enter unit cause info eaddr
    else
      let k := if cause == cTRAP then h.th.pc + 1 else h.th.pc
      let s := s.modTh fun t => { t with halted := false, wait := .none, pcA := k, pcE := k, bqe := [], bqa := [], lead := {} }
      match s.me? with
      | none => s
      | some h => if r.inh then parkOrKill s h cNESTED cause eaddr.toNat k else parkOrKill s h cause info eaddr.toNat k

/-- A trap of the A-unit that changes something as it is taken, and nothing while it waits. -/
def trapWith (s : State) (f : State → State) (cause info : Nat) (eaddr : W64) : State :=
  if s.me?.any (trapWaits s) then s.modTh Thread.askEven else trap (f s) false cause info eaddr

/-- ILL at decode: EADDR receives the failing word (R77). No repeat of the sequence has run. -/
def trapIll (s : State) (w : Nat) : State :=
  if s.me?.any fun h => !ctAccepted s h then s.modTh Thread.askEven
  else trap (s.modTh fun t => { t with pfx := {} }) false cILL 0 (BitVec.ofNat 64 w)

/-- QUEUE, raised at decode (R120, R121). -/
def trapQueue (s : State) (info : Nat) : State := trap s false cQUEUE info 0

/-- The REP operands at an index, if its word is a REP (R152). -/
def Thread.repAt (t : Thread) (i : Nat) : Option Nat :=
  match decodeWord (t.word i).toNat with
  | .ok (.rep last _) => some last.val
  | _ => none

/-- ERET is legal (R152): a handler is running, EPC is an index of the code store, and REPST fits the sequence at EPC. -/
def eretOk (t : Thread) : Bool :=
  let r := t.sys
  let rs := r.repst.toNat
  r.inh && r.epc.toNat ≤ 4095 &&
  (!bitAt rs 15 ||
    match t.repAt r.epc.toNat with
    | some last => bits rs 8 6 == last && bits rs 0 6 ≤ bits rs 8 6
    | none => false)

/-- Return from a handler (R152): INH is cleared and both units continue at EPC, at the repeat REPST names (R145). -/
def Thread.ret (t : Thread) : Thread :=
  let rs := t.sys.repst.toNat
  { t.goto t.sys.epc.toNat with
    sys := { t.sys with tvec := t.sys.tvec &&& ~~~((1 : W64) <<< 15) }
    resume := if bitAt rs 15 then some (bits rs 0 6) else none }

/-! ## The current thread -/

/-- Retire the current instruction after a change of its thread. -/
def State.retire (s : State) (f : Thread → Thread) : State := s.modTh fun t => (f t).retire

/-- Run a meaning on the current holder; without one nothing issues. -/
def withMe (s : State) (f : Holder → State) : Out :=
  match s.me? with
  | some h => .next (f h)
  | none => .next s

end Sys2Proof.Machine
end

