-- ==== Sys2Proof/Machine/Operands.lean ====
section
/-! DEFINITION. Operand forms of the R, I and S formats: registers, the queue operands of R75, immediates extended by R83 and R143. -/

namespace Sys2Proof.Machine

/-- A source operand: the head of the unit's inward queue, or a register (R75). -/
def srcOp (e q : Bool) (r : Reg) (t : Thread) : Except Nat (W64 × Thread) :=
  if q then t.popIn e else .ok (t.get e r, t)

/-- A destination operand: the unit's outward queue, or a register (R75). -/
def dstOp (e q : Bool) (r : Reg) (v : W64) (t : Thread) : Except Nat Thread :=
  if q then t.pushOut e v else .ok (t.set e r v)

/-- `op d, a, b`: operand a is popped first (R75, R134). DESIGN CHOICE (log 42): where one instruction pops an empty queue and pushes the
other one while it is full, the pops are judged first, so that INFO is 0 or 2 (R120 gives no order). -/
def alu3 (e : Bool) (op : W64 → W64 → W64) (f : R3) (t : Thread) : Except Nat Thread := do
  let (a, t) ← srcOp e f.qa f.a t
  let (b, t) ← srcOp e f.qb f.b t
  dstOp e f.qd f.d (op a b) t

/-- `op d, a, b` that also reads d (R135, R140). -/
def aluT (e : Bool) (op : W64 → W64 → W64 → W64) (f : RT) (t : Thread) : Except Nat Thread := do
  let d := t.get e f.d
  let (a, t) ← srcOp e f.qa f.a t
  let (b, t) ← srcOp e f.qb f.b t
  dstOp e false f.d (op d a b) t

/-- `op d, a`. -/
def alu2 (e : Bool) (op : W64 → W64) (f : R2) (t : Thread) : Except Nat Thread := do
  let (a, t) ← srcOp e f.qa f.a t
  dstOp e f.qd f.d (op a) t

/-- Complete a register instruction: it retires, or traps QUEUE with no effect (R120, R134). -/
def finish (s : State) (g : Thread → Except Nat Thread) : Out :=
  withMe s fun h => match g h.th with
    | .ok t => s.retire fun _ => t
    | .error i => trapQueue s i

/-- A 16-bit immediate, sign-extended, or the 32-bit value with EXT (R83, R143). -/
def immS (t : Thread) (imm : BitVec 16) : W64 :=
  match t.pfx.hi with
  | some hi => (hi ++ imm).signExtend 64
  | none => imm.signExtend 64

/-- A 16-bit immediate, zero-extended, or the 32-bit value with EXT (R83, R143). -/
def immZ (t : Thread) (imm : BitVec 16) : W64 :=
  match t.pfx.hi with
  | some hi => (hi ++ imm).setWidth 64
  | none => imm.setWidth 64

/-- `op d, a, #v` (R137). -/
def aluI (e : Bool) (op : W64 → W64 → W64) (sgn : Bool) (f : I3) (s : State) : Out :=
  finish s fun t => .ok (t.set e f.d (op (t.get e f.a) (if sgn then immS t f.imm else immZ t f.imm)))

/-- An endpoint field: F4, or EXT × 32 + F4 (R87). -/
def epField (t : Thread) (ep : Reg) : Nat :=
  match t.pfx.hi with
  | some hi => hi.toNat * 32 + ep.val
  | none => ep.val

/-- An address operand with its offset (R300). -/
def addrOf (t : Thread) (a : Reg) (off : BitVec 16) : W64 := t.a a + immS t off

end Sys2Proof.Machine
end

