-- ==== Sys2Proof/Machine/Flags.lean ====
section
/-! DEFINITION. Comparisons. The thread has no flag register: a compare writes 0 or 1 to a register (R116), and a branch compares two registers (R141). -/

namespace Sys2Proof.Machine

/-- A compare result: 0 or 1 in all 64 bits (R116). -/
def flag (b : Bool) : W64 := if b then 1 else 0

/-- Signed less-than. -/
def ltS (a b : W64) : Bool := a.toInt < b.toInt
/-- Unsigned less-than. -/
def ltU (a b : W64) : Bool := a.toNat < b.toNat

/-- SEQ, SNE, SLT and SLTU (R135). -/
def opSeq (a b : W64) : W64 := flag (a == b)
def opSne (a b : W64) : W64 := flag (a != b)
def opSlt (a b : W64) : W64 := flag (ltS a b)
def opSltu (a b : W64) : W64 := flag (ltU a b)

/-- The branch conditions (R85, R141). -/
inductive Cond where
  | eq | ne | lt | ge | ltu | geu | any | none
deriving DecidableEq, Repr

/-- Whether a condition holds on two registers (R85). -/
def Cond.holds : Cond → W64 → W64 → Bool
  | .eq, a, b => a == b
  | .ne, a, b => a != b
  | .lt, a, b => ltS a b
  | .ge, a, b => !ltS a b
  | .ltu, a, b => ltU a b
  | .geu, a, b => !ltU a b
  | .any, a, b => a &&& b != 0
  | .none, a, b => a &&& b == 0

end Sys2Proof.Machine
end

