-- ==== Sys2Proof/Machine/Check.lean ====
section
/-! DEFINITION. The checks of configuration frames (R93 to R101, R105): header, word, slots, routes, formats and zero-slot cycles. -/

namespace Sys2Proof.Machine

/-! ## Headers (R91, R93, R98, R99 to R101, R413) -/

/-- KIND, TARGET and PART are assigned. -/
def targetOk (kind target part : Nat) : Bool :=
  match kind with
  | 0 => (target ≤ 7 && part == 0) || (target == 8 && part ≤ 7)
  | 1 => target ≤ 13 && part == 0
  | 2 => (target ≤ 3 && part ≤ 3) || (target == 8 && part ≤ 4) || (target == 9 && part ≤ 11) || (target == 10 && part ≤ 1) ||
         (target == 11 && part ≤ 1)
  | _ => target ≤ 2 && part == 0

/-- A frame's header: assigned, inside the region, reserved bits zero. `v` is the frame as a number. -/
def headerOk (w h v : Nat) : Bool :=
  let f := frameOf v
  targetOk f.kind f.target f.part && f.col < w && f.row < h && bits v 224 11 == 0

/-! ## Stage words (R94, R160 to R175, R178, R188 to R197, R215) -/

/-- Codes assigned to operations. -/
def opAssigned (op : Nat) : Bool :=
  (1 ≤ op && op ≤ 0x09) || (0x10 ≤ op && op ≤ 0x16) || (0x20 ≤ op && op ≤ 0x34) || (0x40 ≤ op && op ≤ 0x45) ||
  (0x48 ≤ op && op ≤ 0x4A) || (0x50 ≤ op && op ≤ 0x52) || op == 0x58 || op == 0x59 || (0x60 ≤ op && op ≤ 0x63)

/-- A port-format field (R61): assigned code, TBL 0 but for CB4 and CB8. -/
def fmtOk (f : Nat) : Bool :=
  let c := f % 64
  (c ≤ 0x13 || (0x20 ≤ c && c ≤ 0x24)) && (f / 64 == 0 || c == 0x12 || c == 0x13)

/-- A lane format. -/
def laneFmt (f : Nat) : Bool := f == 0x20 || f == 0x21 || f == 0x10 || f == 0x11

/-- The (FMTI, FMTR) pairs of an operation. -/
def fmtPair (w : Nat) : Bool :=
  let i := sFmtI w
  let r := sFmtR w
  let half (f : Nat) : Bool := f == 0x10 || f == 0x11
  match sOp w with
  | 0x09 => i == 0x20 && r == 0x21
  | 0x10 | 0x11 | 0x12 | 0x13 | 0x14 | 0x15 => i == r && half i
  | 0x16 => half i && r == 0x21
  | 0x30 | 0x31 | 0x32 | 0x33 | 0x34 => i == r && laneFmt i
  | 0x48 => (i == 0x20 && (r == 0x21 || half r)) || (i == 0x21 && r == 0x20) || (half i && (r == 0x20 || (half r && i != r)))
  | 0x49 => i == 0x20 && r ≤ 0x11
  | 0x4A =>
    let n := 512 / fmtWidth (i % 64) / (if r == 0x20 then 16 else 32)
    fmtOk i && i % 64 ≤ 0x13 && (r == 0x20 || half r) && 1 ≤ n && n ≤ 16 && !(sNosc w && fmtK (i % 64))
  | 0x51 | 0x52 => i == r && (i == 0x20 || i == 0x21)
  | 0x58 | 0x59 => i == 0x21 && r == 0x21
  | op => if 0x20 ≤ op && op ≤ 0x2F then i == 0x21 && r == 0x21 else i == 0x20 && r == 0x20

/-- The field of an operation's ACC slot: 0 a, 2 c. -/
def accSlot (op : Nat) : Option Nat :=
  match op with
  | 0x01 | 0x05 | 0x06 | 0x10 | 0x14 | 0x15 | 0x20 | 0x24 | 0x25 | 0x26 | 0x27 | 0x28 | 0x29 | 0x2A => some 0
  | 0x04 | 0x13 | 0x60 | 0x61 => some 2
  | _ => none

/-- OPX of a stage that does not accumulate. -/
def opxOk (w : Nat) : Bool :=
  let x := sOpx w
  match sOp w with
  | 0x09 | 0x16 => x < 8
  | 0x2F => x < 6
  | 0x33 => 1 ≤ x && x < 16
  | 0x48 => x == 0 || (x == 1 && sFmtR w == 0x20 && sFmtI w != 0x21)
  | 0x49 | 0x4A => x < 4
  | 0x50 | 0x51 | 0x52 => x < 2
  | _ => x == 0

/-- A stage word by itself, in stage `k` (R94, R160, R163, R175). -/
def stageOk (k w : Nat) : Bool :=
  if sOp w == 0 then w == 0
  else
    let (ra, rb, rc) := opReads w
    let op := sOp w
    let srcs := stageSrcs w
    let slot := accSlot op
    let field (n : Nat) : Nat := if n == 0 then sSrcA w else if n == 1 then sSrcB w else sSrcC w
    let scale := if op == 0x60 || op == 0x61 then some (sSrcB w) else if op == 0x62 || op == 0x63 then some (sSrcC w) else none
    opAssigned op && bits w 160 64 == 0 && bits w 55 9 == 0 && bits w 28 4 == 0 &&
    (ra || sSrcA w == 0) && (rb || sSrcB w == 0) && (rc || sSrcC w == 0) &&
    srcs.all (· ≤ 7) && !(k == 0 && srcs.contains 0) &&
    (op == 0x34 || sPat w == 0) && (sOen w || sOport w == 0) && fmtOk (sFmtI w) && fmtOk (sFmtR w) && fmtPair w &&
    (!sRtz w || (0x48 ≤ op && op ≤ 0x4A)) && (!sSat w || (0x48 ≤ op && op ≤ 0x4A) || (0x20 ≤ op && op ≤ 0x22)) &&
    (match scale with | some c => 1 ≤ c && c ≤ 4 | none => true) &&
    (isReducer w || srcs.any (· < 5)) &&
    (if sAcc w then
       (match slot with
        | some n => field n == 6 && (List.range 3).all fun m => m == n || field m != 6
        | none => false) && (sOen w || sRed w) && sOpx w < 4
     else !srcs.contains 6 && opxOk w)

/-- A counting stage (R394). -/
def counting (w : Nat) : Bool := sOp w != 0 && sAcc w && sOpx w % 4 != 0

/-- Pairs of a list, the earlier element first. -/
def pairsOf : List Nat → List (List Nat)
  | [] => []
  | x :: t => (t.map fun y => [x, y]) ++ pairsOf t

/-- The conditions among the stage words of a CU that do not hold (R160, R161, R188, R394), each by the stages whose words it involves;
`ws` holds the six words. -/
def stageFaults (ws : List Nat) : List (List Nat) :=
  let on (k : Nat) : Bool := sOp (ws.getD k 0) != 0
  let w (k : Nat) : Nat := ws.getD k 0
  let ks := List.range 6
  let reads0 (k : Nat) : Bool := on k && (stageSrcs (w k)).contains 0
  let red := ks.filter fun k => on k && sRed (w k)
  let tree := ks.filter fun k => isReducer (w k)
  (List.range 4).flatMap (fun n => pairsOf (ks.filter fun k => on k && (stageSrcs (w k)).contains (n + 1))) ++
  (List.range 4).flatMap (fun n => pairsOf (ks.filter fun k => on k && sOen (w k) && sOport (w k) == n)) ++
  -- no consumer: the stage's own word breaks the condition
  ((ks.filter fun k => on k && !(sOen (w k) || sRed (w k) || (k < 5 && reads0 (k + 1)))).map fun k => [k]) ++
  ((ks.filter fun k => reads0 k && !(0 < k && on (k - 1))).map fun k => [k - 1, k]) ++
  ((ks.filter fun k => reads0 k && 0 < k && on (k - 1) && sFmtR (w (k - 1)) != sFmtI (w k) &&
      !((sOp (w k) == 0x30 || sOp (w k) == 0x31) && sSrcA (w k) == 0 && sSrcB (w k) != 0 && sSrcC (w k) != 0)).map fun k => [k]) ++
  pairsOf red ++ pairsOf tree ++
  (match red, tree with
   | [], t => t.map fun k => [k]
   | r, [] => r.map fun k => [k]
   | [f], [r] => if f < r && sFmtR (w f) == sFmtI (w r) then [] else [[f, r]]
   | _, _ => []) ++
  pairsOf (ks.filter fun k => counting (w k))

/-- The stage words of a CU agree with each other. -/
def stagesOk (ws : List Nat) : Bool := (stageFaults ws).isEmpty

/-! ## Other words -/

/-- The loop-counter frame (R95). -/
def loopsOk (p : Nat) : Bool :=
  bits p 192 32 == 0 && (List.range 3).all fun k =>
    let ch := bits p (64 * k + 48) 2
    ch != 3 && !(k == 0 && ch == 2) && bits p (64 * k + 50) 14 == 0

/-- The MX control frame (R96, R207, R12). DESIGN CHOICE (log 12): an image of class MX-reduced may enable macro 2 or 3, at most two macros
in all; R202 numbers the usable macros from 0 and says no more. -/
def mxOk (cls p : Nat) : Bool :=
  let a := mxA p % 64
  let b := mxB p % 64
  let en := mxMacen p
  let used := (List.range 4).filter fun m => bitAt en m
  if en == 0 then p == 0
  else a ≤ 0x13 && b ≤ 0x13 && b != 7 && fmtOk (mxA p) && fmtOk (mxB p) && mxEmit p ≤ 1 && (mxEmit p == 1 || mxRows p == 0) &&
    (!mxChain p || en == 1 || en == 3 || en == 7 || en == 15) && bits p 28 196 == 0 && !(fmtK a && fmtK b) &&
    !(cls == 2 && 2 < used.length)

/-- An MU port word (R98, R238, R239). -/
def muOk (p : Nat) : Bool :=
  let t := muType p
  if t == 0 then p == 0
  else
    let aop := muAop p
    t ≤ 5 && fmtOk (muFmt p) && bits p 59 165 == 0 &&
    (t == 3 || (muCb p == 0 && !muReader p)) && (t == 4 || (aop == 0 && !muRes p)) &&
    (t == 5 || (muWbase p == 0 && muWsize p == 0)) &&
    (t != 4 || (aop ≤ 6 && (if aop == 6 then muFmt p == 0x20 else muFmt p == 0x21 || (aop == 5 && muFmt p == 0x20)))) &&
    (t != 5 || (1 ≤ muWsize p && muWbase p + muWsize p ≤ 16384))

/-- A circular-buffer word (R98). -/
def cbOk (p : Nat) : Bool := 1 ≤ cbSize p && cbBase p + cbSize p ≤ 16384 && bits p 30 194 == 0

/-- COUNT of a reorder level, STRIDE, and the block size (R98, R243). -/
def roCount (p k : Nat) : Nat := bits p (32 * k) 16 + 1
def roStride (p k : Nat) : Int := sInt 16 (bits p (32 * k + 16) 16)
def roLevels (p : Nat) : Nat := bits p 128 2 + 1
def roBlock (p : Nat) : Nat := ((List.range (roLevels p)).map (roCount p)).prod

/-- The input of output `n` of a block (R243). -/
def roMap (p n : Nat) : Int :=
  ((List.range (roLevels p)).foldl (fun (acc : Int × Nat) k =>
    (acc.1 + ((acc.2 % roCount p k : Nat) : Int) * roStride p k, acc.2 / roCount p k)) (0, n)).1

/-- A reorder word (R98, R243). -/
def reordOk (p : Nat) : Bool :=
  bits p 131 93 == 0 && roBlock p ≤ 64 && (List.range (roBlock p)).all fun x => (List.range (roBlock p)).any fun n => roMap p n == x

/-- A corner-turn word (R98). -/
def cturnOk (p : Nat) : Bool := bits p 4 220 == 0 && 1 ≤ bits p 0 3 && bits p 0 3 ≤ 4

/-- A route frame apart from its SLOTS fields (R99). -/
def routeOk (p : Nat) : Bool :=
  (List.range 4).all fun j =>
    let v := bits p (56 * j) 56
    match routeOf v with
    | none => v == 0
    | some r => r.arb != 3 && bits v 54 2 == 0 && r.dsts.any fun d => d.1 != 0x7F

/-- The LUT island's frames (R100). -/
def lutiOk (target part p : Nat) : Bool :=
  match target with
  | 8 => part < 4 || bits p 128 96 == 0
  | 9 => bits p 220 4 == 0 && (List.range 22).all fun j =>
      let s := bits p (10 * j) 10
      let n := 22 * part + j
      if 256 ≤ n then s == 0 else !bitAt s 9 || (bits s 6 3 == 0 && bits s 0 6 < n / 4)
  | _ => true

/-- The ratio checks (R413). -/
def ratioOk (p : Nat) : Bool :=
  let es := (List.range 8).map fun e => bits p (28 * e) 28
  es.all (fun e => if bitAt e 0 then bits e 1 7 < 64 && bits e 8 7 < 64 && bits e 5 3 == bits e 12 3 && !bitAt e 27 else e == 0) &&
  ((es.filter fun e => bitAt e 0).map fun e => bits e 1 14).Nodup

/-- An address-generator word (R101, R395). -/
def agenOk (p : Nat) : Bool :=
  agMode p ≤ 1 && bits p 15 17 == 0 &&
  (List.range 4).all (fun k => agStride p k % 64 == 0) &&
  (!agXbound p || bits p (32 + 48 * (agNlev p - 1)) 24 == 0) && (agMode p == 0 || (agNlev p == 1 && !agXbound p))

/-- A configuration word by itself (R105 step 3). -/
def wordOk (cls : Nat) (f : Frame) : Bool :=
  let p := f.pay.toNat
  match f.kind, f.target with
  | 0, 6 => loopsOk p
  | 0, 7 => mxOk cls p
  | 0, 8 => f.col == 0 && f.row == 0 && bits p 128 96 == 0
  | 0, k => stageOk k p && !(cls == 1 && 4 ≤ k && sOp p != 0)
  | 1, 12 => reordOk p
  | 1, 13 => cturnOk p
  | 1, t => if t < 4 then muOk p else cbOk p
  | 2, 11 => ratioOk p
  | 2, t => if t < 4 then routeOk p else lutiOk t f.part p
  | _, 2 => 1 ≤ bits p 0 2 && bits p 2 222 == 0
  | _, _ => agenOk p

/-! ## Conditions among words, over a region's frames in force -/

/-- The six stage words of a cell. -/
def Holder.stages (h : Holder) (c : Nat) : List Nat := (List.range 6).map fun k => h.stage c k

/-- Conditions among the words of one MU that do not hold (R98, R242), by the two targets involved. -/
def Holder.muFaults (h : Holder) (c : Nat) : List (List Nat) :=
  let cb (n : Nat) : Nat := h.cbWord c n
  let mucb := (List.range 4).filter fun p => muType (h.muWord c p) == 3
  let on := (List.range 8).filter fun n => cbEn (cb n)
  ((pairsOf mucb).filter fun l =>
    let a := h.muWord c (l.getD 0 0)
    let b := h.muWord c (l.getD 1 0)
    muCb a == muCb b && muReader a == muReader b) ++
  (((pairsOf on).filter fun l =>
    let a := cb (l.getD 0 0)
    let b := cb (l.getD 1 0)
    !(cbBase a + cbSize a ≤ cbBase b || cbBase b + cbSize b ≤ cbBase a)).map fun l => l.map (· + 4))

/-- Ports and buffers of one MU agree. -/
def Holder.muAll (h : Holder) (c : Nat) : Bool := (h.muFaults c).isEmpty

/-- The entries whose source is an output port, as (tile, entry). -/
def Holder.outRoutes (h : Holder) (c id : Nat) : List (Nat × Nat) :=
  ((h.dstsOf c).filter fun (_, rt, _, _) => rt.src == id).map fun (r, _, _, _) => (r.tile, r.e)

/-- An output port has a destination or an OUT endpoint. -/
def Holder.routed (h : Holder) (c id : Nat) : Bool := !(h.outRoutes c id).isEmpty || (h.epAt true c id).isSome

/-- An input port has a route or an IN endpoint. -/
def Holder.fedPort (h : Holder) (c id : Nat) : Bool := !(h.into c id).isEmpty || (h.epAt false c id).isSome

/-- The matrix tile has k and out1 just when it has a K format (R201). -/
def Holder.kRoutes (h : Holder) (c : Nat) : Bool :=
  let w := h.mxWord c
  let k := mxMacen w != 0 && (fmtK (mxA w % 64) || fmtK (mxB w % 64))
  k == h.fedPort c (idMx 2) && k == h.routed c (idMx 1)

/-- An MUAT port has its out0 just when RES = 1 (R238). -/
def Holder.resRoute (h : Holder) (c p : Nat) : Bool :=
  muType (h.muWord c p) != 4 || muRes (h.muWord c p) == h.routed c (idMuOut p)

/-- Some entry of a switch's part has a LUT island that is off at one of its ends (R198). -/
def Holder.lutiRoute (h : Holder) (c tile part : Nat) : Bool :=
  !h.lutiOn c && (h.dstsOf c).any fun (r, rt, d, _) => r.tile == tile && r.e / 4 == part && (rt.src == idLuti || d == idLuti)

/-- Valid ratio checks of a cell with the same INP and OUTP (R413), by the parts involved. -/
def Holder.ratioFaults (h : Holder) (c : Nat) : List (List Nat) :=
  let e (n : Nat) : Nat := bits (h.pay c 2 11 (n / 8)) (28 * (n % 8)) 15
  ((pairsOf ((List.range 16).filter fun n => bitAt (e n) 0)).filter fun l => e (l.getD 0 0) == e (l.getD 1 0)).map fun l => l.map (· / 8)

/-- No two valid ratio checks of a cell have the same INP and OUTP. -/
def Holder.ratioPairs (h : Holder) (c : Nat) : Bool := (h.ratioFaults c).isEmpty

/-- Step 4 of R105: every SLOTS field 0 to 8. -/
def Holder.slotsOk (h : Holder) (c : Nat) : Bool :=
  (List.range 4).all fun tile => (List.range 16).all fun e => match h.route c tile e with
    | none => true
    | some r => r.dsts.all fun d => d.2 ≤ 8

/-- The input ports that a cell's configuration reads. -/
def Holder.inputs (h : Holder) (c : Nat) : List Nat :=
  let mu (p : Nat) : List Nat :=
    let w := h.muWord c p
    match muType w with
    | 1 | 5 => [idMuIn0 p]
    | 2 | 4 => [idMuIn0 p, idMuIn1 p]
    | 3 => if muReader w then [] else [idMuIn0 p]
    | _ => []
  ((List.range 4).filter fun n => (h.stageIn c n).isSome) ++
  (if mxMacen (h.mxWord c) != 0 then [idMx 0, idMx 1] else []) ++ (List.range 4).flatMap mu ++
  (if bitAt (h.pay c 1 12 0) 130 then [idReord] else []) ++ (if bitAt (h.pay c 1 13 0) 3 then [idCturn] else []) ++
  (if h.lutiOn c then [idLuti] else []) ++
  (if h.xlatWord c != 0 then [idXlat] else []) ++ ((List.range 2).filter fun g => agMode (h.agenWord c g) == 1).map idAgen

/-- A route of a cell leaves the region (R99). -/
def Holder.outside (h : Holder) (c : Nat) (rt : Route) (d : Nat) : Bool :=
  !((d < 64 || (h.beside c (d / 16)).isSome) && (rt.src < 64 || (h.beside c (rt.src / 16)).isSome))

/-- The routes that end where a destination ends: at the same input port of the cell, or at the same edge port of the same switch. -/
def Holder.rivals (h : Holder) (r : DstRef) (d : Nat) : List (DstRef × Nat) := if d < 64 then h.into r.cell d else h.intoEdge r.cell r.tile d

/-- An input port takes one route and no endpoint, or one endpoint, or up to four routes that all merge (R46, R99, R221); the links to
neighbours are input ports of the adjacent switch. -/
def Holder.crowded (h : Holder) (r : DstRef) (d : Nat) : Bool :=
  let l := h.rivals r d
  !((l.length ≤ 1 && !(d < 64 && (h.epAt false r.cell d).isSome)) ||
    (2 ≤ l.length && l.length ≤ 4 && !(d < 64 && (h.epAt false r.cell d).isSome) && l.all fun (_, arb) => arb != 0))

/-- A destination breaks step 5 of R105. -/
def Holder.badDst (h : Holder) (x : DstRef × Route × Nat × Nat) : Bool := h.outside x.1.cell x.2.1 x.2.2.1 || h.crowded x.1 x.2.2.1

/-- The first configured input of a cell without a route or an endpoint (R105 step 5). -/
def Holder.openInput (h : Holder) (c : Nat) : Option Nat := (h.inputs c).find? fun id => !h.fedPort c id

/-- Step 5 of R105 at one cell. -/
def Holder.routesOk (h : Holder) (c : Nat) : Bool := !(h.dstsOf c).any h.badDst && (h.openInput c).isNone

/-- The format a source port carries, when its element fixes one (R62, R201). -/
def Holder.outFmt (h : Holder) (c id : Nat) : Option Nat :=
  if id < 4 then (h.stageOut c id).map fun k => sFmtR (h.stage c k)
  else if id == idMx 0 || id == idMx 1 then some 0x20
  else if 32 ≤ id && id < 36 then some (muFmt (h.muWord c (id - 32)))
  else if 48 ≤ id && id < 51 then some 0x22
  else none

/-- The formats an input port accepts: none when any. -/
def Holder.inFmt (h : Holder) (c id : Nat) : Option (List Nat) :=
  if id < 4 then
    match h.stageIn c id with
    | none => none
    | some k =>
      let w := h.stage c k
      let op := sOp w
      let e4 (b : Bool) : List Nat := [if b then 0x24 else 0x23]
      if (op == 0x49 || op == 0x4A) && sSrcC w == id + 1 then some (e4 (bitAt (sOpx w) 0))
      else if (op == 0x60 || op == 0x61) && sSrcB w == id + 1 then some (e4 (op == 0x61))
      else if (op == 0x62 || op == 0x63) && sSrcC w == id + 1 then some (e4 (op == 0x63))
      else if (op == 0x30 || op == 0x31) && sSrcA w == id + 1 && sSrcB w != id + 1 && sSrcC w != id + 1 then none
      else some [sFmtI w]
  else if id == idMx 0 then some [mxA (h.mxWord c)]
  else if id == idMx 1 then some [mxB (h.mxWord c)]
  else if id == idMx 2 then some [0x23, 0x24]
  else if id == idMx 3 then some [0x21]
  else if 32 ≤ id && id < 40 then
    let w := h.muWord c ((id - 32) / 2)
    if id % 2 == 0 && (muType w == 1 || muType w == 2 || muType w == 4) then some [0x22] else some [muFmt w]
  else if 48 ≤ id && id < 50 then some [0x21]
  else if id == idXlat then some [0x22]
  else none

/-- The formats of the producers at the far end of a destination. -/
def Holder.fmtsAt (h : Holder) : Nat → DstRef → List Nat
  | 0, _ => []
  | fuel + 1, r => match h.route r.cell r.tile r.e with
    | none => []
    | some rt =>
      if rt.src < 64 then (h.outFmt r.cell rt.src).toList
      else match h.beside r.cell (rt.src / 16) with
        | none => []
        | some n => (h.intoEdge n r.tile (facing (rt.src / 16) * 16 + rt.src % 16)).flatMap fun (q, _) => h.fmtsAt fuel q

/-- Step 6 of R105 at one destination: producer and consumer agree. -/
def Holder.fmtAgree (h : Holder) (r : DstRef) (d : Nat) : Bool :=
  64 ≤ d || (match h.inFmt r.cell d with
    | some l => (h.fmtsAt hopFuel r).all fun f => l.contains f
    | none => true)

/-- The element that owns a port of a cell: CU stages 0 to 5, MX 6, MU ports 7 to 10, reorder 11, corner-turn 12, generators 13
and 14, XLAT 15, LUT island 16. -/
def Holder.owner (h : Holder) (c : Nat) (out : Bool) (id : Nat) : Option Nat :=
  let e := c * 32
  if id < 4 then (if out then h.stageOut c id else h.stageIn c id).map fun k => e + k
  else if id < 32 then some (e + 6)
  else if id < 40 then some (e + 7 + (if out then id - 32 else (id - 32) / 2))
  else some (e + id - (if id < 48 then 29 else 35))

/-- The output ports from which a destination is reached over 0-slot links alone. -/
def Holder.zeroSrcs (h : Holder) : Nat → DstRef → List (Nat × Nat)
  | 0, _ => []
  | fuel + 1, r => match h.route r.cell r.tile r.e with
    | none => []
    | some rt =>
      if (rt.dsts.getD r.i (0, 0)).2 != 0 then []
      else if rt.src < 64 then [(r.cell, rt.src)]
      else match h.beside r.cell (rt.src / 16) with
        | none => []
        | some n => (h.intoEdge n r.tile (facing (rt.src / 16) * 16 + rt.src % 16)).flatMap fun (q, _) => h.zeroSrcs fuel q

/-- The zero-slot edges, element to element, that end at a destination with port `d`. -/
def Holder.zeroEdgesAt (h : Holder) (r : DstRef) (d : Nat) : List (Nat × Nat) :=
  if 64 ≤ d then [] else (h.zeroSrcs hopFuel r).filterMap fun (sc, id) =>
    match h.owner sc true id, h.owner r.cell false d with
    | some a, some b => some (a, b)
    | _, _ => none

/-- Zero-slot edges between elements (R105 step 7), with the destination's port: edges of routes and of PIPE sources. -/
def Holder.zeroEdges (h : Holder) : List (Nat × Nat) :=
  (List.range h.id.ncells).flatMap fun c =>
    ((h.dstsOf c).flatMap fun (r, _, d, _) => h.zeroEdgesAt r d) ++
    (List.range 5).filterMap fun k => if h.nextReads c k then some (c * 32 + k, c * 32 + k + 1) else none

/-- Drop edges out of nodes that nothing enters, as long as any goes. -/
def acyclic : Nat → List (Nat × Nat) → Bool
  | 0, l => l.isEmpty
  | fuel + 1, l => acyclic fuel (l.filter fun e => l.any fun g => g.2 == e.1)

/-- Step 7 of R105. -/
def Holder.cyclesOk (h : Holder) : Bool :=
  let l := h.zeroEdges
  acyclic l.length l

/-- Steps 4 to 7 of R105 over the whole region, as R236 asks of an in-band route frame. -/
def Holder.allRoutesOk (h : Holder) : Bool :=
  (List.range h.id.ncells).all (fun c => h.slotsOk c && h.routesOk c && (h.dstsOf c).all fun (r, _, d, _) => h.fmtAgree r d) &&
  h.cyclesOk

/-- A frame that arrives in-band is legal, by itself and with the words in force (R102, R109, R236). -/
def Holder.inbandOk (h : Holder) (f : Frame) : Bool :=
  let g : Holder := { h with dp := h.dp.setFrame f }
  let c := f.col * h.id.h + f.row
  wordOk h.id.cls f &&
  (match f.kind, f.target with
   | 0, 7 => g.kRoutes c
   | 0, 8 => true
   | 0, _ => stagesOk (g.stages c)
   | 1, t => g.muAll c && (4 ≤ t || g.resRoute c t)
   | 2, t =>
     if t == 11 then g.ratioPairs c
     else (List.range 4).all (fun tile => (List.range 4).all fun part => !g.lutiRoute c tile part) &&
       (4 ≤ t || (g.allRoutesOk && g.kRoutes c && (List.range 4).all fun p => g.resRoute c p))
   | _, _ => true)

/-- The code tables of a cell as the image has them (R374). -/
def Holder.imageTables (h : Holder) (c : Nat) : Tbl Nat :=
  let fs := h.dp.image.filter fun f => f.kind == 0 && f.target == 8
  let places := [6, 7] ++ ((List.range 6).filter fun k => sOp (h.stage c k) == 0x4A)
  (places.foldl (fun (x : CellSt) pl => fs.foldl (fun x f => x.setTable pl f) x) {}).tables

end Sys2Proof.Machine
end

