-- ==== Sys2Proof/Machine/Flow.lean ====
section
/-! DEFINITION. How tokens move (R217 to R221): heads of input ports, taking them, writing results into links, output registers and pipeline registers, and the audits of R412 and R414. -/

namespace Sys2Proof.Machine

/-- Region-error reasons (R427). -/
def rKINDMIX : Nat := 1
def rMXCMD : Nat := 2
def rAUDITLINK : Nat := 3
def rAUDITRATIO : Nat := 4
def rUNCORR : Nat := 5
def rPARITY : Nat := 6
def rDAMAGED : Nat := 7
def rLOAD : Nat := 8

/-- Tokens counted by audits and ratios (R217). -/
def Token.counts (t : Token) : Bool := t.kind == .data || t.kind == .arg

/-- A marker head that merges wait for (R221). -/
def Token.marker (t : Token) : Bool := t.kind == .eos || t.kind == .rmk || t.kind == .dmk

/-- An EOS and a DMK (R217). -/
def eosTok : Token := { kind := .eos }
def dmkTok : Token := { kind := .dmk }

/-- A round marker (R411). -/
def rmkTok (round ep n : Nat) : Token :=
  { kind := .rmk, vld := 7, val := BitVec.ofNat 512 (round % 2 ^ 32 + ep % 256 * 2 ^ 32 + n % 2 ^ 32 * 2 ^ 64) }

/-- A FLT (R217, R435). -/
def fltTok (cause info addr : Nat) : Token :=
  { kind := .flt, vld := 3, val := BitVec.ofNat 512 (cause % 256 + info % 1024 * 2 ^ 8 + bits addr 6 46 * 2 ^ 18) }

/-- Valid and poison bits of a lane. -/
def Token.ok (t : Token) (i : Nat) : Bool := t.vld.getLsbD i
def Token.bad (t : Token) (i : Nat) : Bool := t.psn.getLsbD i

/-- Lane `i` of a token. -/
def Token.lane (t : Token) (i : Nat) : Nat := bits t.val.toNat (32 * i) 32

/-- A DATA token from lanes given as value, valid and poison; an invalid or poisoned lane has VAL 0 (R164, R165). -/
def dataTok (l : List (Nat × Bool × Bool)) : Token :=
  l.zipIdx.foldl (fun t ((v, ok, psn), i) =>
    { kind := .data
      vld := if ok then t.vld ||| (1 <<< i) else t.vld
      psn := if ok && psn then t.psn ||| (1 <<< i) else t.psn
      val := if ok && !psn then t.val ||| (BitVec.ofNat 512 (v % 2 ^ 32) <<< (32 * i)) else t.val }) {}

/-! ## Ratio checks (R413, R414) -/

/-- A ratio check: its number, INP, OUTP, m and k. -/
structure Ratio where
  n : Nat
  inp : Nat
  outp : Nat
  m : Nat
  k : Nat
deriving DecidableEq, Repr

/-- The valid checks of a cell. -/
def Holder.ratios (h : Holder) (c : Nat) : List Ratio :=
  (List.range 16).filterMap fun n =>
    let e := bits (h.pay c 2 11 (n / 8)) (28 * (n % 8)) 28
    if bitAt e 0 then some ⟨n, bits e 1 7, bits e 8 7, bits e 15 6 + 1, bits e 21 6 + 1⟩ else none

/-- A token the check counts comes in: it stands behind the newest marker still inside. -/
def Behind.add (b : Behind) : Behind :=
  match b.cnt.reverse with
  | [] => b
  | n :: rest => { b with cnt := ((n + 1) :: rest).reverse }

/-- A marker or an EOS comes in. -/
def Behind.enter (b : Behind) : Behind :=
  if b.owed == 0 then { b with cnt := b.cnt ++ [0] } else { b with owed := b.owed - 1 }

/-- A marker or an EOS goes out. -/
def Behind.leave (b : Behind) : Behind :=
  match b.cnt with
  | [] => { b with owed := b.owed + 1 }
  | _ :: rest => { b with cnt := rest }

/-- The counted tokens behind the oldest marker still inside. -/
def Behind.sum (b : Behind) : Nat := b.cnt.foldl (· + ·) 0

/-- An element takes a token at an input port. -/
def Holder.ratioTake (h : Holder) (c id : Nat) (t : Token) : Holder :=
  (h.ratios c).foldl (fun h r =>
    if r.inp != id then h
    else if t.counts then h.modCell c fun x =>
      { x with
        diffs := Tbl.set x.diffs 0 r.n (x.diffs.getD r.n 0 + r.k)
        behind := Tbl.set x.behind {} r.n (x.behind.getD r.n {}).add }
    else if t.kind == .rmk || t.kind == .eos then h.modCell c fun x =>
      { x with behind := Tbl.set x.behind {} r.n (x.behind.getD r.n {}).enter }
    else h) h

/-- An element emits a token at an output port; an RMK is where DIFF is checked, over the tokens ahead of it (log 14), and at an EOS
DIFF keeps only what has come in behind. -/
def Holder.ratioEmit (h : Holder) (c id : Nat) (t : Token) : Holder :=
  (h.ratios c).foldl (fun h r =>
    if r.outp != id then h
    else
      let d := (h.cell c).diffs.getD r.n 0
      let b := (h.cell c).behind.getD r.n {}
      let late : Int := (r.k * b.sum : Nat)
      if t.counts then h.modCell c fun x => { x with diffs := Tbl.set x.diffs 0 r.n (d - r.m) }
      else if t.kind == .eos then h.modCell c fun x =>
        { x with diffs := Tbl.set x.diffs 0 r.n late, behind := Tbl.set x.behind {} r.n b.leave }
      else if t.kind == .rmk then
        let h := if d - late < 0 || (r.m * r.k : Nat) ≤ d - late then h.fail rAUDITRATIO c else h
        h.modCell c fun x => { x with behind := Tbl.set x.behind {} r.n b.leave }
      else h) h

/-! ## Links -/

/-- A link. -/
def Holder.link (h : Holder) (r : DstRef) : LinkSt := (h.cell r.cell).links.getD r.key {}

/-- Change a link. -/
def Holder.modLink (h : Holder) (r : DstRef) (f : LinkSt → LinkSt) : Holder :=
  h.modCell r.cell fun x => { x with links := Tbl.set x.links {} r.key (f (x.links.getD r.key {})) }

/-- Write a token into a link (R412). -/
def LinkSt.push (l : LinkSt) (t : Token) : LinkSt :=
  { l with q := l.q ++ [t], ldiff := if t.counts then l.ldiff + 1 else l.ldiff }

/-- Take the head of a link; at an RMK, LDIFF must count just the tokens behind it (R412, log 14). -/
def Holder.popLink (h : Holder) (r : DstRef) : Holder :=
  match (h.link r).q with
  | [] => h
  | t :: rest =>
    let l := h.link r
    let h := if t.kind == .rmk && l.ldiff != ((rest.filter Token.counts).length : Int) then h.fail rAUDITLINK r.cell else h
    h.modLink r fun l =>
      if l.gone.isSome && rest.isEmpty then {} else { l with q := rest, took := [], ldiff := if t.counts then l.ldiff - 1 else l.ldiff }

/-- Every destination with slots has one free, and none of 0 slots still holds tokens of an earlier configuration (R219, R236). -/
def Holder.space (h : Holder) (l : List (DstRef × Nat × Nat)) : Bool :=
  l.all fun (r, _, sl) => if sl == 0 then !h.linkFull r else (h.link r).q.length < sl

/-- The 0-slot destinations of a source. -/
def pulled (l : List (DstRef × Nat × Nat)) : List Nat := (l.filter fun (_, _, sl) => sl == 0).map fun (r, _, _) => r.code

/-- Write a token into every destination with slots (R220). -/
def Holder.pushAll (h : Holder) (l : List (DstRef × Nat × Nat)) (t : Token) : Holder :=
  l.foldl (fun h (r, _, sl) => if sl == 0 then h else h.modLink r fun l => l.push t) h

/-! ## Output registers -/

/-- A pipeline register. -/
def Holder.pipe (h : Holder) (c k : Nat) : Pipe := (h.cell c).pipes.getD k {}

/-- Change a pipeline register. -/
def Holder.modPipe (h : Holder) (c k : Nat) (f : Pipe → Pipe) : Holder :=
  h.modCell c fun x => { x with pipes := listMod x.pipes k f }

/-- FULL falls when the last consumer has taken the value, and with an accumulation's value OPEN (R175); a DUP or an UNPACK then
offers its next token (R162, R173, R194). -/
def Holder.pipeSettle (h : Holder) (c k : Nat) : Holder :=
  let w := h.stage c k
  let p := h.pipe c k
  if p.full && (p.tNext || !h.nextReads c k) && (p.tOut || !sOen w) && (p.tRed || !sRed w) then
    h.modPipe c k fun p => match p.rest with
      | [] => { p with
          full := false, tNext := false, tOut := false, tRed := false, ends := false
          opn := p.opn && !p.ends, acc := if p.ends then {} else p.acc }
      | t :: r => { p with tok := t, rest := r, tNext := false, tOut := false, tRed := false }
  else h

/-- The token held at an output port, with the 0-slot destinations that have taken it. -/
def Holder.held (h : Holder) (c id : Nat) : Option Token × List Nat :=
  let x := h.cell c
  if id < 4 then
    match h.stageOut c id with
    | some k => let p := h.pipe c k
                if p.full && !p.tOut then (some p.tok, (x.outs.getD id {}).took) else (none, [])
    | none => (none, [])
  else if id == idLuti then (x.lout.tok, x.lout.took)
  else let o := x.outs.getD id {}
       (o.tok, o.took)

/-- Clear an output port's register. -/
def Holder.clearOut (h : Holder) (c id : Nat) : Holder :=
  let h := h.modCell c fun x =>
    if id == idLuti then { x with lout := {}, loutOld := x.lout.tok.getD x.loutOld } else { x with outs := x.outs.del id }
  if id < 4 then
    match h.stageOut c id with
    | some k => (h.modPipe c k fun p => { p with tOut := true }).pipeSettle c k
    | none => h
  else h

/-- Record that a 0-slot destination has taken the token at an output port. -/
def Holder.tookOut (h : Holder) (c id code : Nat) : Holder :=
  h.modCell c fun x =>
    if id == idLuti then { x with lout := { x.lout with took := code :: x.lout.took } }
    else { x with outs := let o := x.outs.getD id {}
                          x.outs.put id { o with took := code :: o.took } }

/-! ## Sources -/

/-- The key of a merge at an edge port of a switch. -/
def edgeKey (tile d : Nat) : Nat := 128 + tile * 128 + d

/-- A CFG head that the switch at its source applies (R236). A link that ends at an element's input or at a merge has no switch behind
it. -/
def Holder.switchFrame (h : Holder) (src : Source) (t : Token) : Option Frame :=
  let (c, id, tile) := h.site src
  if (match src with | .link r => h.linkEnds r | _ => false) then none else h.siteFrame t c id tile

/-- The token at the head of a source and the 0-slot destinations that have taken it. -/
def Holder.atSource (h : Holder) : Source → Option Token × List Nat
  | .port c id => h.held c id
  | .link r => let l := h.link r
               (l.q.head?, l.took)
  | .edge c tile d => let m := (h.cell c).merges.getD (edgeKey tile d) {}
                      (m.tok, m.took)

/-- The code under which an OUT endpoint at a port takes tokens (R228). -/
def epCode : Nat := 0

/-- What takes a token at a source as it fires: 0-slot destinations, and an OUT endpoint (R219, R228). -/
def Holder.takers (h : Holder) (t : Token) (src : Source) : List Nat :=
  pulled (h.sinksOf t src) ++
  (match src with
   | .port c id => if (h.epAt true c id).isSome then [epCode] else []
   | _ => [])

/-- The sources whose tokens leave in one cycle: out0 and out1 of a matrix tile while both hold one (R207), and otherwise the source
alone. -/
def Holder.together (h : Holder) (src : Source) : List Source :=
  match src with
  | .port c id =>
    let other := if id == idMx 0 then idMx 1 else idMx 0
    if (id == idMx 0 || id == idMx 1) && (h.held c other).1.isSome then [src, .port c other] else [src]
  | _ => [src]

/-- A source's token has been written into every destination. -/
def Holder.clearSource (h : Holder) : Source → Holder
  | .port c id => h.clearOut c id
  | .link r => h.popLink r
  | .edge c tile d => h.modCell c fun x => { x with
      merges := x.merges.put (edgeKey tile d) { (x.merges.getD (edgeKey tile d) {}) with tok := none, took := [] } }

/-- Record that a taker has taken a source's token. -/
def Holder.tookAt (h : Holder) (src : Source) (code : Nat) : Holder :=
  match src with
  | .port c id => h.tookOut c id code
  | .link q => h.modLink q fun l => { l with took := code :: l.took }
  | .edge c tile d => h.modCell c fun x => { x with
      merges := let m := x.merges.getD (edgeKey tile d) {}
                x.merges.put (edgeKey tile d) { m with took := code :: m.took } }

/-- The tokens of a link whose destination a frame takes away stay on their way there, apart from those that come behind the frame
(R218, R236). -/
def Holder.setAside (h : Holder) (r : DstRef) (d : Nat) : Holder :=
  let l := h.link r
  if l.q.isEmpty then h
  else h.modCell r.cell fun x =>
    let n := x.links.foldl (fun n l => max n (l.1 / 256)) 0 + 1
    { x with links := Tbl.put (x.links.del r.key) (256 * n + r.key) { l with gone := some d } }

/-- What a route frame does to the tokens in the links of its entries (R236). -/
def Holder.reroute (h : Holder) (f : Frame) : Holder :=
  if f.kind != 2 || 4 ≤ f.target then h
  else (List.range 16).foldl (fun h n =>
    let r : DstRef := ⟨f.col * h.id.h + f.row, f.target, 4 * f.part + n / 4, n % 4⟩
    let new := (routeOf (bits f.pay.toNat (56 * (n / 4)) 56)).map fun rt => (rt.dsts.getD r.i (0, 0)).1
    match h.leads r with
    | some d => if new == some d then h else h.setAside r d
    | none => h) h

/-- Put an in-band frame in force; one whose header or word is illegal stands for R109. -/
def Holder.putFrame (h : Holder) (t : Token) (f : Frame) : Holder :=
  if headerOk h.id.w h.id.h (bits t.val.toNat 0 256) && h.inbandOk f then
    let h := h.reroute f
    { h with dp := h.dp.setFrame f }
  else { h with dp := { h.dp with illegal := h.dp.illegal <|> some f } }

/-- A switch behind 0-slot links of a source applies a route frame as the token leaves (R236). -/
def Holder.applyDeep (h : Holder) (src : Source) (t : Token) (before : Holder) : Holder :=
  let (c, id, tile) := before.site src
  match before.deepFrame t hopFuel c tile id with
  | some f => h.putFrame t f
  | none => h

/-- The token of a source is written into its links with slots, counted by the ratio checks of its port (R219, R414). -/
def Holder.pushFrom (h : Holder) (src : Source) : Holder :=
  match h.atSource src with
  | (some t, _) =>
    let h := h.pushAll (h.sinksOf t src) t
    match src with | .port c id => h.ratioEmit c id t | _ => h
  | (none, _) => h

/-- The token of a source has left it everywhere. -/
def Holder.leaveFrom (h : Holder) (src : Source) : Holder :=
  match h.atSource src with
  | (some t, _) => (h.clearSource src).applyDeep src t h
  | (none, _) => h

/-- Every link with slots behind a source can take its token. -/
def Holder.roomAt (h : Holder) (src : Source) : Bool :=
  match h.atSource src with
  | (some t, _) => h.space (h.sinksOf t src)
  | (none, _) => true

/-- What still has to take a source's token. -/
def Holder.due (h : Holder) (src : Source) : List Nat :=
  match h.atSource src with
  | (some t, took) => (h.takers t src).filter fun k => !took.contains k
  | (none, _) => []

/-- Some taker of a source, or of one that leaves with it, has taken its token. -/
def Holder.begun (h : Holder) (src : Source) : Bool := (h.together src).any fun x => !(h.atSource x).2.isEmpty

/-- The head a taker sees: the source's token, when every other link has a free slot (R219). -/
def Holder.offer (h : Holder) (src : Source) (code : Nat) : Option Token :=
  match h.atSource src with
  | (some t, took) =>
    if took.contains code || (h.switchFrame src t).isSome then none
    else if h.begun src || (h.together src).all h.roomAt then some t else none
  | (none, _) => none

/-- A taker takes its source's token; with the first one it is written into the links with slots, and with the last one it leaves
(R219, R220). The step that takes it completes only when all have (`joint`). -/
def Holder.accept (h : Holder) (src : Source) (code : Nat) : Holder :=
  if (h.atSource src).1.isNone then h
  else
    let l := h.together src
    let h := if h.begun src then h else l.foldl Holder.pushFrom h
    let h := h.tookAt src code
    if l.all fun x => (h.due x).isEmpty then l.foldl Holder.leaveFrom h else h

/-- The head a 0-slot destination sees. -/
def Holder.pullHead (h : Holder) (r : DstRef) : Option Token :=
  match h.sourceOf hopFuel r with
  | none => none
  | some src => h.offer src r.code

/-- A 0-slot destination takes its source's token. -/
def Holder.pullTake (h : Holder) (r : DstRef) : Holder :=
  match h.sourceOf hopFuel r with
  | none => h
  | some src => h.accept src r.code

/-- The head token of a destination. -/
def Holder.headOf (h : Holder) (r : DstRef) : Option Token :=
  match h.sourceOf hopFuel r with
  | some (.link q) => if q == r then (h.link r).q.head? else h.pullHead r
  | some _ => h.pullHead r
  | none => none

/-- Take the head token of a destination. -/
def Holder.takeOf (h : Holder) (r : DstRef) : Holder :=
  match h.sourceOf hopFuel r with
  | some (.link q) => if q == r then h.popLink r else h.pullTake r
  | some _ => h.pullTake r
  | none => h

/-- An input port reached through a merge (R221). -/
def Holder.merged (h : Holder) (c id : Nat) : Bool := (h.into c id).any fun (_, arb) => arb != 0

/-- The head token at an input port of a cell. -/
def Holder.head (h : Holder) (c id : Nat) : Option Token :=
  match h.dp.feeds.getD (c * 128 + id) [] with
  | t :: _ => some t
  | [] =>
    if h.merged c id then ((h.cell c).merges.getD id {}).tok
    else match h.feeding c id with
      | (r, _) :: _ => h.headOf r
      | [] => none

/-- Take the head token at an input port. -/
def Holder.take (h : Holder) (c id : Nat) : Holder :=
  match h.head c id with
  | none => h
  | some t =>
    let h := h.ratioTake c id t
    match h.dp.feeds.getD (c * 128 + id) [] with
    | _ :: rest => { h with dp := { h.dp with
        feeds := Tbl.set h.dp.feeds [] (c * 128 + id) rest
        came := h.dp.came || h.eps.any fun x => !x.gr.out && x.gr.place == .port c (id / 16) (id % 16) && x.bind.any fun b => b.host.isSome } }
    | [] =>
      if h.merged c id then h.modCell c fun x => { x with merges := x.merges.put id { (x.merges.getD id {}) with tok := none } }
      else match h.feeding c id with
        | (r, _) :: _ => h.takeOf r
        | [] => h

/-! ## Emission -/

/-- An output port whose token waits in its register: it feeds a 0-slot link or an OUT endpoint (R219, R228). -/
def Holder.waits (h : Holder) (c id : Nat) : Bool :=
  !(h.takers {} (.port c id)).isEmpty

/-- An output port can take a result (R219): its register is empty, and where no result waits there, every link has a free slot. -/
def Holder.canEmit (h : Holder) (c id : Nat) : Bool :=
  ((h.cell c).outs.getD id {}).tok.isNone && (h.waits c id || h.space (h.finals {} hopFuel c none id))

/-- Emit a token at an output port of an element without a register of its own; the port's switch may take it (R236). -/
def Holder.emit (h : Holder) (c id : Nat) (t : Token) : Holder :=
  if h.waits c id then h.modCell c fun x => { x with outs := x.outs.put id { tok := some t } }
  else match h.switchFrame (.port c id) t with
    | some f => h.putFrame t f
    | none => ((h.ratioEmit c id t).pushAll (h.finals t hopFuel c none id) t).applyDeep (.port c id) t h

/-- Emit tokens at both outputs of a matrix tile, to leave together (R207). -/
def Holder.emitPair (h : Holder) (c : Nat) (t u : Token) : Holder :=
  if h.waits c (idMx 0) || h.waits c (idMx 1) then
    h.modCell c fun x => { x with outs := (x.outs.put (idMx 0) { tok := some t }).put (idMx 1) { tok := some u } }
  else (h.emit c (idMx 0) t).emit c (idMx 1) u

/-- Both outputs of a matrix tile can take a token. -/
def Holder.canEmitPair (h : Holder) (c : Nat) : Bool :=
  let free (id : Nat) : Bool := ((h.cell c).outs.getD id {}).tok.isNone
  if h.waits c (idMx 0) || h.waits c (idMx 1) then free (idMx 0) && free (idMx 1) else h.canEmit c (idMx 0) && h.canEmit c (idMx 1)

/-- ELEMENT_FIRE at an output port (R219, R220): the held token is written into every link in one step, or into none. A link's head
moves on only where no element and no merge takes it. -/
def Holder.send (h : Holder) (src : Source) : Holder :=
  match h.atSource src with
  | (some t, []) =>
    match h.switchFrame src t with
    | some f => (h.clearSource src).putFrame t f
    | none =>
      let l := h.together src
      let ends : Bool := match src with | .link r => h.linkEnds r || h.behindOld r | _ => false
      if ends || !(l.all fun x => (h.due x).isEmpty) || !(l.all h.roomAt) then h
      else l.foldl Holder.leaveFrom (l.foldl Holder.pushFrom h)
  | _ => h

/-- The feeder's value enters the tree (R188, R189). -/
def Holder.treeTake (h : Holder) (c : Nat) : Holder :=
  match firstBelow 6 fun k => sOp (h.stage c k) != 0 && sRed (h.stage c k) with
  | none => h
  | some k =>
    let p := h.pipe c k
    if p.full && !p.tRed && (h.cell c).tree.isNone then
      ((h.modCell c fun x => { x with tree := some p.tok, treeOld := p.tok }).modPipe c k fun p => { p with tRed := true }).pipeSettle c k
    else h

/-- Choose the input a merge serves next (R221): round-robin after the last one, or the lowest. DESIGN CHOICE (log 12): before any
has been served, the first entry counts as served last, so that round-robin begins with the second. -/
def pickInput (arb last : Nat) (live : List Nat) : Option Nat :=
  if arb == 1 then
    match live.find? fun k => last < k with
    | some k => some k
    | none => live.head?
  else live.head?

/-- The routes that a merge joins: those of an input port, or of an edge port (R221). -/
def Holder.mergeIns (h : Holder) (c key : Nat) : List (DstRef × Nat) :=
  if key < 64 then h.feeding c key
  else if 128 ≤ key then
    let (tile, d) := ((key - 128) / 128, (key - 128) % 128)
    h.olds c tile d ++ h.intoEdge c tile d
  else []

/-- SWM_MERGE (R221): one head, or one marker for all inputs. DESIGN CHOICE (log 12): where the entries of one merge give different
ARB, the first entry's holds. -/
def Holder.merge (h : Holder) (c key : Nat) : Holder :=
  let ins := h.mergeIns c key
  let st := (h.cell c).merges.getD key {}
  if !(ins.any fun (_, arb) => arb != 0) || st.tok.isSome then h
  else
    let heads := ins.map fun (r, _) => h.headOf r
    let live := (heads.zipIdx.filter fun (t, _) => match t with | some t => !t.marker | none => false).map (·.2)
    let put (h : Holder) (t : Token) (last : Nat) : Holder :=
      h.modCell c fun x => { x with merges := x.merges.put key { tok := some t, last := last } }
    match pickInput ((ins.find? fun i => i.2 != 0).map (·.2) |>.getD 0) st.last live with
    | some k => match ins[k]?, heads.getD k none with
      | some (r, _), some t => put (h.takeOf r) t k
      | _, _ => h
    | none =>
      if heads.all Option.isSome then
        match heads.filterMap fun t => t with
        | [] => h
        | t :: ts =>
          if ts.all fun u => u.kind == t.kind then put (ins.foldl (fun h (r, _) => h.takeOf r) h) t st.last
          else h.fail rKINDMIX c
      else h

end Sys2Proof.Machine
end

