-- ==== Sys2Proof/Machine/Slices.lean ====
section
/-! DEFINITION. What a line meets on its way: the network port of a cell (R402), and the share state of a memory slice (R406 to R410). -/

namespace Sys2Proof.Machine

/-- Resources that guaranteed bindings charge, numbered kind × 2^32 + index, with their G budgets per interval. -/
def resKey (kind i : Nat) : Nat := kind * 2 ^ 32 + i

/-! ## Tenants and their levels (R406 to R409) -/

/-- VALID, PID and WEIGHT of a share entry. -/
def shValid (e : W64) : Bool := bitAt e.toNat 63
def shPid (e : W64) : Nat := bits e.toNat 32 16
def shWeight (e : W64) : Nat := bits e.toNat 0 11

/-- The tenant of a process (R406). -/
def tenantOf (s : State) (d pid : Nat) : Nat :=
  match (List.range 64).find? fun i => i != 0 && shValid ((s.die d).r.shNow.getD i 0) && shPid ((s.die d).r.shNow.getD i 0) == pid with
  | some i => i
  | none => 0

/-- Admitted G charge of a slice, in lines (R408). -/
def gres (s : State) (d sl : Nat) : Nat := ceilDiv (s.pkg.res.getD (resKey 1 (d * 16 + sl)) 0) 64

/-- CAPS of a slice. -/
def caps (s : State) (d sl : Nat) : Nat := min (s.die d).r.capNow (6656 - gres s d sl)

/-- Weight in force of a tenant. -/
def weightOf (s : State) (d i : Nat) : Nat :=
  let e := (s.die d).r.shNow.getD i 0
  if shValid e then shWeight e else 0

/-- The quota of a tenant at a slice (R408). -/
def quota (s : State) (d sl i : Nat) : Nat := caps s d sl * weightOf s d i / 1024

/-- A tenant's state. Until the first refill, which lists every tenant, its level is the quota that the table at reset gives: all of 6,656
lines to the default tenant (R406, R407). -/
def Slice.tenant (s : State) (d sl i : Nat) : Tenant :=
  match ((s.die d).m.slices.getD sl {}).tenants.find i with
  | some t => t
  | none => { level := if i == 0 then 6656 else 0 }

/-- Change a slice. -/
def State.modSlice (s : State) (d sl : Nat) (f : Slice → Slice) : State := s.modM d fun m => { m with slices := listMod m.slices sl f }

/-- A refill tick of a die has come and has not yet taken effect (R399). -/
def refillDue (s : State) (d : Nat) : Bool := (s.die d).scyc.toNat / 1024 != (s.die d).m.ticks

/-- Serve one best-effort line of a tenant (R408). -/
def serveLine (s : State) (d sl i : Nat) : State :=
  let t := Slice.tenant s d sl i
  s.modSlice d sl fun x => { x with tenants := x.tenants.put i { t with level := t.level - 1 }, served := x.served + 1 }

/-- The tenant whose turn it is among some waiting requests: the first, in ascending entry number after the one last served in turn, with
such a request and LEVEL > 0; there are turns only while the share queue holds no entry that can be served (R408 rule 3). -/
def turnAmong (s : State) (d sl : Nat) (l : List (Nat × Nat)) : Option Nat :=
  let x := (s.die d).m.slices.getD sl {}
  if x.queue.any (fun e => 0 < (Slice.tenant s d sl e.1).level) then none
  else ((List.range 64).map fun k => (x.lastServed + 1 + k) % 64).find? fun i =>
    l.any (·.1 == i) && 0 < (Slice.tenant s d sl i).level

/-- The tenant whose turn it is at a slice. -/
def turnTenant (s : State) (d sl : Nat) : Option Nat := turnAmong s d sl ((s.die d).m.slices.getD sl {}).waiting

/-- A best-effort line of a tenant through a port is served by a slice now: its request has been served there already, or it arrives, no
hold stands, and the turn is its tenant's, of which no earlier request waits (R408, R410). A refill that is due goes first (R399). -/
def sliceOpen (s : State) (d sl i port : Nat) : Bool :=
  let x := (s.die d).m.slices.getD sl {}
  x.grants.contains (i, port) ||
  (!refillDue s d && !x.holds.contains (port, i) && !x.waiting.any (·.1 == i) && turnAmong s d sl (x.waiting ++ [(i, port)]) == some i)

/-- A slice has served a best-effort line (R407, R408): LEVEL, ARR and RED follow, unless the line's request had come before. -/
def sliceServed (s : State) (d sl i port : Nat) (red : Bool) : State :=
  if ((s.die d).m.slices.getD sl {}).grants.contains (i, port) then
    s.modSlice d sl fun x => { x with grants := x.grants.erase (i, port) }
  else
    let t := Slice.tenant s d sl i
    s.modSlice d sl fun x => { x with
      tenants := x.tenants.put i { level := t.level - 1, arr := true, red := red }, served := x.served + 1, lastServed := i }

/-! ## The network port of a cell (R402) -/

/-- The number of a cell's network port: the cell of the package (R410). -/
def portNo (h : Holder) (c : Nat) : Nat := h.id.die * 512 + h.id.cellAt c

/-- A direction of a port has moved no more than one of the two lines that its two slice cycles allow since the counters last advanced
(R402, R447). -/
def portFree (s : State) (h : Holder) (c : Nat) (out : Bool) : Bool :=
  match (s.die h.id.die).m.portLines.find (h.id.cellAt c * 2 + b2n out) with
  | some (t, n) => t != (s.die h.id.die).scyc.toNat || n < 2
  | none => true

/-- The port of cell `c` has moved a line (R402). -/
def portMoved (s : State) (h : Holder) (c : Nat) (out : Bool) (p : Place) : State :=
  if p.kind == 0 then s
  else s.modM h.id.die fun m =>
    let k := h.id.cellAt c * 2 + b2n out
    let now := (s.die h.id.die).scyc.toNat
    { m with portLines := m.portLines.put k (match m.portLines.find k with
      | some (t, n) => if t == now then (now, n + 1) else (now, 1)
      | none => (now, 1)) }

/-- A place lies in HBM, whose lines the memory slices serve (R408). -/
def Place.sliced (p : Place) : Bool := p.kind == 1 || p.kind == 2

/-- The port of cell `c` holds a holder's best-effort requests to the slice of a place back (R410). -/
def portHeld (s : State) (h : Holder) (c : Nat) (p : Place) : Bool :=
  p.sliced && ((s.die (dieOfPa p.addr)).m.slices.getD (sliceOf p.addr) {}).holds.contains (portNo h c, tenantOf s (dieOfPa p.addr) h.id.pid)

/-- The slice of a place serves a best-effort line of a holder through cell `c` now (R408). -/
def sliceServes (s : State) (h : Holder) (c : Nat) (p : Place) : Bool :=
  !p.sliced || sliceOpen s (dieOfPa p.addr) (sliceOf p.addr) (tenantOf s (dieOfPa p.addr) h.id.pid) (portNo h c)

/-- It has served the line. -/
def sliceTook (s : State) (h : Holder) (c : Nat) (p : Place) : State :=
  if p.sliced then
    sliceServed s (dieOfPa p.addr) (sliceOf p.addr) (tenantOf s (dieOfPa p.addr) h.id.pid) (portNo h c) (modeBit h.id.mode 19)
  else s

/-- A best-effort line of a holder that no endpoint moves, of its thread or of a copy, goes through the port of cell `c` now and is served
(R402, R408). DESIGN CHOICE (log 23): the thread's lines, and a copy's between two virtual addresses, cross the port of cell 0. -/
def bestGoes (s : State) (h : Holder) (c : Nat) (out : Bool) (p : Place) : Bool :=
  p.kind == 0 || (portFree s h c out && sliceServes s h c p)

/-- It has gone. -/
def bestWent (s : State) (h : Holder) (c : Nat) (out : Bool) (p : Place) : State := sliceTook (portMoved s h c out p) h c p

end Sys2Proof.Machine
end

