-- ==== Sys2Proof/Machine/Combine.lean ====
section
/-! DEFINITION. Read combining (R255 to R258): the routers of a read, their tables of reads in flight, and where a reply goes. -/

namespace Sys2Proof.Machine

/-! ## Read combining -/

/-- The cell router of a cell of a die (R255). -/
def cellRouter (cell : Nat) : Nat := (cell % 16 / 8) * 4 + cell / 16 / 8

/-- The slice router of a memory slice (R255). -/
def sliceRouter (sl : Nat) : Nat := (2 + sl / 2 / 4) * 4 + sl / 2 % 4

/-- The slice router to which the interface from die `d` to die `e` attaches (R255). -/
def dieRouter (d e : Nat) : Nat := 12 + (if e < d then e else e - 1)

/-- The routers of a route in a die, in order: along the row first, then along the column (R255). -/
def routers (a b : Nat) : List Nat := [a, a / 4 * 4 + b % 4, b].eraseDups

/-- The routers a read of a line passes, numbered die × 16 + router. -/
def readPath (d cell pa : Nat) : List Nat :=
  let e := dieOfPa pa
  if d == e then (routers (cellRouter cell) (sliceRouter (sliceOf pa))).map fun r => d * 16 + r
  else ((routers (cellRouter cell) (dieRouter d e)).map fun r => d * 16 + r) ++
       ((routers (dieRouter e d) (sliceRouter (sliceOf pa))).map fun r => e * 16 + r)

/-- A requester of read combining: holder, cell, port, reorder entry. -/
abbrev Requester := Nat × Nat × Nat × Nat

/-- A combinable read goes along its path: absorbed at the first router with an open entry of its line, else taking a free entry at
each (R257). -/
def combine (s : State) (line : Nat) (q : Requester) : List Nat → State
  | [] => s
  | r :: rest =>
    let cs := (s.die (r / 16)).m.combs
    if cs.any fun x => x.router == r && x.line == line && x.opened && x.reqs.length < 16 then
      match cs.findIdx? fun x => x.router == r && x.line == line && x.opened && x.reqs.length < 16 with
      | some i => s.modM (r / 16) fun m => { m with combs := listMod m.combs i fun x => { x with reqs := x.reqs ++ [q] } }
      | none => s
    else
      let s := if (cs.filter fun x => x.router == r).length < 32 then
          s.modM (r / 16) fun m => { m with combs := m.combs ++ [{ router := r, line := line, opened := true, reqs := [q] }] }
        else s
      combine s line q rest

/-- The read stands as absorbed in some router's entry. -/
def absorbed (s : State) (q : Requester) : Bool := s.dies.any fun d => d.m.combs.any fun x => x.reqs.tail.contains q

/-- The read stands in some router's entry. -/
def underWay (s : State) (q : Requester) : Bool := s.dies.any fun d => d.m.combs.any fun x => x.reqs.contains q

/-- The requesters a reply reaches (R257). -/
def replyTo (s : State) : Nat → List Requester → List Requester
  | 0, l => l
  | fuel + 1, l =>
    let more := s.dies.flatMap fun d => d.m.combs.flatMap fun x => match x.reqs with
      | q :: rest => if l.contains q then rest else []
      | [] => []
    let new := more.filter fun q => !l.contains q
    if new.isEmpty then l else replyTo s fuel (l ++ new.eraseDups)

/-- Free the entries a reply has passed. -/
def freeCombs (s : State) (l : List Requester) : State :=
  { s with dies := s.dies.map fun (d : Die) =>
      { d with m := { d.m with combs := d.m.combs.filter fun x => match x.reqs with | q :: _ => !l.contains q | [] => false } } }

/-- Change an MU port. -/
def Holder.modMu (h : Holder) (c p : Nat) (f : MuPort → MuPort) : Holder :=
  h.modCell c fun x => { x with ports := listMod x.ports p f }

/-- Fill a reorder entry. -/
def fillRob (s : State) (q : Requester) (t : Token) : State :=
  s.modH q.1 fun h => h.modMu q.2.1 q.2.2.1 fun x => { x with
    rob := x.rob.map fun r => if r.id == q.2.2.2 && r.res.isNone then { r with res := some t } else r }

/-- The DATA token of a line that was read (R237). -/
def lineTok (v : Line) (psn : BitVec 16) : Token :=
  dataTok ((List.range 16).map fun i => (bits v.toNat (32 * i) 32, true, psn.getLsbD i))

/-- The requester that a load of the control thread is, by a number of its own (R256). -/
def threadReq (i id : Nat) : Requester := (i, 2 ^ 16, 0, id)

/-- The requester that the next line of a port endpoint is (R256). -/
def epReq (i e issued : Nat) : Requester := (i, 2 ^ 17, e, issued)

/-- A line that a process reads at an address is clean: a page of local or interleaved HBM that it may not write (R256). -/
def cleanVa (s : State) (pid va : Nat) : Bool :=
  match leafAt s pid va with
  | .ok l => !l.w && (l.kind == 1 || l.kind == 2)
  | .error _ => false

/-- A read of a line meets, at a router of its path, an open entry of the line with room (R257). -/
def meets (s : State) (line : Nat) (path : List Nat) : Bool :=
  path.any fun r => (s.die (r / 16)).m.combs.any fun x => x.router == r && x.line == line && x.opened && x.reqs.length < 16

/-- Clear OPEN in every read-combining entry of the dies that a condition names (R258). The router number is
die × 16 + y × 4 + x (R255). -/
def clearOpen (s : State) (on : Nat → Bool) : State :=
  { s with dies := s.dies.zipIdx.map fun (d, i) =>
      if on i then { d with m := { d.m with combs := d.m.combs.map fun c => { c with opened := false } } } else d }

/-- The entries as the next read meets them: the consumption of a host ingress token has closed those that stood then (R258). A token of
any host range closes them, as one of an ingress range must. -/
def State.acquired (s : State) : State :=
  if s.hold.any fun e => e.2.dp.came then
    clearOpen { s with
      hold := s.hold.map fun e => (e.1, { e.2 with dp := { e.2.dp with came := false } })
      unf := s.unf.filter fun x => !(s.hold.find x.inst).any fun h => h.dp.came } fun _ => true
  else s

/-- A read of a line can stand at a router of its path: an open entry has room for it, or a router a free entry (R257). -/
def joins (s : State) (line : Nat) (path : List Nat) : Bool :=
  meets s line path || path.any fun r => ((s.die (r / 16)).m.combs.filter fun x => x.router == r).length < 32

/-- A requester has its line: a waiting load, the next line of an endpoint, or an entry of a reorder buffer. -/
def giveReply (s : State) (v : Line) (psn : BitVec 16) (q : Requester) : State :=
  if q.2.1 == 2 ^ 16 then s.modThOf q.1 fun t => match t.wait with
    | .combined id _ => if id == q.2.2.2 then { t with wait := .replied v psn } else t
    | _ => t
  else if q.2.1 == 2 ^ 17 then s.modH q.1 fun h => { h with eps := listMod h.eps q.2.2.1 fun x =>
    if x.issued == q.2.2.2 then { x with reply := some (v, psn) } else x }
  else fillRob s q (lineTok v psn)

/-- The reply to a read passes the routers: every requester that its entries absorbed, directly or through another, has the line, in
the order in which they were absorbed, and the entries are free (R257). -/
def replied (s : State) (q : Requester) (v : Line) (psn : BitVec 16) : State :=
  ((replyTo s 8 [q]).tail).foldl (fun s => giveReply s v psn) (freeCombs s (replyTo s 8 [q]))

end Sys2Proof.Machine
end

