-- ==== Sys2Proof/Machine/Unfenced.lean ====
section
/-! DEFINITION. What an agent's reads on one path may miss of its own writes on another until an XFENCE orders them (R234, R260, R297 to
R299, R305). DESIGN CHOICE (log 6): a read that may miss a write finds the older bytes or the newer ones as a free value of Config says. -/

namespace Sys2Proof.Machine

/-- The classes that read memory. -/
def readers : List PathClass := [.ct, .fs, .bk, .mw]

/-- A write of holder `i` to the line of a place. -/
def Unfenced.hits (x : Unfenced) (i : Nat) (p : Place) : Bool :=
  x.inst == i && x.scr == (p.kind == 0) && x.line == p.addr / 64 * 64

/-- Reads of the classes no longer miss the write. -/
def Unfenced.see (x : Unfenced) (cs : List PathClass) : Unfenced := { x with seen := (x.seen ++ cs).eraseDups }

/-- Some class may still miss the write. -/
def Unfenced.open_ (x : Unfenced) : Bool := readers.any fun c => c != x.cls && !x.seen.contains c

/-- The write precedes the present point (R298). -/
def Unfenced.before (x : Unfenced) : Bool := !x.live && x.copy.isNone

/-- The writes of holder `i` to the line of a place that its read of class `cls` may miss, oldest first. What the holder has consumed of a
host range orders all of them (R258, R295). -/
def State.missable (s : State) (i : Nat) (cls : PathClass) (p : Place) : List Unfenced :=
  if (s.hold.find i).any fun h => h.dp.came then []
  else s.unf.filter fun x => x.hits i p && x.cls != cls && !x.seen.contains cls

/-- A line as it stood before a write. -/
def Unfenced.undo (x : Unfenced) (r : Line × BitVec 16) : Line × BitVec 16 :=
  let ws : BitVec 16 := (List.range 16).foldl (fun a i => if (x.mask >>> (4 * i)) &&& 15 != 0 then a ||| (1 <<< i) else a) 0
  (lineMerge r.1 x.old x.mask, (r.2 &&& ~~~ws) ||| (x.psn &&& ws))

/-- What holder `i` reads of a line on the path of a class, of what stands at its home: of every write that it may miss, the bytes before it
or after it (R297). -/
def State.readAs (s : State) (i : Nat) (cls : PathClass) (p : Place) (r : Line × BitVec 16) : Line × BitVec 16 :=
  (s.missable i cls p).zipIdx.foldr (fun (x, k) r => if Config.readsOld s.freeCount (x.line + k) then x.undo r else r) r

/-- The read is made: a write that it did not miss is missed by no later read on its path (R297). -/
def State.didRead (s : State) (i : Nat) (cls : PathClass) (p : Place) : State :=
  let l := s.missable i cls p
  if l.isEmpty then s
  else
    let newer := (l.zipIdx.filter fun (x, k) => !Config.readsOld s.freeCount (x.line + k)).map (·.1)
    { s with unf := (s.unf.map fun x => if newer.contains x then x.see [cls] else x).filter Unfenced.open_ }

/-- The list once holder `i` has written bytes of a line on the path of a class: its reads on that path miss no earlier write of them. -/
def unfAfter (s : State) (i : Nat) (run : Bool) (cls : PathClass) (va copy : Option Nat) (p : Place) (mask : BitVec 64) : List Unfenced :=
  match s.lineAt 0 p with
  | none => s.unf
  | some (v, psn) =>
    ((s.unf.map fun x => if x.hits i p && x.cls != cls && x.mask &&& mask != 0 then x.see [cls] else x).filter Unfenced.open_) ++
    [{ inst := i, cls := cls, scr := p.kind == 0, line := p.addr / 64 * 64, mask := mask, old := v, psn := psn, va := va
       live := run && (cls == .fs || cls == .mw), copy := copy }]

/-- A holder writes masked bytes of a line of a place that takes its writes at once, on the path of a class. -/
def State.writeAs (s : State) (h : Holder) (cls : PathClass) (va copy : Option Nat) (p : Place) (mask : BitVec 64) (v : Line) (psn : BitVec 16) : State :=
  { s.writeNow p mask v psn with unf := unfAfter s h.id.inst h.th.sys.run cls va copy p mask }

/-- The writes of a holder that meet a condition are ordered before its reads of the classes that follow this point (R298): those of a phase
that runs, or while a copy is BUSY, only from the next one on. DESIGN CHOICE (log 6): of copies, from the next BCOPY on. -/
def State.order (s : State) (h : Holder) (cs : List PathClass) (on : Unfenced → Bool) : State :=
  if s.unf.isEmpty then s
  else
    let busy := h.th.copies.any fun c => c.st == .busy
    let wait (c : PathClass) : Bool := match c with
      | .fs | .mw => h.th.sys.run
      | .bk => busy
      | _ => false
    { s with unf := (s.unf.map fun x => if x.inst == h.id.inst && on x then
        { x.see (cs.filter fun c => !wait c) with soon := x.soon ++ cs.filter wait } else x).filter Unfenced.open_ }

/-- A phase or a copy of holder `i` begins: its reads follow every point before it. -/
def State.begins (s : State) (i : Nat) (cs : List PathClass) : State :=
  if s.unf.isEmpty then s
  else { s with unf := (s.unf.map fun x => if x.inst == i then
    { x.see (x.soon.filter cs.contains) with soon := x.soon.filter fun c => !cs.contains c } else x).filter Unfenced.open_ }

/-- A phase of holder `i`, or its copy `n`, has ended: its writes precede what follows (R298). -/
def State.phaseEnds (s : State) (i : Nat) : State :=
  if s.unf.isEmpty then s else { s with unf := s.unf.map fun x => if x.inst == i then { x with live := false } else x }
def State.copyEnds (s : State) (i n : Nat) : State :=
  if s.unf.isEmpty then s else { s with unf := s.unf.map fun x => if x.inst == i && x.copy == some n then { x with copy := none } else x }

end Sys2Proof.Machine
end

