-- ==== Sys2Proof/Machine/Open.lean ====
section
/-! DEFINITION. Translated addresses on their way, and the accesses that an invalidation waits for (R358, R360, R362, R367, R368). -/

namespace Sys2Proof.Machine

/-- The address in lanes 0 and 1. -/
def Token.addr (t : Token) : Nat := t.lane 0 + t.lane 1 * 2 ^ 32

/-- Lanes 0 to 2 are valid and not poisoned (R360). -/
def Token.addrOk (t : Token) : Bool := (List.range 3).all fun i => t.ok i && !t.bad i

/-- ATTR of an ADDR token (R360). -/
def Token.phys (t : Token) : Bool := bitAt (t.lane 2) 0
def Token.newpg (t : Token) : Bool := bitAt (t.lane 2) 1
def Token.sp (t : Token) : Bool := bitAt (t.lane 2) 2

/-- The output ports whose tokens reach a destination, through every route that merges on the way. -/
def Holder.origins (h : Holder) : Nat → DstRef → List (Nat × Nat)
  | 0, _ => []
  | fuel + 1, r => match h.route r.cell r.tile r.e with
    | none => []
    | some rt =>
      if rt.src < 64 then [(r.cell, rt.src)]
      else match h.beside r.cell (rt.src / 16) with
        | none => []
        | some n => (h.intoEdge n r.tile (facing (rt.src / 16) * 16 + rt.src % 16)).flatMap fun (q, _) => h.origins fuel q

/-- An output port carries translated addresses: a translation operator's, or one of a reorder or corner-turn element that they reach. -/
def Holder.xlatFed (h : Holder) : Nat → Nat → Nat → Bool
  | 0, _, _ => false
  | fuel + 1, c, id =>
    id == idXlat || ((id == idReord || id == idCturn) && (h.into c id).any fun (r, _) =>
      (h.origins hopFuel r).any fun (oc, o) => h.xlatFed fuel oc o)

/-- A link carries translated addresses; one of an earlier configuration may. -/
def Holder.xlatLink (h : Holder) (r : DstRef) : Bool :=
  r.old || (h.origins hopFuel r).any fun (c, id) => h.xlatFed hopFuel c id

/-- A translated address that meets a condition is on its way in a cell: in an output register, a link, a merge, or a reorder or
corner-turn element that carries them, or in the request queue of an MU port (R358, R362). -/
def Holder.physOpen (h : Holder) (on : Token → Bool) (c : Nat) : Bool :=
  let x := h.cell c
  let phys (t : Token) : Bool := t.counts && t.addrOk && t.phys && !t.sp && on t
  let fed (l : List (DstRef × Nat)) : Bool := l.any fun (r, _) => h.xlatLink r
  let block (b : BlockSt) (id : Nat) : Bool := (b.toks.any (fun e => phys e.2) || b.held.any fun e => phys e.2) && fed (h.into c id)
  (x.outs.any fun o => o.2.tok.any phys && h.xlatFed hopFuel c o.1) ||
  (x.links.any fun l => l.2.q.any phys && h.xlatLink (.ofKey c l.1)) ||
  (x.merges.any fun m => m.2.tok.any phys &&
    fed (if m.1 < 128 then h.into c m.1 else h.intoEdge c ((m.1 - 128) / 128) ((m.1 - 128) % 128))) ||
  block x.reord idReord || block x.cturn idCturn ||
  x.ports.any fun p => p.reqs.any fun r => phys r.1

/-- A holder has translated addresses that meet a condition on their way. -/
def Holder.addrsOpen (h : Holder) (on : Token → Bool) : Bool := (List.range h.dp.cells.length).any (h.physOpen on)

/-- A holder's read stands at a router, for a line that meets a condition (R256). -/
def readStands (s : State) (i : Nat) (on : Nat → Bool) : Bool :=
  s.dies.any fun d => d.m.combs.any fun c => on (c.line * 64) && c.reqs.any fun r => r.1 == i

/-- Accesses of a process made through translations taken before: stores not yet accepted, whoever issued them and wherever that one is
now, and of each of its holders, saved ones too: addresses on their way to an MU port, requests that have issued and not been answered,
and reads that stand at a router. -/
def accessesOpen (s : State) (pid : Nat) : Bool :=
  (s.pendings.any fun x => x.pid == pid) ||
  s.hold.any fun e => e.2.id.pid == pid &&
    (e.2.dp.cells.any (fun x => x.ports.any fun p => p.rob.any fun r => r.res.isNone) || e.2.addrsOpen (fun _ => true) ||
     readStands s e.1 fun _ => true)

/-- An ADDR token names a byte of an HBM page with frame `frame` of `len` bytes, of KIND `k`. -/
def Token.inFrame (t : Token) (k frame len : Nat) : Bool :=
  let a := normPa t.addr
  let j := bits (t.lane 2) 3 3
  t.phys && !t.sp && (j == 1 || j == 2) && a < hbmTop && frame ≤ viewOf k a && viewOf k a < frame + len

/-- Accesses of a process through the old frame of a leaf are open (R358, R367, R368): as in `accessesOpen`; the addresses still on their
way in holder `skip`, whose own access is to wait, do not count. -/
def frameOpen (s : State) (pid skip : Nat) (l : Leaf) : Bool :=
  let n := leafBytes l.lvl
  let on (a : Nat) : Bool := a < hbmTop && l.frame ≤ viewOf l.kind a && viewOf l.kind a < l.frame + n
  s.hold.any fun e => e.2.id.pid == pid &&
    (e.2.dp.cells.any (fun x => x.ports.any fun p => p.rob.any fun r => r.res.isNone && r.req.inFrame l.kind l.frame n) ||
     (e.1 != skip && e.2.addrsOpen fun t => t.inFrame l.kind l.frame n) || readStands s e.1 on)

/-- A write of an agent through a copy-on-write leaf waits for the accesses that are open through the old frame (R358, R367). DESIGN CHOICE
(log 24): they are waited for before the copy; those that the writer's own region has still to make are not, for they may wait for this
write; and the device's own writes wait for none. -/
def cowWaits (s : State) (pid va skip : Nat) : Bool :=
  va < 2 ^ 48 && match leafAt s pid va with
  | .ok l => l.cow && (match leafAllows false true l with | .ok _ => true | .error _ => false) && frameOpen s pid skip l
  | .error _ => false

end Sys2Proof.Machine
end

