-- ==== Sys2Proof/Machine/Access.lean ====
section
/-! DEFINITION. Accesses of the control thread: loads, stores and atomics at the place an address resolves to (R288, R300, R301), pending chain and durable stores (R313, R323), and waiting for them. -/

namespace Sys2Proof.Machine

/-- A store on a page whose writes are pending until done or durable. -/
def Place.deferred (p : Place) : Bool := p.kind == 3 || p.kind == 4

/-- Stores of a die that stand in its chain entry buffer (R313). -/
def chainEntries (s : State) (d : Nat) : Nat := ((s.die d).m.pend.filter fun x => x.ch.isSome).length

/-- A chain that a CHFREE is draining takes no new store (R322). -/
def chainClosing (s : State) (ch : Nat) : Bool :=
  match (s.chain ch).closing with
  | some i => (s.h? i).isSome
  | none => false

/-- Issue a store to a chain or Cellar line (R313, R323); none while the chain entry buffer is full or no recovery entry is free
(R326). An agent's first durable store takes its recovery entry. -/
def issueStore (s : State) (pid die : Nat) (x : Pending) : Option (Nat × State) :=
  if (match x.ch with | some ch => 512 ≤ chainEntries s die || chainClosing s ch | none => false) then none
  else
    let s? := match x.agent with
      | .holder i => if x.durable s then recovAlloc s i pid die else some s
      | _ => some s
    match s? with
    | none => none
    | some s =>
      let (id, s) := s.fresh
      let g := match x.agent with
        | .holder i => rootGang s s.hold.length i
        | _ => 0xFFFFFFFF
      some (id, s.modM die fun m => { m with pend := m.pend ++ [{ x with
        id := id, die := die, pid := pid, gang := g, at_ := s.now die
        escaped := m.pend.any fun y => y.escaped && y.agent == x.agent && y.cls == x.cls && !y.g }] })

/-- The pending store of `n` bytes at a place. -/
def Place.pending (p : Place) (a : Agent) (cls : PathClass) (epoch n v : Nat) : Pending :=
  { agent := a, cls := cls, epoch := epoch, ch := if p.kind == 4 then some p.ch else none
    line := p.addr / 64 * 64, mask := byteMask (p.addr % 64) n, val := lineOf (p.addr % 64) (v % 256 ^ n)
    off := p.addr % 64, width := n }

/-- Words of a line that hold bytes `off` to `off + n - 1`. -/
def wordsOf (off n : Nat) : List Nat := (List.range 16).filter fun i => off < 4 * i + 4 && 4 * i < off + n

/-- A poisoned word holds some of the bytes. -/
def poisonedAt (psn : BitVec 16) (off n : Nat) : Bool := (wordsOf off n).any fun i => psn.getLsbD i

/-- CT loads wait behind a PBAR under PERSIST strict (R327). -/
def loadBarred (s : State) (h : Holder) : Bool :=
  (durablePending s h.agent).any fun x => x.epoch < h.th.loadBar

/-- Why a CT access does not complete. -/
inductive AccErr where
  /-- A trap with cause and INFO. -/
  | trap (cause info : Nat)
  /-- It waits; the instruction is executed again. -/
  | wait
deriving DecidableEq, Repr

/-- Checks of R300 in the order of R121: ALIGN, then ACCESS; then the place. -/
def ctPlace (s : State) (h : Holder) (addr : W64) (n : Nat) (rd wr : Bool) : Except AccErr (Place × State) :=
  if addr.toNat % n != 0 then .error (.trap cALIGN 0)
  else if addrForm addr == .virtual && !s.mayWalk h.id.die h.id.pid (bits addr.toNat 16 32) h.id.inst missCt then .error .wait
  else if wr && addrForm addr == .virtual && cowWaits s h.id.pid (bits addr.toNat 0 48) h.id.inst then .error .wait
  else match resolveCt s h addr rd wr with
    | .error _ => .error (.trap cACCESS 0)
    | .ok r => .ok r

/-- The bytes of a line that a load of `n` bytes takes; a poisoned one traps (R300, R307). -/
def lineBytes (off n : Nat) (v : Line) (psn : BitVec 16) : Except AccErr Nat :=
  if poisonedAt psn off n then .error (.trap cPOISON 0) else .ok (bits v.toNat (8 * off) (8 * n))

/-- A load of `n` bytes (R300): its value, or none while its read of a clean line is under way (R256, R257), with the state after it. Such
a read is absorbed at a router or takes free entries on its path; one that no router has absorbed is then served, for itself and for those
it absorbed. Any other load is served in one step (log 22). -/
def ctLoad (s : State) (h : Holder) (addr : W64) (n : Nat) : Except AccErr (Option Nat × State) :=
  match h.th.wait with
  | .replied v psn => do
    let r ← lineBytes (addr.toNat % 64) n v psn
    .ok (some r, s)
  | .combined id pa =>
    let q := threadReq h.id.inst id
    if absorbed s q || !sliceServes s h 0 ⟨1, pa, 0⟩ then .error .wait
    else .ok (none, giveReply (replied (sliceTook s h 0 ⟨1, pa, 0⟩) q (s.plainLine pa) (s.physPoison pa)) (s.plainLine pa) (s.physPoison pa) q)
  | _ => do
    let (p, _) ← ctPlace s h addr n true false
    if loadBarred s h || s.ownPending h.agent p then .error .wait
    else
      let path := readPath h.id.die (h.id.cellAt 0) p.addr
      if p.sliced && cleanVa s h.id.pid addr.toNat && joins s.acquired (p.addr / 64) path then
        if !portFree s h 0 false || portHeld s h 0 p then .error .wait
        else
          let (id, s) := (portMoved s.acquired h 0 false p).fresh
          .ok (none, combine (s.modThOf h.id.inst fun t => { t with wait := .combined id p.addr }) (p.addr / 64) (threadReq h.id.inst id) path)
      else if !bestGoes s h 0 false p then .error .wait
      else match s.lineAt h.id.die p with
        | none => .error .wait
        | some l => do
          let (v, psn) := s.readAs h.id.inst .ct p l
          let r ← lineBytes (p.addr % 64) n v psn
          .ok (some r, bestWent (s.didRead h.id.inst .ct p) h 0 false p)

/-- A store of `n` bytes (R300, R307, R313, R323). -/
def ctStore (s : State) (h : Holder) (addr : W64) (n v : Nat) : Except AccErr State := do
  let (p, s) ← ctPlace s h addr n false true
  if !bestGoes s h 0 true p then .error .wait
  else if p.deferred then
    match issueStore s h.id.pid h.id.die { p.pending h.agent .ct h.th.sys.pepoch.toNat n v with va := addr.toNat / 64 * 64 } with
    | some (_, s) => .ok (bestWent s h 0 true p)
    | none => .error .wait
  else .ok (bestWent (s.writeAs h .ct (some (addr.toNat / 64 * 64)) none p (byteMask (p.addr % 64) n) (lineOf (p.addr % 64) (v % 256 ^ n)) 0) h 0 true p)

/-- The thread's access waits, for a walk of its granule if that is what is missing (R357). -/
def State.ctWait (s : State) (addr : W64) : State :=
  match s.me? with
  | some h =>
    if h.th.wait == .none && addrForm addr == .virtual then (s.missFor h.id.die h.id.pid h.id.inst missCt [bits addr.toNat 16 32]).getD s else s
  | none => s

/-- End an access: trap with EADDR the address (R130), wait, or go on. -/
def accEnd (s : State) (addr : W64) (r : Except AccErr State) : State :=
  match r with
  | .ok s' => s'
  | .error .wait => s.ctWait addr
  | .error (.trap c i) => trap s false c i addr

/-! ## Atomics -/

/-- The signed value of the low `n` bytes. -/
def signedN (n v : Nat) : Int := if v % 256 ^ n < 256 ^ n / 2 then (v % 256 ^ n : Nat) else (v % 256 ^ n : Nat) - (256 ^ n : Nat)

/-- The new word of an atomic of width `n` (R301); `fadd` is computed where FP32 arithmetic is defined (R238). -/
def atomicNew (fadd : Bool → Nat → Nat → Nat) (op : AtomicOp) (n old b : Nat) : Nat :=
  let m := 256 ^ n
  match op with
  | .store => b % m
  | .add => (old + b) % m
  | .smin => if signedN n b < signedN n old then b % m else old
  | .smax => if signedN n old < signedN n b then b % m else old
  | .umin => min old (b % m)
  | .umax => max old (b % m)
  | .xchg => b % m
  | .cas c => if old == c % m then b % m else old
  | .fadd fl => fadd fl old (b % m) % m

/-- An integer atomic of the control thread at address `addr` (R301): the old value with the state after it, or how it ends. A
chain or Cellar word is read and changed at its home when the store path reaches it (R314, R323); until then the thread waits. -/
def ctAtomic (s : State) (h : Holder) (addr : W64) (n : Nat) (op : AtomicOp) (b : Nat) : Except AccErr (Option Nat × State) :=
  match h.th.wait with
  | .stored old => .ok (some old, s)
  | .store _ => .error .wait
  | .poisoned => .error (.trap cPOISON 0)
  | _ => do
    let (p, s) ← ctPlace s h addr n true true
    if !bestGoes s h 0 true p then .error .wait
    else if p.deferred then
      match issueStore s h.id.pid h.id.die { p.pending h.agent .ct h.th.sys.pepoch.toNat n b with
          op := op, ret := .thread, va := addr.toNat / 64 * 64 } with
      | some (id, s) => .ok (none, (bestWent s h 0 true p).modThOf h.id.inst fun t => { t with wait := .store id })
      | none => .error .wait
    else match s.lineAt h.id.die p with
      | none => .error .wait
      | some (v, psn) =>
        if poisonedAt psn (p.addr % 64) n then .error (.trap cPOISON 0)
        else
          let old := bits v.toNat (8 * (p.addr % 64)) (8 * n)
          let new := atomicNew (fun _ o _ => o) op n old b
          .ok (some old, bestWent (wakeChanged s (s.writeAs h .ct (some (addr.toNat / 64 * 64)) none p
            (byteMask (p.addr % 64) n) (lineOf (p.addr % 64) new) 0) p) h 0 true p)

end Sys2Proof.Machine
end

