-- ==== Sys2Proof/Machine/Ports.lean ====
section
/-! DEFINITION. Channel ports (R223 to R227), messages (R247 to R254) and their arrival (R248, R261). -/

namespace Sys2Proof.Machine

/-- A port that CALL, RECV and RECVW may use: FREE, or CLOSED with an empty queue (R224). -/
def Port.usable (p : Port) : Bool := p.st == .free || (p.st == .closed && p.q.isEmpty)

/-- The other end of a link: (INST, port) (R224). -/
def peerOf (h : Holder) (p : Nat) : Nat × Nat :=
  let x := h.port p
  if x.st == .parent then (x.peer, h.id.callerPort) else (x.peer, 15)

/-- PORT, STREAM and the like: a trap of the A-unit with EADDR 0 (R246). -/
def trapA (s : State) (cause info : Nat) : State := trap s false cause info 0

/-- The place of the link from die `a` to die `b` among the port status entries of `a` (R444). -/
def portOf (a b : Nat) : Nat := if b < a then 9 + b else 8 + b

/-- The link between two dies is up (R444). -/
def linkUp (s : State) (a b : Nat) : Bool := ((s.die a).r.ports.getD (portOf a b) 0).getLsbD 63

/-- Traffic passes from a die to another: over their link, or through a die that has both links up (R444). -/
def reaches (s : State) (a b : Nat) : Bool :=
  a == b || linkUp s a b || (List.range 4).any fun c => c != a && c != b && linkUp s a c && linkUp s c b

/-- Some ZLK port of the package is up (R443). -/
def anyZlkUp (s : State) : Bool := s.dies.any fun d => (d.r.ports.take 9).any fun w => w.getLsbD 63

/-- The ZLK port that a transfer of a die to a package takes (R442, R443): the one that the hash chooses, or, while that is down, the next
that is up. DESIGN CHOICE (log 36): every port reaches every package, and ports follow one another by number. -/
def zlkPortOf (s : State) (pkg d : Nat) : Option Nat :=
  (List.range 36).findSome? fun k =>
    let p := (Config.zlkPort pkg d + k) % 36
    if ((s.die (p / 9)).r.ports.getD (p % 9) 0).getLsbD 63 then some p else none

/-- The record of a failed link (R436). -/
def linkPost (s : State) (pid d pair inst addr : Nat) : State := postFault s pid ⟨cLINKDOWN, pair, d, 7, inst, addr, 0⟩

/-- A FLT of a failed link returns to the thread that is its source: SERR is set, and the record posted (R435). -/
def linkRec (s : State) (pid d pair inst addr : Nat) : State :=
  linkPost (s.modThOf inst fun t => { t with sys := { t.sys with serr := true } }) pid d pair inst addr

/-- QPUSH (R225). A peer that no link reaches is waited for (R444; DESIGN CHOICE, log 36). -/
def execQpush (x : Reg) (bank : Bool) (p : Fin 16) (s : State) : Out :=
  withMe s fun h =>
    let src : Except Nat (W64 × Thread) :=
      if bank then (do let t ← h.th.pushSq (h.th.s x); t.popSq) else .ok (h.th.a x, h.th)
    match src with
    | .error i => trapQueue s i
    | .ok (w, t) => match (h.port p).st with
      | .free => trapA s cPORT 0
      | .recv => trapA s cPORT 1
      | .closed => s.retire fun _ => t
      | _ =>
        let (i, q) := peerOf h p
        match s.h? i with
        | none => s.retire fun _ => t
        | some y =>
          if 16 ≤ (y.port q).q.length || !reaches s h.id.die y.id.die then s
          else readyIfRacked (portPush (s.retire fun _ => t) i q w false) i

/-- A port after a word has been taken: a CLOSED port becomes FREE with its last word (R226). -/
def Port.taken (p : Port) : Port :=
  let q := p.q.tail
  { p with q := q, st := if p.st == .closed && q.isEmpty then .free else p.st, peer := if p.st == .closed && q.isEmpty then 0 else p.peer }

/-- QPOP (R226). -/
def execQpop (x : Reg) (bank : Bool) (p : Fin 16) (s : State) : Out :=
  withMe s fun h =>
    let port := h.port p
    if bank && 16 ≤ h.th.lq.length then trapQueue s 1 else
    match port.q with
    | [] => match port.st with
      | .free => trapA s cPORT 0
      | .closed => trapWith s (fun s => s.modPort s.cur p fun q => { q with st := .free, peer := 0 }) cPORT 2 0
      | _ => s
    | (w, psn) :: _ =>
      if psn then trapWith s (fun s => s.modPort s.cur p fun q => { q with q := q.q.tail }) cPOISON 0 0
      else
        let s := s.modPort s.cur p Port.taken
        s.retire fun t =>
          if bank then
            match (do let t ← t.pushLq w; t.popLq) with
            | .ok (v, t) => t.setS x v
            | .error _ => t
          else t.setA x w

/-! ## Messages -/

/-- A message matches a posted receive (R248). -/
def Recv.matches (r : Recv) (m : Msg) : Bool :=
  (r.src == 0xFFFFFFFF || (!m.remote && r.src.toNat == m.src)) && (m.tag ^^^ r.tag) &&& r.mask == 0

/-- The header word of a delivery (R249). -/
def msgHeader (m : Msg) (max : Nat) : W64 :=
  let n := m.words.length
  BitVec.ofNat 64 (b2n m.remote * 2 ^ 63 + (if m.remote then m.pkg % 2048 else 0) * 2 ^ 52 + b2n (max < n) * 2 ^ 51 +
    (min n max - 1) * 2 ^ 48 + m.tag.toNat * 2 ^ 32 + m.src % 2 ^ 32)

/-- A match delivers the header and the words to the entry's port, which becomes CLOSED; the receiver's WAKE is set (R249). -/
def deliver (s : State) (inst : Nat) (r : Recv) (m : Msg) : State :=
  let ws := (msgHeader m r.max :: m.words.take r.max).map fun w => (w, false)
  readyIfRacked (wakeUp (s.modPort inst r.port fun p => { p with st := .closed, peer := 0, q := p.q ++ ws }) inst) inst

/-- A message reaches its destination's agent (R248, R250): the answer, and the state after it. -/
def arrive (s : State) (pid dst : Nat) (m : Msg) : Nat × State :=
  match s.h? dst with
  | none => (2, s)
  | some h =>
    if h.id.pid != pid || h.id.life == .resident then (2, s)
    else match h.recvs.findIdx? fun r => r.matches m with
      | some i =>
        let r := h.recvs.getD i {}
        (0, deliver (s.modH dst fun h => { h with recvs := listDel h.recvs i }) dst r m)
      | none =>
        if h.oflow.length < 64 then (0, s.modH dst fun h => { h with oflow := h.oflow ++ [m] })
        else if h.ovfl then (1, s)
        else (1, postFault (s.modH dst fun h => { h with ovfl := true }) h.id.pid
               ⟨cMSGOVF, 0, h.id.die, 6, dst, 0, 0⟩)

/-- The words of a SEND: a-registers b to b + n − 1 (R251). -/
def sendWords (t : Thread) (b n : Nat) : List W64 := (List.range n).map fun i => t.a (Fin.ofNat 32 (b + i))

/-- SEND (R251): a malformed descriptor answers 3 and an unset PODID 4 at once, and so does a pod without a link, whose FLT returns with
its record (R435, R443); otherwise the message leaves and the thread waits for its agent's answer. DESIGN CHOICE (log 11): a SEND with
REMOTE = 1 that names the package's own number needs PODID and a port as any other does, and is delivered inside the package. -/
def execSend (f : S3) (n1 : Fin 8) (s : State) : Out :=
  withMe s fun h =>
    match h.th.wait with
    | .send _ => s
    | _ =>
      let a := (h.th.a f.a).toNat
      let remote := bitAt a 59
      let pkg := bits a 48 11
      if bits a 60 4 != 0 || (!remote && pkg != 0) then s.retire fun t => t.setA f.d 3
      else if remote && !s.host.podid.getLsbD 63 then s.retire fun t => t.setA f.d 4
      else if remote && !anyZlkUp s then
        (linkRec s h.id.pid h.id.die (Config.zlkPort pkg h.id.die % 36) h.id.inst 0).retire fun t => t.setA f.d 4
      else
        let (id, s) := s.fresh
        let own := bits s.host.podid.toNat 0 11
        let m : Msg := { src := h.id.inst, tag := BitVec.ofNat 16 (bits a 32 16), words := sendWords h.th f.b.val (n1.val + 1) }
        let dst := bits a 0 32
        let stuck := (s.die h.id.die).m.net.any fun q => q.src == h.id.inst && q.dst == dst && q.escaped
        let pk : Packet := { id := id, pid := h.id.pid, src := h.id.inst, dst := dst, msg := m, out := if remote && pkg != own then some pkg else none
                             at_ := s.now h.id.die, escaped := stuck }
        (s.modM h.id.die fun x => { x with net := x.net ++ [pk] }).modTh fun t => { t with wait := .send id }

/-- The register a waiting SEND writes: its word is read again at the pc. -/
def sendDest (t : Thread) : Option Reg :=
  match decodeWord (t.word t.pc).toNat with
  | .ok (.send f _) => some f.d
  | _ => none

/-- The answer to a SEND reaches its sender: d is written, also in a saved image (R251). -/
def answerSend (s : State) (src id status : Nat) : State :=
  match s.h? src with
  | some h => if h.th.wait == .send id then
      s.modThOf src fun t => (match sendDest t with
        | some d => t.setA d (BitVec.ofNat 64 status)
        | none => t).retire
    else s
  | none => s

/-- MESSAGE_ARRIVAL (R248, R254, R261): packet `i` of a die reaches its destination's agent; packets of one sender to one
destination arrive in the order of their SENDs. A message to another package leaves over ZLK and is answered by that package (log 11),
and returns with status 4 and its record where no port is up or no link leads to the destination's die (R262, R435, R443, R444). -/
def execMessageArrival (d i : Nat) (s : State) : Out :=
  let net := (s.die d).m.net
  match net.getD i { id := 0, src := 0, dst := 0 }, decide (i < net.length) with
  | p, true =>
    if (net.take i).any fun q => q.src == p.src && q.dst == p.dst && q.out == p.out then .next s
    else
      let s := s.modM d fun m => { m with net := listDel m.net i }
      match p.out with
      | some pkg =>
        if !anyZlkUp s then .next (linkRec (answerSend s p.src p.id 4) p.pid d (Config.zlkPort pkg d % 36) p.src 0)
        else
          let (k, s) := (s.modPkg fun q => { q with peerOut := q.peerOut ++ [.msg pkg p.dst p.msg] }).free
          .next (answerSend s p.src p.id (Config.remoteAnswer k))
      | none =>
        let dest := match s.h? p.dst with | some h => h.id.die | none => d
        if !reaches s d dest then .next (linkRec (answerSend s p.src p.id 4) p.pid d (min d dest * 4 + max d dest) p.src 0)
        else
          let (st, s) := arrive s p.pid p.dst p.msg
          .next (answerSend s p.src p.id st)
  | _, false => .next s

/-- Post a receive (R248, R252): it matches the oldest matching overflow entry, or joins the list. True when it matched. -/
def postRecv (s : State) (h : Holder) (r : Recv) : Bool × State :=
  let i := h.id.inst
  let s := s.modPort i r.port fun p => { p with st := .recv, peer := 0 }
  match h.oflow.findIdx? fun m => r.matches m with
  | some k =>
    let m := h.oflow.getD k {}
    (true, deliver (s.modH i fun h => { h with oflow := listDel h.oflow k, ovfl := false }) i r m)
  | none => (false, s.modH i fun h => { h with recvs := h.recvs ++ [r] })

/-- The checks of R252 in table order, and the receive. -/
def recvCheck (h : Holder) (f : S3) (p : Nat) : Except Nat Recv :=
  let a := (h.th.a f.a).toNat
  let b := (h.th.a f.b).toNat
  if 32 ≤ h.recvs.length then .error 2
  else if !(h.port p).usable then .error 3
  else if bits b 4 60 != 0 || bits b 0 4 < 1 || 8 < bits b 0 4 then .error 4
  else .ok { src := BitVec.ofNat 32 a, tag := BitVec.ofNat 16 (bits a 32 16), mask := BitVec.ofNat 16 (bits a 48 16)
             port := p, max := bits b 0 4 }

/-- RECV (R252). -/
def execRecv (f : S3) (p : Fin 16) (s : State) : Out :=
  withMe s fun h =>
    match recvCheck h f p.val with
    | .error e => s.retire fun t => t.setA f.d (BitVec.ofNat 64 e)
    | .ok r => match postRecv s h r with
      | (hit, s) => s.retire fun t => t.setA f.d (if hit then 1 else 0)

/-- RECVW (R252): posts, and waits until the entry is matched. -/
def execRecvw (f : S3) (p : Fin 16) (s : State) : Out :=
  withMe s fun h =>
    match h.th.wait with
    | .recvw q _ => if (h.port q).st == .recv then s else s.retire fun t => t.setA f.d 1
    | _ => match recvCheck h f p.val with
      | .error e => s.retire fun t => t.setA f.d (BitVec.ofNat 64 e)
      | .ok r => match postRecv s h r with
        | (true, s) => s.retire fun t => t.setA f.d 1
        | (false, s) => s.modTh fun t => { t with wait := .recvw p.val f.d.val }

end Sys2Proof.Machine
end

