-- ==== Sys2Proof/Machine/Chains.lean ====
section
/-! DEFINITION. Chains: the store path (R312 to R314), reads (R315), failure and re-linking (R317, R318), the chain instructions (R319 to R322), and durable stores (R323 to R330). -/

namespace Sys2Proof.Machine

/-- Replace a chain. -/
def State.modChain (s : State) (ch : Nat) (f : Chain → Chain) : State :=
  s.modPkg fun p => { p with chains := p.chains.put ch (f (p.chains.getD ch {})) }

/-- Change link `k` of a chain. -/
def Chain.modLink (c : Chain) (k : Nat) (f : ChainLink → ChainLink) : Chain := { c with links := listMod c.links k f }

/-- Put a dirty-table entry (R312). -/
def ChainLink.putDirty (l : ChainLink) (e : Dirty) : ChainLink :=
  { l with dirty := e :: l.dirty.filter fun x => x.line != e.line }

/-! ## Stores that finish -/

/-- The path of an OUT endpoint has accepted the line of a store that has left its buffer: WRITTEN gains 64, once for all stores of the
line (R416). -/
def lineAccepted (s : State) (x : Pending) : State :=
  match x.agent, x.pos with
  | .holder i, some (e, n) =>
    if s.pendings.any fun y => y.agent == x.agent && y.pos == some (e, n) then s
    else s.modH i fun h => { h with eps := listMod h.eps e fun x => { x with written := x.written + 64 } }
  | _, _ => s

/-- A pending store has been performed and is done or durable: it leaves its buffer, its atomic's old value goes where it belongs,
and DONE advances (R314, R325). -/
def finishStore (s : State) (x : Pending) : State :=
  let s := lineAccepted (s.modM x.die fun m => { m with pend := m.pend.filter fun y => y.id != x.id }) x
  let s := match x.agent, x.ret with
    | .holder i, .thread => s.modThOf i fun t => if t.wait == .store x.id then { t with wait := if x.bad then .poisoned else .stored x.old } else t
    | .holder i, .lane c p e l => s.modPkg fun k => { k with laneDone := k.laneDone ++ [⟨i, c, p, e, l, x.old, x.bad⟩] }
    | _, _ => s
  let s := match x.ch with
    | some ch => if x.op == .store || x.bad then s else wakeOn s { kind := 4, addr := x.line + x.off, ch := ch }
    | none => s
  match x.agent with
  | .holder i => settleRegions (recovUpdate s i)
  | _ => s

/-- The line a pending store leaves, from the line it finds: the new line, its poison, and the word an atomic found (R301,
R307, R313). A poisoned word is left unchanged by an atomic. -/
def Pending.apply (x : Pending) (old : Line) (psn : BitVec 16) : Line × BitVec 16 × Nat :=
  match x.op with
  | .store => (lineMerge old x.val x.mask, x.psn ||| (psn &&& ~~~(wholeWords x.mask)), 0)
  | op =>
    let o := bits old.toNat (8 * x.off) (8 * x.width)
    if poisonedAt psn x.off x.width then (old, psn, o)
    else
      let b := bits x.val.toNat (8 * x.off) (8 * x.width)
      let n := atomicNew fadd32 op x.width o b
      (lineMerge old (lineOf x.off n) (byteMask x.off x.width), psn, o)

/-- An atomic meets a poisoned word (R307). -/
def Pending.meetsBad (x : Pending) (psn : BitVec 16) : Bool := x.op != .store && poisonedAt psn x.off x.width

/-- R325: a durable store of epoch e waits for every durable store of the epochs below, those that become durable with it apart. DONE,
which every step keeps up to date (`recovUpdate`), has then reached e. -/
def epochWith (s : State) (x : Pending) (along : Pending → Bool) : Bool :=
  match x.agent with
  | .holder _ => !(durablePending s x.agent).any fun y => y.epoch < x.epoch && !along y
  | _ => true

/-- R325: a durable store of epoch e waits for every durable store of the epochs below, and for DONE ≥ e. -/
def epochReady (s : State) (x : Pending) : Bool :=
  epochWith s x (fun _ => false) && (match x.agent with | .holder i => x.epoch ≤ recovDone s i | _ => true)

/-- Stores of one agent on one path to one line are performed in the order they issued, from whichever die (R297). -/
def firstOfLine (s : State) (x : Pending) : Bool :=
  !s.pendings.any fun y => y.id < x.id && y.agent == x.agent && y.cls == x.cls && y.ch == x.ch && y.line == x.line && y.ver == none

/-- A buffer sends the stores of a dropped head again in its issue order, before its later ones (R318); one that its epoch holds back
(R325) does not stop the others. -/
def inOrder (s : State) (x : Pending) : Bool :=
  !(s.die x.die).m.pend.any fun y => y.again && y.id < x.id && y.ch == x.ch && y.ver == none && (!y.durable s || epochReady s y)

/-! ## Records of Cellar chains (R326, R330) -/

/-- LINKS as R309 packs it. -/
def Chain.linkBits (c : Chain) : Nat := (c.links.zipIdx.map fun (l, k) => l.die * 4 ^ k).sum

/-- Write a Cellar chain's record on every die's recovery page, or delete it (R326). -/
def chainRecord (s : State) (ch : Nat) (valid : Bool) : State :=
  let c := s.chain ch
  (List.range 4).foldl (fun s d =>
    let a := recovAddr d ch
    if valid then
      let s := recovSet (recovSet (recovSet s a 1 1) (a + 1) 1 c.links.length) (a + 2) 2 c.linkBits
      let s := recovSet (recovSet s (a + 4) 2 c.np) (a + 6) 2 (c.epoch.toNat % 2 ^ 16)
      (List.range 4).foldl (fun s k => recovSet s (a + 8 + 6 * k) 6 ((c.link k).pb / 2 ^ 16)) s
    else recovSet s a 1 0) s

/-- After a change of its links a chain's EPOCH gains 1, and it is ACTIVE unless a link has failed (R317, R318). -/
def relinked (s : State) (ch : Nat) : State :=
  let s := s.modChain ch fun c => { c with
    epoch := c.epoch + 1, moving := false, st := if c.links.any (·.failed) then .stalled else .active }
  if (s.chain ch).cellar then chainRecord s ch true else s

/-- A relink is complete once every link that has not failed has taken the lines on their way to it (R318). -/
def Chain.settled (c : Chain) : Bool := c.links.all fun l => l.failed || l.fwd.isEmpty

/-- A relink whose lines have all been taken ends: EPOCH gains 1 and the chain runs again (R318). -/
def settleMove (s : State) (ch : Nat) : State :=
  if (s.chain ch).moving && (s.chain ch).settled then relinked s ch else s

/-! ## The store path of R313 -/

/-- Write a whole line of a link's backing. -/
def linkWrite (s : State) (l : ChainLink) (line : Nat) (v : Line) (psn : BitVec 16) : State :=
  s.physWrite (l.pb + 64 * line) (-1) v psn

/-- A line version applied at the tail: the store it came from is done, and so is every store of an earlier version of the line,
which its value holds (R313); a candidate link receives it too (R318). -/
def tailDone (s : State) (ch line ver : Nat) (v : Line) (psn : BitVec 16) : State :=
  let c := s.chain ch
  let s := match c.cand with
    | some l => linkWrite s l line v psn
    | none => s
  (s.pendings.filter fun x => x.ch == some ch && x.line / 64 == line && (match x.ver with | some v => decide (v ≤ ver) | none => false)).foldl finishStore s

/-- Whether stores and dirty reads go on in a chain (R317, R318, R322). -/
def Chain.running (c : Chain) : Bool :=
  (match c.st with | .active | .catchup => true | _ => false) && !c.moving && c.links.all fun l => !l.failed

/-- The buffers that take a line which `n` versions reach at link `k` have room for it: the link's die, and at the tail the
candidate's (R318, R323). -/
def Chain.roomAt (s : State) (c : Chain) (k line n : Nat) : Bool :=
  pbRoom s ((c.link k).pb + 64 * line) n &&
  (c.links.length ≠ k + 1 || c.cand.all fun l => pbRoom s (l.pb + 64 * line) n)

/-- CHAIN_STORE_HEAD (R313): entry `i` of a die's chain entry buffer takes the next version at the head. -/
def execChainStoreHead (d i : Nat) (s : State) : Out :=
  .next (match (s.die d).m.pend.drop i with
    | [] => s
    | x :: _ => match x.ch with
      | none => s
      | some ch =>
        let c := s.chain ch
        let n := x.line / 64
        let hd := c.link 0
        let full := 2 ≤ c.links.length && 4096 ≤ hd.dirty.length && (hd.dirtyAt n).isNone
        if x.ver.isSome || !c.running || full || !reaches s d hd.die || !firstOfLine s x || !inOrder s x || !c.roomAt s 0 n 1 || (x.durable s && !epochReady s x) then s
        else
          let v := c.seq + 1
          let (line, psn, old) := x.apply (s.physLine (hd.pb + x.line)) (s.physPoison (hd.pb + x.line))
          let s := linkWrite s hd n line psn
          let s := s.modChain ch fun c => { c with seq := v }
          let x' := { x with ver := some v, old := old, bad := x.meetsBad (s.physPoison (hd.pb + x.line)) }
          let s := s.modM d fun m => { m with pend := m.pend.map fun y => if y.id == x.id then x' else y }
          if c.links.length ≤ 1 then tailDone s ch n v line psn
          else s.modChain ch fun c =>
            (c.modLink 0 fun l => l.putDirty ⟨n, v, line, psn⟩).modLink 1 fun l => { l with fwd := l.fwd ++ [⟨n, v, line, psn⟩] })

/-- Link `k` takes one forwarded line. -/
def takeLine (s : State) (ch k : Nat) (f : ChainMsg) : State :=
  let c := s.chain ch
  let l := c.link k
  let newer : Bool := match l.dirtyAt f.line with | some e => decide (f.ver ≤ e.ver) | none => false
  let s := if newer then s else linkWrite s l f.line f.val f.psn
  let s := s.modChain ch fun c => c.modLink k fun l => { l with fwd := l.fwd.tail }
  if k + 1 < c.links.length then
    s.modChain ch fun c =>
      (c.modLink k fun l => if newer then l else l.putDirty ⟨f.line, f.ver, f.val, f.psn⟩).modLink (k + 1)
        fun l => { l with fwd := l.fwd ++ [f] }
  else
    (tailDone s ch f.line f.ver f.val f.psn).modChain ch fun c => c.modLink (k - 1) fun l => { l with acks := l.acks ++ [f.ver] }

/-- The stores of a chain that the tail's taking of some forwarded lines makes done. -/
def doneBy (s : State) (ch : Nat) (l : List ChainMsg) : List Pending :=
  s.pendings.filter fun x => x.ch == some ch && l.any fun f => f.line == x.line / 64 && x.ver.any fun v => v ≤ f.ver

/-- The lines that the tail takes in one step: the next one, and with it those behind it whose stores R325 lets become durable no later;
none while their epochs or the persist buffer hold them back. -/
def tailBatch (s : State) (ch k : Nat) (l : List ChainMsg) : Option (List ChainMsg) :=
  let c := s.chain ch
  let ok (n : Nat) : Bool :=
    let ds := doneBy s ch (l.take n)
    (!c.cellar || ds.all fun x => epochWith s x fun y => ds.any fun z => z.id == y.id) && (l.take n).all fun f => c.roomAt s k f.line n
  ((List.range l.length).find? fun n => ok (n + 1)).map fun n => l.take (n + 1)

/-- CHAIN_FORWARD (R313): link `k` takes the next forwarded line; the tail takes it once it may be done there (R323, R325). -/
def execChainForward (ch k : Nat) (s : State) : Out :=
  let c := s.chain ch
  let l := c.link k
  .next (match l.fwd with
    | [] => s
    | f :: _ =>
      if k == 0 || c.links.length ≤ k || l.failed then s
      else
        let s := if k + 1 < c.links.length then (if c.roomAt s k f.line 1 then takeLine s ch k f else s)
          else match tailBatch s ch k l.fwd with
            | some fs => fs.foldl (fun s f => takeLine s ch k f) s
            | none => s
        settleMove s ch)

/-- CHAIN_ACK (R313): link `k` takes the next acknowledgement, frees its entry and passes it on. -/
def execChainAck (ch k : Nat) (s : State) : Out :=
  let l := (s.chain ch).link k
  .next (match l.acks with
    | [] => s
    | v :: rest =>
      s.modChain ch fun c =>
        let c := c.modLink k fun l => { l with acks := rest, dirty := l.dirty.filter fun e => e.ver != v }
        if k == 0 then c else c.modLink (k - 1) fun l => { l with acks := l.acks ++ [v] })

/-! ## Ranges -/

/-- The parts of a range of storage that lie in the backing of a chain other than `ch`, as base and number of lines (R311). -/
def backingParts (s : State) (ch pa len : Nat) : List (Nat × Nat) :=
  (s.pkg.chains.filter fun e => e.1 != ch && e.2.st != .free).flatMap fun e =>
    (e.2.links ++ e.2.cand.toList).filterMap fun l =>
      let a := max pa l.pb
      let b := min (pa + len) (l.pb + e.2.np * 2 ^ 24)
      if a < b then some (a, (b - a) / 64) else none

/-- Some parts of a range, which now stand `at_` instead of `pa`, have unspecified contents (R311). -/
def spoilParts (t s : State) (pa at_ : Nat) (l : List (Nat × Nat)) : State :=
  l.foldl (fun t (a, n) => (List.range n).foldl (fun t i =>
    t.physWrite (at_ + (a - pa) + 64 * i) (-1) (s.backingLine (at_ + (a - pa) + 64 * i)) 0) t) t

/-- Write zero to a range of storage and clear its poison (R322). -/
def zeroRange (s : State) (pa len : Nat) : State :=
  let inR (a : Nat) : Bool := pa ≤ a && a < pa + len
  let s := s.modMem fun m => { m with bytes := m.bytes.filter fun c => !inR c.1, poison := m.poison.filter fun w => !inR (4 * w) }
  { s with dies := s.dies.map fun d => { d with m := { d.m with pb := d.m.pb.filter fun l => !inR (64 * l.1) } } }

/-- Write zero to a backing of chain `ch` (R322); where another chain has its backing too, the lines have unspecified contents (R311). -/
def wipeRange (s : State) (ch pa len : Nat) : State := spoilParts (zeroRange s pa len) s pa pa (backingParts s ch pa len)

/-- Copy a range of storage, bytes and poison, persist buffers included. -/
def copyBytes (s : State) (src dst len : Nat) : State :=
  let inR (b a : Nat) : Bool := b ≤ a && a < b + len
  let lines := s.dies.flatMap fun d => d.m.pb.filter fun l => inR src (64 * l.1)
  let srcBytes := s.mem.bytes.filter fun c => inR src c.1
  let srcPsn := s.mem.poison.filter fun w => inR src (4 * w)
  let s := zeroRange s dst len
  let s := s.modMem fun m => { m with
    bytes := srcBytes.foldl (fun t c => memSet t (dst + (c.1 - src)) c.2) m.bytes
    poison := srcPsn.foldl (fun t w => setAdd t ((dst + (4 * w - src)) / 4)) m.poison }
  lines.foldl (fun s l => s.stackWrite (dst + (64 * l.1 - src)) l.2.val l.2.psn) s

/-- Copy a backing of chain `ch` to another of its own (R318, R322), with the same care for other chains. -/
def copyRange (s : State) (ch src dst len : Nat) : State :=
  spoilParts (spoilParts (copyBytes s src dst len) s src dst (backingParts s ch src len)) s dst dst (backingParts s ch dst len)

/-! ## Chain instructions -/

/-- The physical base of a backing that meets R321 for an extent of `np` × 16 MiB. -/
def backing (s : State) (pid base np : Nat) (cellar : Bool) : Option Nat :=
  let pageAt (i : Nat) : Option Nat :=
    match leafAt s pid (base + i * 2 ^ 24) with
    | .ok l => if l.w && (l.lvl == 1 || l.lvl == 2) && l.kind == (if cellar then 3 else 1) then
        some (l.frame + (base + i * 2 ^ 24) % leafBytes l.lvl) else none
    | .error _ => none
  if base % 2 ^ 24 != 0 || 2 ^ 48 < base + np * 2 ^ 24 then none
  else match pageAt 0 with
    | none => none
    | some b =>
      if (List.range np).all fun i => pageAt i == some (b + i * 2 ^ 24) && dieOfPa (b + i * 2 ^ 24 + 2 ^ 24 - 1) == dieOfPa b
      then some b else none

/-- A CHLINK descriptor (R320). -/
structure ChDesc where
  len : Nat
  cellar : Bool
  adopt : Bool
  req : Bool
  id : Nat
  back : List Nat

/-- The line of a CHLINK descriptor, as a CT load finds it (R319): none when unreadable, or the load waits. -/
def descLine (s : State) (h : Holder) (a : W64) : Except AccErr (Line × BitVec 16) := do
  let (p, _) ← ctPlace s h a 64 true false
  if loadBarred s h || s.ownPending h.agent p then .error .wait
  else match s.lineAt h.id.die p with
    | none => .error .wait
    | some r => .ok r

/-- Check a CHLINK descriptor (R320). -/
def chDesc (v : Line) (psn : BitVec 16) : Option ChDesc :=
  let l := v.toNat
  let len := bits l 0 8
  let kind := bits l 8 8
  let flags := bits l 16 8
  let id := bits l 24 8
  let back := (List.range 4).map fun k => bits l (128 + 64 * k) 64
  if psn != 0 || len < 1 || 4 < len || 1 < kind || 3 ≤ flags || 63 < id || (flags == 0 && id != 0) || bits l 32 96 != 0 ||
     bits l 384 128 != 0 || (back.drop len).any (· != 0) then none
  else some ⟨len, kind == 1, bitAt flags 0, bitAt flags 1, id, back.take len⟩

/-- The bases of every backing, on different dies (R321). -/
def backings (s : State) (pid np : Nat) (d : ChDesc) : Option (List Nat) :=
  let bs := d.back.filterMap fun b => backing s pid b np d.cellar
  if bs.length == d.len && (bs.map dieOfPa).Nodup then some bs else none

/-- CHLINK of a well-formed descriptor (R322): the status and the new chain. -/
def chlink (s : State) (h : Holder) (d : ChDesc) (b : W64) : Nat × State :=
  let np := b.toNat
  if d.adopt && (s.chain d.id).st != .orphan then (1, s)
  else if np < 1 || 4096 < np then (2, s)
  else match backings s h.id.pid np d with
    | none => (3, s)
    | some bs =>
      let free (i : Nat) : Bool := (s.chain i).st == .free
      let id? := if d.adopt then some d.id else if d.req then (if free d.id then some d.id else none) else firstBelow 64 free
      match id? with
      | none => (4, s)
      | some id =>
        let o := s.chain id
        if d.adopt && !(o.cellar == d.cellar && o.links.map (·.pb) == bs) then (8, s)
        else
          let s := if d.adopt then
              let t := bs.getLastD 0
              (bs.dropLast).foldl (fun s b => copyRange s id t b (np * 2 ^ 24)) s
            else bs.foldl (fun s b => wipeRange s id b (np * 2 ^ 24)) s
          let s := s.modChain id fun o => { o with
            st := .active, cellar := d.cellar, np := np, owner := h.id.pid, closing := none, moving := false, cand := none, prog := 0
            links := bs.map fun b => { die := dieOfPa b, pb := b } }
          let s := if d.cellar then chainRecord s id true else s
          (id * 2 ^ 8, s)

/-- Chain instructions are applied one at a time per chain (R322): another agent's CHFREE is draining it. -/
def chainHeld (s : State) (h : Holder) (ch : Nat) : Bool := chainClosing s ch && (s.chain ch).closing != some h.id.inst

/-- CHLINK (R322). Its descriptor is read before any other check (R319). One that names a chain by its id waits while another agent's CHFREE
drains it, for chain instructions on one chain are applied in order. -/
def execChlink (f : S3) (s : State) : Out :=
  withMe s fun h =>
    let done (s : State) (r : Nat) : State := s.retire fun t => t.setA f.d (BitVec.ofNat 64 r)
    match descLine s h (h.th.a f.a) with
    | .error .wait => s.ctWait (h.th.a f.a)
    | .error (.trap _ _) => done s 2
    | .ok (v, psn) => match chDesc v psn with
      | none => done s 2
      | some d =>
        if (d.adopt || d.req) && chainHeld s h d.id then s
        else
          let (r, s) := chlink s h d (h.th.a f.b)
          done s r

/-- Status 1 of R319: the chain a register names, or none. -/
def chainNamed (s : State) (h : Holder) (a : W64) : Option Nat :=
  let c := s.chain a.toNat
  if 64 ≤ a.toNat || c.st == .free || c.owner != h.id.pid then none else some a.toNat

/-- Status 5 of R319: RELINK or CATCHUP, or a CHADD pending. -/
def Chain.busy (c : Chain) : Bool := c.moving || c.st == .catchup || c.cand.isSome

/-- Finish every store whose version the new tail holds, and clear its dirty table (R318). -/
def settleTail (s : State) (ch : Nat) : State :=
  let c := s.chain ch
  let k := c.links.length - 1
  let es := (c.link k).dirty
  let s := es.foldl (fun s e => tailDone s ch e.line e.ver e.val e.psn) s
  s.modChain ch fun c =>
    let c := c.modLink k fun l => { l with dirty := [], fwd := if k == 0 then [] else l.fwd }
    if k == 0 then c else c.modLink (k - 1) fun l => { l with acks := l.acks ++ es.map (·.ver) }

/-- A store of a chain whose head is dropped, with the versions that had reached link 1 no longer among `lost`: one that has not reached
it is sent again (R318). -/
def Pending.resend (ch : Nat) (lost : List Nat) (x : Pending) : Pending :=
  if x.ch == some ch && x.ver.all lost.contains then { x with ver := none, again := true } else x

/-- A die that no other die can reach is lost to a chain whose head stands elsewhere (R317). -/
def dieLost (s : State) (d : Nat) : Bool := (List.range 4).all fun e => e == d || !linkUp s d e

/-- Stores that have not reached the head of a chain and whose writer's own die is lost are lost with it (R318). -/
def lostGone (s : State) (ch head : Nat) : State :=
  let keep (d : Nat) (x : Pending) : Bool := x.ch != some ch || x.ver.isSome || d == head || !dieLost s d
  settleRegions { s with dies := s.dies.zipIdx.map fun ((x : Die), d) => { x with m := { x.m with pend := x.m.pend.filter (keep d) } } }

/-- Remove link `k` under R318; the record of a Cellar chain follows before any store is done under the new arrangement. -/
def dropLink (s : State) (ch k : Nat) : State :=
  let c := s.chain ch
  let last := c.links.length - 1
  let gone := c.link k
  let record (s : State) : State := if c.cellar then chainRecord s ch true else s
  if k == 0 then
    -- stores that had not reached link 1 are sent again
    let lost := ((c.link 1).fwd.filter fun f => !((c.link 1).dirtyAt f.line).any fun e => f.ver ≤ e.ver).map (·.ver)
    let s : State := { s with dies := s.dies.map fun (x : Die) => { x with m := { x.m with pend := x.m.pend.map (Pending.resend ch lost) } } }
    let s := record (s.modChain ch fun c => { c with
      links := (c.links.drop 1).zipIdx.map fun (l, i) => if i == 0 then { l with fwd := [] } else l })
    if (s.chain ch).links.length == 1 then settleTail s ch else s
  else if k == last then
    settleTail (record (s.modChain ch fun c => { c with links := c.links.take last })) ch
  else
    let again := (c.link (k - 1)).dirty.reverse.map fun e => (⟨e.line, e.ver, e.val, e.psn⟩ : ChainMsg)
    record (s.modChain ch fun c => { c with links :=
      (listDel ((listMod c.links (k - 1) fun l => { l with acks := l.acks ++ gone.acks })) k).zipIdx.map fun (l, i) =>
        if i == k then { l with fwd := l.fwd ++ again } else l })

/-- The stores that a drop of link `k` makes done, at the link that becomes the tail, may all become durable (R325). -/
def dropMay (s : State) (ch k : Nat) : Bool :=
  let c := s.chain ch
  let last := c.links.length - 1
  let t := if k == 0 then (c.link 1).dirty else if k == last then (c.link (k - 1)).dirty else []
  let ds := doneBy s ch (t.map fun e => ⟨e.line, e.ver, e.val, e.psn⟩)
  !c.cellar || c.links.any (·.failed) || !(k == last || (k == 0 && c.links.length == 2)) ||
    ds.all fun x => epochWith s x fun y => ds.any fun z => z.id == y.id

/-- A CHDROP whose checks have passed (R318, R322): the chain is RELINK until the lines forwarded again have been taken. -/
def startDrop (s : State) (h : Holder) (ch k : Nat) : State :=
  let e := (s.chain ch).epoch.toNat
  let s := (lostGone (dropLink s ch k) ch ((s.chain ch).link (if k == 0 then 1 else 0)).die).modChain ch fun c => { c with st := .relink, moving := true }
  (settleMove s ch).modThOf h.id.inst fun t => { t with wait := .relink ch e }

/-- CHDROP (R318, R322): d is written when the relink is complete. In a chain of KIND 1 whose links all run, it waits until the stores that it
makes done may become durable (R325); with a failed link R318's word stands, that every store the new tail has applied is done (DESIGN
CHOICE, log 20). -/
def execChdrop (f : S3) (s : State) : Out :=
  withMe s fun h =>
    let die := (h.th.a f.b).toNat
    let done (s : State) (r : Nat) : State := s.retire fun t => t.setA f.d (BitVec.ofNat 64 r)
    match h.th.wait with
    | .relink ch e => if (s.chain ch).epoch.toNat == e && (s.chain ch).moving then s else done s 0
    | _ => match chainNamed s h (h.th.a f.a) with
      | none => done s 1
      | some ch =>
        let c := s.chain ch
        if chainHeld s h ch then s
        else if 3 < die then done s 2
        else if c.busy then done s 5
        else match c.linkOn die with
          | none => done s 6
          | some k =>
            if c.links.length == 1 then done s 7
            else if !dropMay s ch k then s
            else startDrop s h ch k

/-- CHADD (R318, R322). -/
def execChadd (f : S3) (s : State) : Out :=
  withMe s fun h =>
    let base := (h.th.a f.b).toNat
    let done (s : State) (r : Nat) : State := s.retire fun t => t.setA f.d (BitVec.ofNat 64 r)
    match chainNamed s h (h.th.a f.a) with
    | none => done s 1
    | some ch =>
      let c := s.chain ch
      if chainHeld s h ch then s
      else match (if base < 2 ^ 48 then backing s h.id.pid base c.np c.cellar else none) with
        | none => done s 3
        | some b =>
          if c.busy then done s 5
          else if (c.linkOn (dieOfPa b)).isSome then done s 6
          else if c.links.length == 4 then done s 7
          else done (s.modChain ch fun c => { c with cand := some { die := dieOfPa b, pb := b }, prog := 0, st := .catchup }) 0

/-- STATE of a chain as a number (R309). -/
def ChainState.code : ChainState → Nat
  | .free => 0 | .active => 1 | .stalled => 2 | .relink => 3 | .catchup => 4 | .orphan => 5

/-- The word CHSTAT returns (R322). -/
def chainWord (c : Chain) : Nat :=
  c.epoch.toNat * 2 ^ 32 + (if c.cand.isSome then min c.prog 63 else 0) * 2 ^ 26 +
  (match c.cand with | some l => l.die | none => 0) * 2 ^ 24 + c.linkBits * 2 ^ 16 + (c.links.length - 1) * 2 ^ 12 +
  b2n c.cellar * 2 ^ 11 + c.st.code * 2 ^ 8

/-- CHSTAT (R322). -/
def execChstat (f : S2) (s : State) : Out :=
  withMe s fun h =>
    let done (r : Nat) : State := s.retire fun t => t.setA f.d (BitVec.ofNat 64 r)
    match chainNamed s h (h.th.a f.a) with
    | none => done 1
    | some ch => if chainHeld s h ch then s else done (chainWord (s.chain ch))

/-- CHFREE (R322): new stores to the chain wait while its buffers and dirty tables drain. STATE and OWNER alone change (R309). -/
def execChfree (f : S2) (s : State) : Out :=
  withMe s fun h =>
    match chainNamed s h (h.th.a f.a) with
    | none => s.retire fun t => t.setA f.d 1
    | some ch =>
      let c := s.chain ch
      if chainHeld s h ch then s
      else if c.busy then (s.modChain ch fun c => { c with closing := none }).retire fun t => t.setA f.d 5
      else if s.pendings.any (fun x => x.ch == some ch) || c.links.any (fun l => !l.dirty.isEmpty || !l.fwd.isEmpty || !l.acks.isEmpty) then
        s.modChain ch fun c => { c with closing := some h.id.inst }
      else
        let s := if c.cellar then chainRecord s ch false else s
        let s := s.modChain ch fun c => { c with st := .free, owner := 0, closing := none }
        s.retire fun t => t.setA f.d 0

/-- A link of a chain fails (R317): the chain stalls and the owner learns of it. -/
def chainFail (s : State) (ch d : Nat) : State :=
  let c := s.chain ch
  match c.st, c.linkOn d with
  | .free, _ => s
  | .orphan, _ => s
  | _, none => s
  | _, some k =>
    if (c.link k).failed then s
    else
      let s := settleMove (s.modChain ch fun c => { c.modLink k fun l => { l with failed := true } with st := .stalled }) ch
      postFault s c.owner ⟨cCHAINFAIL, ch % 64 + d % 4 * 64, d % 4, 5, ch, 0, 0⟩

/-- CHAINFAIL (R317). -/
def execChainfail (ch d : Nat) (s : State) : Out := .next (chainFail s ch d)

/-- CHAIN_HANDOVER (R318): the copy to the candidate goes on by a sixty-fourth of the extent; when every line has been copied the
candidate becomes the tail in one step. -/
def execChainHandover (ch : Nat) (s : State) : Out :=
  let c := s.chain ch
  .next (match c.cand with
    | none => s
    | some l =>
      let tail := c.link (c.links.length - 1)
      if tail.failed || l.failed then s
      else if c.prog < 64 then
        let part := c.np * 2 ^ 18
        (copyRange s ch (tail.pb + c.prog * part) (l.pb + c.prog * part) part).modChain ch fun c => { c with prog := c.prog + 1 }
      else relinked (s.modChain ch fun c => { c with links := c.links ++ [l], cand := none, prog := 0 }) ch)

/-! ## Durable stores -/

/-- The list of R299 once a store of a holder to a Cellar line is durable: its reads on other paths may still miss it (R327). -/
def cellarUnf (s : State) (x : Pending) : List Unfenced :=
  match x.agent with
  | .holder i => unfAfter s i ((s.h? i).any fun h => h.th.sys.run) x.cls (some x.va) x.copy ⟨3, x.line, 0⟩ x.mask
  | _ => s.unf

/-- DURABLE_ACCEPT (R323, R325): pending store `i` of a die to a Cellar page is accepted by the controller of its line's die, when
a link leads there, its epoch allows it and the persist buffer has space. -/
def execDurableAccept (d i : Nat) (s : State) : Out :=
  .next (match (s.die d).m.pend.drop i with
    | [] => s
    | x :: _ =>
      if x.ch.isSome || !reaches s x.die (dieOfPa x.line) || !pbRoom s x.line 1 || !firstOfLine s x || !epochReady s x then s
      else
        let (line, psn, old) := x.apply (s.plainLine x.line) (s.physPoison x.line)
        let written : State := { s.plainWrite x.line (-1) line psn with unf := cellarUnf s x }
        finishStore written { x with old := old, bad := x.meetsBad (s.physPoison x.line) })

/-- Write every line of a die's persist buffer to its stack. -/
def drainBuffer (s : State) (d : Nat) : State :=
  let ls := (s.die d).m.pb
  let s := s.modMem fun m => ls.foldl (fun m (k, l) => { m with
    bytes := memSetMask m.bytes (64 * k) (-1) l.val
    poison := markPoison m.poison (64 * k) l.psn (~~~l.psn) }) m
  s.modM d fun m => { m with pb := [] }

/-- PERSIST_BUFFER_DRAIN (R323): one line leaves the buffer for its stack. -/
def execPersistBufferDrain (d : Nat) (s : State) : Out :=
  .next (match (s.die d).m.pb with
    | [] => s
    | (k, l) :: rest =>
      let s := s.modMem fun m => { m with
        bytes := memSetMask m.bytes (64 * k) (-1) l.val
        poison := markPoison m.poison (64 * k) l.psn (~~~l.psn) }
      s.modM d fun m => { m with pb := rest })

end Sys2Proof.Machine
end

