-- ==== Sys2Proof/Machine/SpecFn.lean ====
section
/-! DEFINITION. The special functions of a stage, as the exact algorithms of R179 to R187. -/

namespace Sys2Proof.Machine

/-- TX[j] = 2^(j/32), as FP32 codes of rne (R180). -/
def tabTX : List Nat :=
  [0x3F800000, 0x3F82CD87, 0x3F85AAC3, 0x3F88980F, 0x3F8B95C2, 0x3F8EA43A, 0x3F91C3D3, 0x3F94F4F0,
   0x3F9837F0, 0x3F9B8D3A, 0x3F9EF532, 0x3FA27043, 0x3FA5FED7, 0x3FA9A15B, 0x3FAD583F, 0x3FB123F6,
   0x3FB504F3, 0x3FB8FBAF, 0x3FBD08A4, 0x3FC12C4D, 0x3FC5672A, 0x3FC9B9BE, 0x3FCE248C, 0x3FD2A81E,
   0x3FD744FD, 0x3FDBFBB8, 0x3FE0CCDF, 0x3FE5B907, 0x3FEAC0C7, 0x3FEFE4BA, 0x3FF5257D, 0x3FFA83B3]
/-- RT[j] = 1 / (1 + j/32) (R180). -/
def tabRT : List Nat :=
  [0x3F800000, 0x3F783E10, 0x3F70F0F1, 0x3F6A0EA1, 0x3F638E39, 0x3F5D67C9, 0x3F579436, 0x3F520D21,
   0x3F4CCCCD, 0x3F47CE0C, 0x3F430C31, 0x3F3E82FA, 0x3F3A2E8C, 0x3F360B61, 0x3F321643, 0x3F2E4C41,
   0x3F2AAAAB, 0x3F272F05, 0x3F23D70A, 0x3F20A0A1, 0x3F1D89D9, 0x3F1A90E8, 0x3F17B426, 0x3F14F209,
   0x3F124925, 0x3F0FB824, 0x3F0D3DCB, 0x3F0AD8F3, 0x3F088889, 0x3F064B8A, 0x3F042108, 0x3F020821]
/-- LG[j] = log2(1 + j/32) (R180). -/
def tabLG : List Nat :=
  [0x00000000, 0x3D35D69C, 0x3DB31FB8, 0x3E0462C4, 0x3E2E00D2, 0x3E567AF1, 0x3E7DE0B6, 0x3E92203D,
   0x3EA4D3C2, 0x3EB7110E, 0x3EC8DDD4, 0x3EDA3F60, 0x3EEB3A9F, 0x3EFBD42B, 0x3F060828, 0x3F0DF989,
   0x3F15C01A, 0x3F1D5DA0, 0x3F24D3C2, 0x3F2C2411, 0x3F335004, 0x3F3A58FF, 0x3F41404F, 0x3F480731,
   0x3F4EAED0, 0x3F553848, 0x3F5BA4A4, 0x3F61F4E5, 0x3F6829FB, 0x3F6E44CD, 0x3F744636, 0x3F7A2F04]
/-- QT[j] = 1 / √(1 + j/16) (R180). -/
def tabQT : List Nat :=
  [0x3F800000, 0x3F785B42, 0x3F715BEF, 0x3F6AEBF5, 0x3F64F92E, 0x3F5F7483, 0x3F5A514A, 0x3F5584CD,
   0x3F5105EC, 0x3F4CCCCD, 0x3F48D2AB, 0x3F4511A3, 0x3F41848F, 0x3F3E26EB, 0x3F3AF4BA, 0x3F37EA74,
   0x3F3504F3, 0x3F32416A, 0x3F2F9D53, 0x3F2D166C, 0x3F2AAAAB, 0x3F285835, 0x3F261D5F, 0x3F23F8A2,
   0x3F21E89B, 0x3F1FEC04, 0x3F1E01B3, 0x3F1C2896, 0x3F1A5FB2, 0x3F18A61F, 0x3F16FB06, 0x3F155DA2,
   0x3F13CD3A, 0x3F124925, 0x3F10D0C3, 0x3F0F6381, 0x3F0E00D5, 0x3F0CA83F, 0x3F0B5948, 0x3F0A137D,
   0x3F08D677, 0x3F07A1D2, 0x3F067532, 0x3F05503E, 0x3F0432A5, 0x3F031C1A, 0x3F020C52, 0x3F01030A]
/-- c1 to c3 (R180). -/
def coefC : List Nat :=
  [0x3F317218, 0x3E75FDF0, 0x3D635847]
/-- d1 to d5 (R180). -/
def coefD : List Nat :=
  [0x3FB8AA3B, 0xBF38AA3B, 0x3EF6384F, 0xBEB8AA3B, 0x3E93BB63]
/-- a1, a3, a5, a7, a9 (R180). -/
def coefA : List Nat :=
  [0x40C90FDB, 0xC2255DE7, 0x42A335E3, 0xC2996966, 0x42283C1A]
/-- b2, b4, b6, b8 (R180). -/
def coefB : List Nat :=
  [0xC19DE9E6, 0x4281E0F8, 0xC2AAE9E4, 0x4270FA83]

/-! ## Exact dyadic numbers -/

/-- m × 2^e. -/
structure Dy where
  m : Int
  e : Int
deriving DecidableEq, Repr, Inhabited

/-- An integer. -/
def Dy.int (z : Int) : Dy := ⟨z, 0⟩
/-- Exact operations. -/
def Dy.add (a b : Dy) : Dy :=
  let q := min a.e b.e
  ⟨a.m * 2 ^ (a.e - q).toNat + b.m * 2 ^ (b.e - q).toNat, q⟩
def Dy.mul (a b : Dy) : Dy := ⟨a.m * b.m, a.e + b.e⟩
def Dy.neg (a : Dy) : Dy := ⟨-a.m, a.e⟩
def Dy.sub (a b : Dy) : Dy := a.add b.neg
/-- a × 2^k. -/
def Dy.scale (a : Dy) (k : Int) : Dy := ⟨a.m, a.e + k⟩

/-- rne(v) of R179: FP32 precision, unbounded exponent. -/
def Dy.rne (a : Dy) : Dy :=
  if a.m == 0 then ⟨0, 0⟩
  else
    let q : Int := Nat.log2 a.m.natAbs + a.e - 23
    if q ≤ a.e then a else ⟨signed (a.m < 0) (shiftRound false a.m.natAbs (a.e - q)), q⟩

/-- fin(v) of R179, as an FP32 code. -/
def Dy.fin (a : Dy) : Nat := f32.enc false false (.fin (a.m < 0) a.m.natAbs a.e)

/-- floor(v). -/
def Dy.floor (a : Dy) : Int := if 0 ≤ a.e then a.m * 2 ^ a.e.toNat else a.m / 2 ^ (-a.e).toNat

/-- rint(v): nearest integer, ties to even (R179). -/
def Dy.rint (a : Dy) : Int := signed (a.m < 0) (shiftRound false a.m.natAbs a.e)

/-- An FP32 code as a dyadic number. -/
def dyOf (c : Nat) : Dy :=
  match f32.dec c with
  | .fin s m e => ⟨signed s m, e⟩
  | _ => ⟨0, 0⟩

/-- Entry `j` of a table. -/
def tabAt (t : List Nat) (j : Nat) : Dy := dyOf (t.getD j 0)

/-- x = f × 2^e with 1 ≤ f < 2, for x > 0. -/
def Dy.normal (a : Dy) : Dy × Int :=
  let l := Nat.log2 a.m.natAbs
  (⟨a.m, -(l : Int)⟩, l + a.e)

/-- `t ← rne(t × r)`, `t ← rne(t + c)` over a list of coefficients, ending in an addition (Horner's rule as R181 to R186 write it). -/
def horner (r : Dy) : List Dy → Dy → Dy
  | [], t => t
  | c :: cs, t => horner r cs ((t.mul r).rne.add c).rne

/-! ## The functions on finite arguments -/

/-- FEXP2 (R181). -/
def fexp2 (x : Dy) : Nat :=
  if 0 ≤ (x.sub (Dy.int 128)).m then f32.inf
  else if (x.add (Dy.int 160)).m < 0 then 0
  else
    let n := (x.scale 5).rint
    let j := n % 32
    let m := (n - j) / 32
    let r := x.sub ((Dy.int n).scale (-5))
    let t := horner r [tabAt coefC 1, tabAt coefC 0] (tabAt coefC 2)
    let t := (t.mul r).rne
    let tx := tabAt tabTX j.toNat
    ((tx.add (tx.mul t).rne).rne.scale m).fin

/-- FLOG2 (R182). -/
def flog2 (x : Dy) : Nat :=
  let (f, e) := x.normal
  let j := ((f.sub (Dy.int 1)).scale 5).floor
  let u := ((f.sub ((Dy.int (32 + j)).scale (-5))).mul (tabAt tabRT j.toNat)).rne
  let t := horner u [tabAt coefD 3, tabAt coefD 2, tabAt coefD 1, tabAt coefD 0] (tabAt coefD 4)
  let t := (t.mul u).rne
  ((Dy.int e).add ((tabAt tabLG j.toNat).add t).rne).fin

/-- FRCP of |x| (R183). -/
def frcp (x : Dy) : Nat :=
  let (f, e) := x.normal
  let step (y : Dy) : Dy :=
    let h := ((Dy.int 1).sub (f.mul y)).rne
    (y.add (y.mul h).rne).rne
  ((step (step (step (tabAt tabRT ((f.sub (Dy.int 1)).scale 5).floor.toNat)))).scale (-e)).fin

/-- f, k and y of R184. -/
def frsqCore (x : Dy) : Dy × Int × Dy :=
  let (f0, e) := x.normal
  let f := if e % 2 == 0 then f0 else f0.scale 1
  let k := e / 2
  let h2 := (f.scale (-1)).rne
  let step (y : Dy) : Dy :=
    let t := (y.mul y).rne
    let t := (h2.mul t).rne
    let t := ((⟨1, -1⟩ : Dy).sub t).rne
    (y.add (y.mul t).rne).rne
  (f, k, step (step (step (tabAt tabQT ((f.sub (Dy.int 1)).scale 4).floor.toNat))))

/-- FRSQ (R184). -/
def frsq (x : Dy) : Nat :=
  let (_, k, y) := frsqCore x
  (y.scale (-k)).fin

/-- FSQRT (R185). -/
def fsqrt (x : Dy) : Nat :=
  let (f, k, y) := frsqCore x
  let s := (f.mul y).rne
  let dl := (f.sub (s.mul s)).rne
  let s := (s.add ((y.scale (-1)).rne.mul dl).rne).rne
  (s.scale k).fin

/-- FSIN2PI (R186). -/
def fsin2pi (x : Dy) : Nat :=
  let r := x.sub (Dy.int x.rint)
  let q := (r.scale 2).rint
  let s := r.sub ((Dy.int q).scale (-2))
  let z := (s.mul s).rne
  let t := horner z [tabAt coefA 3, tabAt coefA 2, tabAt coefA 1, tabAt coefA 0] (tabAt coefA 4)
  let sn := (s.mul t).fin
  let t := horner z [tabAt coefB 2, tabAt coefB 1, tabAt coefB 0] (tabAt coefB 3)
  let cv := ((Dy.int 1).add (t.mul z).rne).fin
  let neg (c : Nat) : Nat := (c + 2 ^ 31) % 2 ^ 32
  let res := if q == 0 then sn else if q == 1 then cv else if q == -1 then neg cv else neg sn
  if res % 2 ^ 31 == 0 then 0 else res

/-! ## With special values (R187) and FLUSH (R179) -/

/-- Special function of stage OP 0x40 to 0x45 on an FP32 code. -/
def specialFn (fl : Bool) (op c : Nat) : Nat :=
  let c := f32.flush fl c
  let x := dyOf c
  let ninf := f32.sign + f32.inf
  let res := match op, f32.dec c with
    | _, .nan => f32.nan
    | 0x40, .inf s => if s then 0 else f32.inf
    | 0x40, .fin _ _ _ => fexp2 x
    | 0x41, .inf s => if s then f32.nan else f32.inf
    | 0x41, .fin s m _ => if m == 0 then ninf else if s then f32.nan else flog2 x
    | 0x42, .inf s => if s then f32.sign else 0
    | 0x42, .fin s m _ =>
      (if s then f32.sign else 0) + (if m == 0 then f32.inf else frcp ⟨x.m.natAbs, x.e⟩)
    | 0x43, .inf s => if s then f32.nan else 0
    | 0x43, .fin s m _ => if m == 0 then (if s then ninf else f32.inf) else if s then f32.nan else frsq x
    | 0x44, .inf s => if s then f32.nan else f32.inf
    | 0x44, .fin s m _ => if m == 0 then c else if s then f32.nan else fsqrt x
    | _, .inf _ => f32.nan
    | _, .fin _ m _ => if m == 0 then c else fsin2pi x
  f32.flush fl res

end Sys2Proof.Machine
end

