-- ==== Sys2Proof/Machine/Stages.lean ====
section
/-! DEFINITION. The operations of CU stages (R162 to R176, R188 to R199, R215, R216, R394) and of the LUT island. -/

namespace Sys2Proof.Machine

/-! ## Lane operations -/

/-- Conditions of FCMP and HCMP (R169). -/
def cmpFV (c : Nat) (a b : FV) : Bool :=
  match c with
  | 0 => a.eqv b
  | 1 => !a.eqv b
  | 2 => a.lt b
  | 3 => a.le b
  | 4 => b.lt a
  | 5 => b.le a
  | 6 => a.isNan || b.isNan
  | _ => !a.isNan && !b.isNan

/-- A floating operation by the low digit of its OP (R169, R170), in a format. -/
def floatOp (f : FFmt) (fl : Bool) (n a b c : Nat) : Nat :=
  match n with
  | 1 => f.op2 fl FV.add a b
  | 2 => f.op2 fl (fun a b => a.add b.neg) a b
  | 3 => f.op2 fl FV.mul a b
  | 4 => f.op3 fl (fun a b c => (a.mul b).add c) a b c
  | 5 => f.op2 fl FV.min a b
  | 6 => f.op2 fl FV.max a b
  | 7 => f.op1 fl FV.abs a
  | _ => f.op1 fl FV.neg a

/-- The same operation among the 16-bit codes 0x10 to 0x15. -/
def halfDigit (op : Nat) : Nat := op - 0x10 + 1

/-- The float format of a lane format code. -/
def laneFloat (c : Nat) : FFmt := (fmtFloat c).getD f32

/-- Act on both halves of a lane (R170). -/
def halves (g : Nat → Nat → Nat → Nat) (a b c : Nat) : Nat :=
  g (a % 2 ^ 16) (b % 2 ^ 16) (c % 2 ^ 16) + 2 ^ 16 * g (a / 2 ^ 16) (b / 2 ^ 16) (c / 2 ^ 16)

/-- All ones or all zeros. -/
def mask32 (b : Bool) : Nat := if b then 0xFFFFFFFF else 0

/-- Clamp to INT32 when SAT is set, wrap otherwise (R172). -/
def satInt (sat : Bool) (z : Int) : Nat :=
  uNat 32 (if sat then max (-2147483648) (min 2147483647 z) else z)

/-- The integer operations 0x20 to 0x2F (R172). -/
def intOp (w a b : Nat) : Nat :=
  let x := sInt 32 a
  let y := sInt 32 b
  match sOp w with
  | 0x20 => satInt (sSat w) (x + y)
  | 0x21 => satInt (sSat w) (x - y)
  | 0x22 => satInt (sSat w) (x * y)
  | 0x23 => uNat 32 (x * y / 2 ^ 32)
  | 0x24 => if y < x then b else a
  | 0x25 => if x < y then b else a
  | 0x26 => min a b
  | 0x27 => max a b
  | 0x28 => a &&& b
  | 0x29 => a ||| b
  | 0x2A => a ^^^ b
  | 0x2B => a &&& (0xFFFFFFFF - b)
  | 0x2C => a * 2 ^ (b % 32) % 2 ^ 32
  | 0x2D => a / 2 ^ (b % 32)
  | 0x2E => uNat 32 (x / ((2 ^ (b % 32) : Nat) : Int))
  | _ => mask32 (match sOpx w with
    | 0 => a == b
    | 1 => a != b
    | 2 => x < y
    | 3 => x ≤ y
    | 4 => a < b
    | _ => a ≤ b)

/-- CVT (R192); from a 16-bit format to FP32 it is exact. -/
def cvtOp (fl : Bool) (w a b : Nat) : Nat :=
  let i := sFmtI w
  let r := sFmtR w
  let f := laneFloat i
  let g := laneFloat r
  let conv (x : Nat) : Nat := g.flush fl (g.enc (sRtz w) (sSat w) (f.dec (f.flush fl x)))
  if i == 0x20 && r == 0x21 then encodeElem fl (sRtz w) (sSat w) 0x21 (f32.dec (f32.flush fl a))
  else if i == 0x21 then f32.enc (sRtz w) false (.ofInt (sInt 32 a))
  else if i == 0x20 then conv a + 2 ^ 16 * conv b
  else if r == 0x20 then f32.flush fl (f32.enc false false (f.dec (f.flush fl (if bitAt (sOpx w) 0 then a / 2 ^ 16 else a % 2 ^ 16))))
  else halves (fun x _ _ => conv x) a 0 0

/-- A lane operation on the values of a, b and c (R169 to R173, R181 to R187, R192, R216). -/
def laneOp (fl : Bool) (w a b c : Nat) : Nat :=
  let op := sOp w
  if op == 0x09 then mask32 (f32.cmp fl (cmpFV (sOpx w % 8)) a b)
  else if op < 0x10 then floatOp f32 fl op a b c
  else if op == 0x16 then
    let f := laneFloat (sFmtI w)
    halves (fun x y _ => if f.cmp fl (cmpFV (sOpx w % 8)) x y then 0xFFFF else 0) a b c
  else if op < 0x20 then halves (floatOp (laneFloat (sFmtI w)) fl (halfDigit op)) a b c
  else if op < 0x30 then intOp w a b
  else if op == 0x30 then (if a != 0 then b else c)
  else if op == 0x31 then (a &&& b) ||| ((0xFFFFFFFF - a) &&& c)
  else if op == 0x48 then cvtOp fl w a b
  else if 0x40 ≤ op && op ≤ 0x45 then specialFn fl op a
  else if op == 0x60 || op == 0x61 then
    f32.flush fl (f32.enc false false
      ((f32.dec (f32.flush fl c)).add ((scaleVal (op == 0x61) (bits b 0 8)).mul (f32.dec (f32.flush fl a)))))
  else if op == 0x62 || op == 0x63 then
    f32.flush fl (f32.enc false false
      ((scaleVal (op == 0x63) (bits c 0 8)).mul ((f32.dec (f32.flush fl a)).add (f32.dec (f32.flush fl b)))))
  else a

/-! ## Whole tokens -/

/-- Each lane from the same lane of the sources read (R164, R165). -/
def lanewise (reads : List Token) (f : Nat → Nat) : Token :=
  dataTok ((List.range 16).map fun i => (f i, reads.all fun t => t.ok i, reads.any fun t => t.bad i))

/-- PERM (R174). -/
def permTok (w : Nat) (a : Token) : Token :=
  dataTok ((List.range 16).map fun i =>
    let j := bits (sPat w) (4 * i) 4
    (a.lane j, a.ok j, a.bad j))

/-- The 128-bit integer of a lane group. -/
def groupVal (t : Token) (g : Nat) : Nat := bits t.val.toNat (128 * g) 128

/-- One round of RNGX (R196). -/
def rngRound (s : Nat × Nat × Nat × Nat × Nat × Nat) : Nat × Nat × Nat × Nat × Nat × Nat :=
  let (x0, x1, x2, x3, k0, k1) := s
  let p := 0xD2E74A1B * x0
  let q := 0xB5A39C47 * x2
  ((q / 2 ^ 32) ^^^ x1 ^^^ k0, q % 2 ^ 32, (p / 2 ^ 32) ^^^ x3 ^^^ k1, p % 2 ^ 32,
   (k0 + 0x9E3779B9) % 2 ^ 32, (k1 + 0xBB67AE85) % 2 ^ 32)

/-- RNGX(K, C) on 32-bit words (R196): counter words x0 to x3, key words k0 and k1. -/
def rngx (x0 x1 x2 x3 k0 k1 : Nat) : List Nat :=
  let (y0, y1, y2, y3, _, _) := (List.range 10).foldl (fun s _ => rngRound s) (x0, x1, x2, x3, k0, k1)
  [y0, y1, y2, y3]

/-- RNGX and CTRADD per lane group (R196, R197). -/
def groupTok (w : Nat) (a b : Token) : Token :=
  dataTok ((List.range 4).flatMap fun g =>
    let used := (List.range 4).map fun i => 4 * g + i
    let keys := if sOp w == 0x58 then used.take 2 else used
    let ok := used.all (fun i => a.ok i) && keys.all fun i => b.ok i
    let psn := used.any (fun i => a.bad i) || keys.any fun i => b.bad i
    let vs := if sOp w == 0x58 then
        rngx (a.lane (4 * g)) (a.lane (4 * g + 1)) (a.lane (4 * g + 2)) (a.lane (4 * g + 3)) (b.lane (4 * g)) (b.lane (4 * g + 1))
      else
        let s := (groupVal a g + groupVal b g) % 2 ^ 128
        (List.range 4).map fun i => bits s (32 * i) 32
    vs.map fun v => (v, ok, psn))

/-- UNPACK (R194): the n output tokens. -/
def unpackToks (fl : Bool) (w : Nat) (tbl : Nat → Nat) (a c : Token) : List Token :=
  let code := sFmtI w % 64
  let wd := fmtWidth code
  let fr := laneFloat (sFmtR w)
  let per := if sFmtR w == 0x20 then 1 else 2
  let e := 16 * per
  let elem (J : Nat) : Nat × Bool × Bool :=
    let lane := J * wd / 32
    let d := decodeElem fl tbl code (bits a.val.toNat (J * wd) wd)
    let sc := if sNosc w then .fin false 1 0 else scaleVal (bitAt (sOpx w) 0) (bits (c.lane lane) 0 8)
    let v : Option FV := match d with
      | .val v => some v
      | .k => some (kVal fl (bits (c.lane lane) 8 8))
      | .bad => none
    (match v with | some v => fr.flush fl (fr.enc (sRtz w) (sSat w) (v.mul sc)) | none => 0,
     a.ok lane && (sNosc w || c.ok lane), a.bad lane || (!sNosc w && c.bad lane) || v.isNone)
  (List.range (512 / wd / e)).map fun o =>
    dataTok ((List.range 16).map fun i =>
      let xs := (List.range per).map fun j => elem (o * e + i * per + j)
      ((xs.zipIdx.map fun ((v, _, _), j) => v * 2 ^ (16 * j)).sum, xs.all fun (_, ok, _) => ok, xs.any fun (_, _, psn) => psn))

/-- Replace 2^n-bit fields of a token's VAL. -/
def Token.putBits (t : Token) (pos wd v : Nat) : Token :=
  { t with val := (t.val &&& ~~~(BitVec.ofNat 512 ((2 ^ wd - 1) * 2 ^ pos))) ||| BitVec.ofNat 512 (v % 2 ^ wd * 2 ^ pos) }

/-- One PACK firing (R193) into the part-filled token `t0`, at index `t`. -/
def packStep (fl : Bool) (w : Nat) (t : Nat) (t0 a b c : Token) : Token :=
  let code := sFmtR w
  let wd := fmtWidth code
  (List.range 32).foldl (fun tk j =>
    let J := 32 * t + j
    let lane := J * wd / 32
    let src := if j < 16 then a else b
    let sc := if sNosc w then .fin false 1 0 else scaleVal (bitAt (sOpx w) 0) (bits (c.lane lane) 0 8)
    let x := f32.dec (f32.flush fl (src.lane (j % 16)))
    let tk := tk.putBits (J * wd) wd (encodeElem fl (sRtz w) (sSat w) code (x.mul sc))
    let tk := if !src.ok (j % 16) || (!sNosc w && !c.ok lane) then { tk with vld := tk.vld &&& ~~~((1 : BitVec 16) <<< lane) } else tk
    if src.bad (j % 16) || (!sNosc w && c.bad lane) then { tk with psn := tk.psn ||| ((1 : BitVec 16) <<< lane) } else tk) t0

/-- Firings that fill one packed token: F = 16 / w (R193). -/
def packFires (w : Nat) : Nat := 16 / fmtWidth (sFmtR w)

/-- A token of lanes with VAL 0 where invalid or poisoned, and no poison where invalid. -/
def tidy (t : Token) : Token :=
  dataTok ((List.range 16).map fun i => (t.lane i, t.ok i, t.bad i))

/-- A packed token: VAL 0 in lanes that are poisoned or invalid; PSN and VLD stand as the firings left them (R193). -/
def packDone (t : Token) (reached : Nat) : Token :=
  let v := t.vld &&& BitVec.ofNat 16 (2 ^ reached - 1)
  { t with kind := .data, vld := v
           val := (List.range 16).foldl (fun x i => if v.getLsbD i && !t.psn.getLsbD i then x else
             x &&& ~~~((0xFFFFFFFF : Line) <<< (32 * i))) t.val }

/-- The identity of an accumulation (R175). -/
def accIdentity (w : Nat) : Nat :=
  let half (x : Nat) : Nat := x * 2 ^ 16 + x
  match sOp w with
  | 0x01 | 0x04 | 0x60 | 0x61 => 0x80000000
  | 0x10 | 0x13 => half 0x8000
  | 0x05 | 0x06 => 0x7FC00000
  | 0x14 | 0x15 => half (if sFmtI w == 0x11 then 0x7E00 else 0x7FC0)
  | 0x28 | 0x26 => 0xFFFFFFFF
  | 0x24 => 0x7FFFFFFF
  | 0x25 => 0x80000000
  | _ => 0

/-- One accumulating firing on the accumulator `t` (R175). -/
def accStep (fl : Bool) (w : Nat) (t a b c : Token) : Token :=
  let (ra, rb, rc) := opReads w
  let slotA := accSlot (sOp w) == some 0
  let xs := (if ra && !slotA then [a] else []) ++ (if rb then [b] else []) ++ (if rc && slotA then [c] else [])
  (List.range 16).foldl (fun t i =>
    if !(xs.all fun x => x.ok i) then t
    else
      let t := { t with vld := t.vld ||| (1 <<< i) }
      if t.bad i then t
      else if xs.any fun x => x.bad i then { (t.putBits (32 * i) 32 0) with psn := t.psn ||| (1 <<< i) }
      else t.putBits (32 * i) 32 (if slotA then laneOp fl w (t.lane i) (b.lane i) (c.lane i) else laneOp fl w (a.lane i) (b.lane i) (t.lane i))) t

/-- A fresh accumulator: every lane the identity, invalid, not poisoned. -/
def accStart (w : Nat) : Token :=
  { val := (List.range 16).foldl (fun x i => x ||| (BitVec.ofNat 512 (accIdentity w) <<< (32 * i))) 0 }

/-- The accumulated value as it is emitted: invalid lanes have VAL 0. -/
def accDone (t : Token) : Token := { tidy t with kind := .data }

/-! ## Loop counters (R394) -/

/-- Advance the counters of a CU in one firing of its counting stage: the counters, and which wrapped. -/
def loopsStep (p : Nat) (ls : List Loop) : List Loop × List Bool :=
  (List.range 3).foldl (fun (acc : List Loop × List Bool) k =>
    let l := ls.getD k {}
    let ch := bits p (64 * k + 48) 2
    if ch == 1 || (ch == 2 && acc.2.getD (k - 1) false) then
      let n : BitVec 32 := l.n + 1
      let lim := bits p (64 * k) 32
      if lim != 0 && n.toNat == lim then (acc.1 ++ [({} : Loop)], acc.2 ++ [true])
      else (acc.1 ++ [{ n := n, p := l.p + BitVec.ofInt 32 (sInt 16 (bits p (64 * k + 32) 16)) }], acc.2 ++ [false])
    else (acc.1 ++ [l], acc.2 ++ [false])) ([], [])

/-! ## Firing -/

/-- FLUSH of the captured mode word (R65). -/
def Holder.flush (h : Holder) : Bool := modeBit h.id.mode 20

/-- A token in every lane valid, from a constant (R159). -/
def constTok (v : Nat) : Token := dataTok ((List.range 16).map fun _ => (v, true, false))

/-- The head behind a source code of a stage (R159). -/
def Holder.srcHead (h : Holder) (c k code : Nat) : Option Token :=
  if code == 0 then
    let q := h.pipe c (k - 1)
    if 0 < k && q.full && !q.tNext then some q.tok else none
  else h.head c (code - 1)

/-- Take the head behind a source code. -/
def Holder.srcTake (h : Holder) (c k code : Nat) : Holder :=
  if code == 0 then (h.modPipe c (k - 1) fun q => { q with tNext := true }).pipeSettle c (k - 1)
  else h.take c (code - 1)

/-- Offer a token to the consumers of PIPE[k]. -/
def Holder.pipePut (h : Holder) (c k : Nat) (t : Token) (rest : List Token) : Holder :=
  (h.modPipe c k fun p => { p with tok := t, full := true, rest := rest, tNext := false, tOut := false, tRed := false }).pipeSettle c k

/-- An element emits an RMK while it holds open state (R429). -/
def Holder.ropen (h : Holder) : Holder := { h with ev := { h.ev with ropen := true } }

/-- The computation of a firing on DATA heads, once they are taken (R163, R169 to R175, R192 to R197, R216). -/
def Holder.stageCompute (h : Holder) (c k : Nat) (a b x : Token) : Holder :=
  let w := h.stage c k
  let fl := h.flush
  let p := h.pipe c k
  if sAcc w then
    let t := accStep fl w (if p.opn then p.acc else accStart w) a b x
    let (h, wrapped) := if counting w then
        let (ls, wr) := loopsStep (h.pay c 0 6 0) (h.cell c).loops
        (h.modCell c fun q => { q with loops := ls }, wr)
      else (h, [])
    if sOpx w % 4 != 0 && wrapped.getD (sOpx w % 4 - 1) false then
      (h.modPipe c k fun p => { p with opn := true, acc := t, ends := true }).pipePut c k (accDone t) []
    else h.modPipe c k fun p => { p with opn := true, acc := t }
  else
    let (ra, rb, rc) := opReads w
    let reads := (if ra then [a] else []) ++ (if rb then [b] else []) ++ (if rc then [x] else [])
    match sOp w with
    | 0x33 => let t := lanewise [a] a.lane
              h.pipePut c k t (List.replicate (sOpx w % 16) t)
    | 0x34 => h.pipePut c k (permTok w a) []
    | 0x49 =>
      let t0 : Token := if p.opn then p.acc else { vld := 0xFFFF }
      let i := if p.opn then p.packT else 0
      let t := packStep fl w i t0 a b x
      if i + 1 == packFires w then
        (h.modPipe c k fun p => { p with opn := false, acc := {}, packT := 0 }).pipePut c k (packDone t 16) []
      else h.modPipe c k fun p => { p with opn := true, acc := t, packT := i + 1 }
    | 0x4A =>
      match unpackToks fl w (fun i => (h.cell c).table k (sFmtI w / 64) i) a x with
      | t :: rest => h.pipePut c k t rest
      | [] => h
    | 0x58 | 0x59 => h.pipePut c k (groupTok w a b) []
    | _ => h.pipePut c k (lanewise reads fun i => laneOp fl w (a.lane i) (b.lane i) (x.lane i)) []

/-- The value an open accumulation or pack emits at EOS (R175, R176, R193). -/
def Holder.closeOpen (h : Holder) (c k : Nat) : Holder :=
  let p := h.pipe c k
  let w := h.stage c k
  if sOp w == 0x49 then
    (h.modPipe c k fun p => { p with opn := false, acc := {}, packT := 0 }).pipePut c k
      (packDone p.acc (min 16 (p.packT * fmtWidth (sFmtR w)))) []
  else (h.modPipe c k fun p => { p with ends := true }).pipePut c k (accDone p.acc) []

/-- STAGE_FIRE (R162, R163, R176). -/
def Holder.stageFire (h : Holder) (c k : Nat) : Holder :=
  let w := h.stage c k
  if sOp w == 0 || isReducer w || (h.pipe c k).full || 5 < k then h
  else
    let codes := stageHeads w
    let heads := codes.filterMap fun n => (h.srcHead c k n).map fun t => (n, t)
    if heads.length != codes.length || codes.isEmpty || heads.any fun (_, t) => t.kind == .cfg then h
    else match heads.find? fun (_, t) => t.kind == .flt with
      | some (n, t) => (h.srcTake c k n).pipePut c k t []
      | none =>
        let takeAll (h : Holder) : Holder := codes.foldl (fun h n => h.srcTake c k n) h
        if heads.all fun (_, t) => t.counts then
          let tok (n : Nat) : Token :=
            if n == 5 then constTok (sConst w) else if n == 7 then constTok 0
            else match heads.find? fun (m, _) => m == n with | some (_, t) => t | none => {}
          (takeAll h).stageCompute c k (tok (sSrcA w)) (tok (sSrcB w)) (tok (sSrcC w))
        else match heads with
          | (_, t) :: rest =>
            if rest.all fun (_, u) => u.kind == t.kind then
              if t.kind == .eos && (h.pipe c k).opn then h.closeOpen c k
              else
                let h := takeAll h
                let h := if t.kind == .eos && counting w then h.modCell c fun q => { q with loops := List.replicate 3 {} } else h
                let h := if t.kind == .rmk && (h.pipe c k).opn then h.ropen else h
                h.pipePut c k t []
            else h.fail rKINDMIX c
          | [] => h

/-! ## The reduction tree -/

/-- How a lane enters the tree when it is invalid or poisoned (R190). -/
def redIdentity (w : Nat) : Nat :=
  match sOp w, sFmtI w with
  | 0x50, _ => 0x80000000
  | 0x51, 0x21 => 0x80000000
  | 0x52, 0x21 => 0x7FFFFFFF
  | _, _ => 0x7FC00000

/-- One node of the tree. -/
def redNode (fl : Bool) (w a b : Nat) : Nat :=
  match sOp w, sFmtI w with
  | 0x50, _ => fadd32 fl a b
  | 0x51, 0x21 => if sInt 32 a < sInt 32 b then b else a
  | 0x52, 0x21 => if sInt 32 b < sInt 32 a then b else a
  | 0x51, _ => f32.op2 fl FV.max a b
  | _, _ => f32.op2 fl FV.min a b

/-- Combine neighbours. -/
def pairUp (g : Nat → Nat → Nat) : List Nat → List Nat
  | a :: b :: t => g a b :: pairUp g t
  | l => l

/-- The fixed order of R71. -/
def treeSum (g : Nat → Nat → Nat) (l : List Nat) : Nat := ((List.range 4).foldl (fun l _ => pairUp g l) l).headD 0

/-- The reducer's result on a DATA token of TREE (R190). -/
def reduceTok (fl : Bool) (w : Nat) (t : Token) : Token :=
  let ls := List.range 16
  let v := treeSum (redNode fl w) (ls.map fun i => if t.ok i && !t.bad i then t.lane i else redIdentity w)
  let ok := ls.any fun i => t.ok i
  let psn := ls.any fun i => t.ok i && t.bad i
  dataTok (ls.map fun i => if i == 0 || bitAt (sOpx w) 0 then (v, ok, psn) else (0, false, false))

/-- REDUCER_FIRE (R189, R190). -/
def Holder.reducerFire (h : Holder) (c : Nat) : Holder :=
  match firstBelow 6 fun k => isReducer (h.stage c k), (h.cell c).tree with
  | some k, some t =>
    if (h.pipe c k).full || t.kind == .cfg then h
    else
      let h' := h.modCell c fun x => { x with tree := none }
      h'.pipePut c k (if t.counts then reduceTok h.flush (h.stage c k) t else t) []
  | _, _ => h

/-! ## The LUT island (R198, R199) -/

/-- Outputs of the 64 LUTs on a token, in ascending number. -/
def Holder.lutVals (h : Holder) (c : Nat) (t : Token) : List Bool :=
  (List.range 64).foldl (fun vs m =>
    let bit (i : Nat) : Nat :=
      let s := h.lutSel c m i
      b2n (if bitAt s 9 then vs.getD (s % 64) false else bitAt (t.lane (bits s 5 4)) (bits s 0 5))
    vs ++ [bitAt (h.lutTable c m) (bit 0 + 2 * bit 1 + 4 * bit 2 + 8 * bit 3)]) []

/-- Lanes named by an input select of a LUT with a non-zero table. -/
def Holder.lutLanes (h : Holder) (c : Nat) : List Nat :=
  (List.range 64).flatMap fun m =>
    if h.lutTable c m == 0 then [] else (List.range 4).filterMap fun i =>
      let s := h.lutSel c m i
      if bitAt s 9 then none else some (bits s 5 4)

/-- The island's result on a DATA token. -/
def Holder.lutTok (h : Holder) (c : Nat) (t : Token) : Token :=
  let vs := h.lutVals c t
  let ls := h.lutLanes c
  let v (l : Nat) : Nat := ((List.range 32).map fun j => match h.lutOut c l j with
    | some m => b2n (vs.getD m false) * 2 ^ j
    | none => 0).sum
  dataTok [(v 0, ls.all fun i => t.ok i, ls.any fun i => t.bad i), (v 1, ls.all fun i => t.ok i, ls.any fun i => t.bad i)]

/-- LUTI_FIRE (R198). -/
def Holder.lutiFire (h : Holder) (c : Nat) : Holder :=
  match h.head c idLuti with
  | none => h
  | some t =>
    if !h.lutiOn c || (h.cell c).lout.tok.isSome || t.kind == .cfg then h
    else (h.take c idLuti).modCell c fun x => { x with lout := { tok := some (if t.counts then h.lutTok c t else t) } }

end Sys2Proof.Machine
end

