-- ==== Sys2Proof/Machine/Mx.lean ====
section
/-! DEFINITION. The matrix tile (R66 to R70, R201 to R214). -/

namespace Sys2Proof.Machine

/-! ## Group sums (R66 to R69) -/

/-- floor(log2 |p|) of a non-zero finite product. -/
def FV.top : FV → Option Int
  | .fin _ m e => if m == 0 then none else some (Nat.log2 m + e)
  | _ => none

/-- t[i] of R67 in units of q: |p| / q truncated, with the sign of p. -/
def truncTo (q : Int) : FV → Int
  | .fin s m e => signed s (shiftRound true m (e - q))
  | _ => 0

/-- The result of a group of products: exact for the integer class (R66), aligned and truncated otherwise (R67), specials first
(R68). -/
def groupSum (fl int : Bool) (ps : List FV) : Nat :=
  let posInf := ps.any fun p => p == .inf false
  let negInf := ps.any fun p => p == .inf true
  if ps.any FV.isNan || (posInf && negInf) then f32.nan
  else if posInf then f32.inf
  else if negInf then f32.sign + f32.inf
  else
    match ps.filterMap FV.top with
    | [] => 0
    | t :: ts =>
      let q : Int := if int then 0 else ts.foldl max t - 40
      let z := (ps.map (truncTo q)).sum
      f32.flush fl (f32.enc false false (.fin (z < 0) z.natAbs q))

/-! ## Fields of the tile -/

/-- Tokens of one macro load (R202). -/
def mxTm (w : Nat) : Nat := 128 * mxCols w * fmtWidth (mxB w % 64) / 512

/-- The start values of R213, with R204's active set. -/
def mxStart (w : Nat) : Mx :=
  let lo := (mxMacs w).headD 0
  { first := if mxChain w then 0 else lo, nact := if mxChain w then (mxMacs w).length - 1 else 0, ldstart := lo, ldm := lo }

/-- Set a bit of a macro mask. -/
def setBit4 (b : BitVec 4) (m : Nat) (v : Bool) : BitVec 4 := if v then b ||| (1 <<< m) else b &&& ~~~((1 : BitVec 4) <<< m)

/-- Elements of a token in a format: their codes, none in an invalid lane (R53, R203). -/
def elemsOf (f : Nat) (t : Token) : List (Option Nat) :=
  let w := fmtWidth (f % 64)
  (List.range (512 / w)).map fun j =>
    let lane := j * w / 32
    if !t.ok lane then none else if t.bad lane then some poisonCode else some (bits t.val.toNat (j * w) w)

/-- A CB code through a table, as BF16 (R59). -/
def cbCode (f : Nat) (tbl : Nat → Nat) (x : Nat) : Nat :=
  if x == poisonCode then x else if f % 64 == 0x12 then tbl (x % 16) else if f % 64 == 0x13 then cb8 (tbl (x / 16 % 16)) (x % 16) else x

/-- Change the tile of a cell. -/
def Holder.modMx (h : Holder) (c : Nat) (f : Mx → Mx) : Holder := h.modCell c fun x => { x with mx := f x.mx }

/-! ## Loading macros -/

/-- The next enabled macro after `m`, wrapping (R202). -/
def nextMac (w m : Nat) : Nat := ((mxMacs w).find? fun x => m < x).getD ((mxMacs w).headD 0)

/-- One weight token (R202). -/
def mxLoad (w : Nat) (tbl : Nat → Nat) (x : Mx) (t : Token) : Mx :=
  let m := x.ldm
  let x := if x.ldp == 0 then { x with
      loaded := setBit4 x.loaded m false, mpsn := setBit4 x.mpsn m false, kept := setBit4 x.kept m false } else x
  let es := elemsOf (mxB w) t
  let base := x.ldp * es.length
  let b := es.zipIdx.foldl (fun b (e, j) => Tbl.set b 0 (base + j) (cbCode (mxB w) tbl (e.getD 0 % poisonCode))) (x.b.getD m [])
  let bad := es.any fun e => e.isNone || e == some poisonCode
  let x := { x with b := x.b.set m b, mpsn := if bad then setBit4 x.mpsn m true else x.mpsn, ldp := x.ldp + 1 }
  if x.ldp == mxTm w then
    { x with loaded := setBit4 x.loaded m true, ldp := 0, ldm := nextMac w m, wmacs := x.wmacs ++ [m] }
  else x

/-- Macros of a K-format B whose values did not all arrive are poisoned once both segments have ended (R210). -/
def mxShort (w : Nat) (x : Mx) : Mx :=
  if mxKB w && x.wdone && x.kdone then
    x.wmacs.zipIdx.foldl (fun x (m, i) => if x.kpos < mxCols w * (i + 1) then { x with mpsn := setBit4 x.mpsn m true } else x) x
  else x

/-- The end of a w segment (R202, R205). -/
def mxWEnd (w : Nat) (x : Mx) : Mx :=
  let x := if x.ldp != 0 then
      { x with loaded := setBit4 x.loaded x.ldm true, mpsn := setBit4 x.mpsn x.ldm true, ldp := 0, wmacs := x.wmacs ++ [x.ldm] }
    else x
  mxShort w { x with wdone := true }

/-- k values of a K-format B taken from KTOK while their macros have loaded (R210). -/
def mxTakeKB (w : Nat) : Nat → Mx → Mx
  | 0, x => x
  | fuel + 1, x =>
    match x.ktok with
    | none => x
    | some t =>
      let n := mxCols w
      match x.wmacs[x.kpos / n]? with
      | none => if x.wdone then { x with ktok := none } else x
      | some m =>
        let l := x.kpos % 16
        let bk := Tbl.set (x.bk.getD m []) 0 (x.kpos % n) (bits (t.lane l) 8 8)
        mxTakeKB w fuel { x with
          bk := x.bk.set m bk, mpsn := if t.ok l && !t.bad l then x.mpsn else setBit4 x.mpsn m true
          kpos := x.kpos + 1, ktok := if l == 15 then none else some t }

/-- Markers and FLT at w, k or in1 (R211). -/
def mxSide (x : Mx) (t : Token) (poisons : Bool) : Mx :=
  if t.kind == .flt then
    { x with flts := x.flts ++ [t], mpsn := if poisons then setBit4 x.mpsn x.ldm true else x.mpsn }
  else x

/-- A CFG at w, k or in1 is an illegal in-band word (R211). DEDUCED (log 12): a code-table frame too; the tables of w, which is a decoding
place (R374), are those of the image. -/
def Holder.mxSideCfg (h : Holder) (t : Token) : Holder := { h with dp := { h.dp with illegal := h.dp.illegal <|> some t.frame } }

/-- The k side of a K-format B (R210): the values held, or the next token at k. -/
def Holder.mxKSide (h : Holder) (c : Nat) : Holder :=
  let w := h.mxWord c
  let x := (h.cell c).mx
  if !mxKB w || x.kdone then h
  else if x.ktok.isSome then h.modMx c (mxTakeKB w 16)
  else match h.head c (idMx 2) with
    | none => h
    | some t =>
      if t.kind == .cfg then h.mxSideCfg t
      else
        let h := h.take c (idMx 2)
        if t.counts then h.modMx c fun x => mxTakeKB w 16 { x with ktok := some t }
        else if t.kind == .eos then h.modMx c fun x => mxShort w { x with kdone := true, ktok := none }
        else h.modMx c fun x => mxSide x t true

/-- MX_WEIGHT_TOKEN (R202, R205, R210): a token at w, or at k for a K-format B. -/
def Holder.mxWeight (h : Holder) (c : Nat) : Holder :=
  let w := h.mxWord c
  let x := (h.cell c).mx
  if mxMacen w == 0 then h
  else
    match h.head c (idMx 1), x.wdone with
    | some t, false =>
      if t.kind == .cfg then h.mxSideCfg t
      else
        let h := h.take c (idMx 1)
        if t.counts then h.modMx c fun x => mxLoad w ((h.cell c).table 7 (mxB w / 64)) x t
        else if t.kind == .eos then h.modMx c (mxWEnd w)
        else h.modMx c fun x => mxSide x t true
    | _, _ => h.mxKSide c

/-! ## Rows -/

/-- A product of two elements, none where an element contributes nothing; the K partial takes k × other instead (R69). -/
def mxProd (k : FV) (a b : Option Elem) : Option FV × Option FV :=
  match a, b with
  | some (.val u), some (.val v) => (some (u.mul v), none)
  | some .k, some (.val v) => (none, some (k.mul v))
  | some (.val u), some .k => (none, some (k.mul u))
  | _, _ => (none, none)

/-- An element of B. -/
def mxElemB (fl : Bool) (w : Nat) (x : Mx) (m c kk : Nat) : Elem :=
  decodeElem fl (fun _ => 0) (held16 (mxB w)) ((x.b.getD m []).getD (c * 128 + kk) 0)

/-- Add one group: main and K results of column `c` in macro `m`. -/
def mxGroup (fl : Bool) (w : Nat) (x : Mx) (k : Nat) (as : List (Option Elem)) (m c : Nat) : Nat × Nat :=
  let kv := kVal fl (if mxKB w then (x.bk.getD m []).getD c 0 else k)
  let ps := as.zipIdx.map fun (a, kk) => mxProd kv a (some (mxElemB fl w x m c kk))
  (groupSum fl (fmtInt (mxA w % 64) && fmtInt (mxB w % 64)) (ps.filterMap (·.1)),
   groupSum fl false (ps.filterMap (·.2)))

/-- A row's tokens (R207): columns 16t to 16t + 15 in token t, poisoned while TPSN is set. -/
def mxEmitRow (w : Nat) (x : Mx) (r : Nat) : List (Token × Option Token) :=
  let row (t : Tbl Nat) (n : Nat) : Token :=
    dataTok ((List.range 16).map fun i => (t.getD (r * 128 + 16 * n + i) negZero, true, x.tpsn))
  (List.range (mxCols w / 16)).map fun n => (row x.acc n, if mxK w then some (row x.acck n) else none)

/-- Some element of B in the active macros decodes as poison (R57). -/
def mxBadB (fl : Bool) (w : Nat) (x : Mx) (m : Nat) : Bool :=
  (x.b.getD m []).any fun (_, e) => decodeElem fl (fun _ => 0) (held16 (mxB w)) e == .bad

/-- MXROW (R203): apply the row `as` with the k values `ks` of its blocks. DESIGN CHOICE (log 12): a poisoned or reserved element of
A sets TPSN as its row is applied, since RBUF has no poison bits of its own. -/
def mxApply (fl : Bool) (w : Nat) (x : Mx) (row : List (Option Nat)) (ks : List (Option Nat)) : Mx :=
  let as := row.map fun e => e.map fun v =>
    if v == poisonCode then Elem.bad else decodeElem fl (fun _ => 0) (held16 (mxA w)) v
  let ms := (List.range (x.nact + 1)).map fun m => (m, x.first + m)
  let block (m : Nat) : List (Option Elem) := (as.drop (128 * m)).take 128
  let bad := as.any (fun a => a == some .bad) || ms.any fun (m, mac) =>
    !x.loaded.getLsbD mac || x.mpsn.getLsbD mac || mxBadB fl w x mac ||
    (mxKA w && (ks.getD m none).isNone && (block m).any fun a => a == some .k)
  let x := if bad then { x with tpsn := true } else x
  let cols := List.range (mxCols w)
  let x := cols.foldl (fun (x : Mx) c =>
    let gs := ms.map fun (m, mac) => mxGroup fl w x ((ks.getD m none).getD 0) (block m) mac c
    match gs with
    | [] => x
    | (g, gk) :: rest =>
      let u := rest.foldl (fun u (g, _) => fadd32 fl u g) g
      let uk := rest.foldl (fun u (_, g) => fadd32 fl u g) gk
      let key := x.rc * 128 + c
      { x with
        acc := Tbl.set x.acc negZero key (fadd32 fl (x.acc.getD key negZero) u)
        acck := if mxK w then Tbl.set x.acck negZero key (fadd32 fl (x.acck.getD key negZero) uk) else x.acck }) x
  let x := { x with rows := x.rows + 1 }
  if mxEmit w == 0 then
    { x with outq := x.outq ++ mxEmitRow w x x.rc, acc := [], acck := [], tpsn := false }
  else { x with rc := (x.rc + 1) % (mxRows w + 1) }

/-- The k values of a K-format A's next row, block by block (R210): none while they have not arrived; a value of none did not
come, or came invalid or poisoned. -/
def Holder.mxTakeKA (h : Holder) (c : Nat) : Nat → List (Option Nat) → Option (List (Option Nat) × Holder × Bool)
  | 0, acc => some (acc, h, false)
  | n + 1, acc =>
    let x := (h.cell c).mx
    let use (h : Holder) (t : Token) : Option (List (Option Nat) × Holder × Bool) :=
      let l := (h.cell c).mx.kpos % 16
      let v := if t.ok l && !t.bad l then some (bits (t.lane l) 8 8) else none
      Holder.mxTakeKA (h.modMx c fun x => { x with kpos := x.kpos + 1, ktok := if l == 15 then none else some t }) c n (acc ++ [v])
    match x.ktok with
    | some t => use h t
    | none =>
      if x.kdone then (Holder.mxTakeKA h c n (acc ++ [none])).map fun (l, g, _) => (l, g, true)
      else match h.head c (idMx 2) with
        | none => none
        | some t =>
          if t.counts then use (h.take c (idMx 2)) t
          else if t.kind == .eos then
            (Holder.mxTakeKA ((h.take c (idMx 2)).modMx c fun x => { x with kdone := true }) c n (acc ++ [none])).map fun (l, g, _) => (l, g, true)
          else none

/-- Length of a row of A in elements. -/
def mxRowLen (x : Mx) : Nat := 128 * (x.nact + 1)

/-- Apply a buffered row, padded when it is short; nothing happens while its k values are missing. A missing value poisons the
tile (R210). -/
def Holder.mxRowFire (h : Holder) (c : Nat) : Holder :=
  let w := h.mxWord c
  let x := (h.cell c).mx
  let n := mxRowLen x
  let row := (x.rbuf.take n) ++ List.replicate (n - x.rbuf.length) none
  let go (h : Holder) (ks : List (Option Nat)) (missing : Bool) : Holder :=
    h.modMx c fun x => mxApply h.flush w { x with rbuf := x.rbuf.drop n, tpsn := x.tpsn || missing, kbuf := none } row ks
  if mxKA w then
    match x.kbuf with
    | some (ks, missing) => go h ks missing
    | none => match h.mxTakeKA c (x.nact + 1) [] with
      | some (ks, h, missing) => go h ks missing
      | none => h
  else go h [] false

/-- The emission point can take the head of its queue: a token for out0, or one for each output. -/
def Holder.mxCanSend (h : Holder) (c : Nat) (both : Bool) : Bool := if both then h.canEmitPair c else h.canEmit c (idMx 0)

/-- A row may fire (R205 step 2, R206): under EMIT = 0 the last row's emission has finished and the outputs have a free slot. -/
def Holder.mxReady (h : Holder) (c : Nat) : Bool :=
  let w := h.mxWord c
  let x := (h.cell c).mx
  x.wdone && (!mxKB w || x.kdone) && (mxEmit w == 1 || (x.outq.isEmpty && h.mxCanSend c (mxK w)))

/-- Put a marker on the outputs behind the rows before it. -/
def mxMark (w : Nat) (x : Mx) (t : Token) : Mx := { x with outq := x.outq ++ [(t, if mxK w then some t else none)] }

/-- Markers and FLT waiting at k of a K-format A are taken (R211). -/
def Holder.mxKMarks (h : Holder) (c : Nat) : Option Holder :=
  if mxKA (h.mxWord c) && !(h.cell c).mx.kdone then
    match h.head c (idMx 2) with
    | some t =>
      if t.kind == .cfg then some (h.mxSideCfg t)
      else if t.kind == .rmk || t.kind == .dmk || t.kind == .flt then
        some ((h.take c (idMx 2)).modMx c fun x => mxSide x t true)
      else none
    | none => none
  else none

/-- MXROW (R203, R206, R211): apply a whole row, or take the next token at in0. -/
def Holder.mxRow (h : Holder) (c : Nat) : Holder :=
  let w := h.mxWord c
  let x := (h.cell c).mx
  if mxMacen w == 0 then h
  else match h.mxKMarks c with
    | some h => h
    | none =>
      if mxRowLen x ≤ x.rbuf.length then (if h.mxReady c then h.mxRowFire c else h)
      else match h.head c (idMx 0) with
        | none => h
        | some t =>
          if t.kind == .eos || t.kind == .cfg then h
          else
            let h := h.take c (idMx 0)
            if t.counts then
              let es := elemsOf (mxA w) t
              let tbl := (h.cell c).table 6 (mxA w / 64)
              h.modMx c fun x => { x with
                rbuf := x.rbuf ++ es.map fun e => e.map (cbCode (mxA w) tbl) }
            else
              let opened := t.kind == .rmk && (!x.rbuf.isEmpty || (mxEmit w == 1 && !x.acc.isEmpty))
              let h := if opened then h.ropen else h
              h.modMx c fun x => mxMark w x t

/-! ## Segment ends -/

/-- One command word (R209): none is a region error MXCMD. -/
def mxCommand (w : Nat) (x : Mx) (v : Nat) : Option Mx :=
  let on (m : Nat) : Bool := (mxMacs w).contains m
  match v % 16 with
  | 0 => if v == 0 then some x else none
  | 1 => if v != 1 then none
    else if mxEmit w == 1 then some { x with outq := x.outq ++ (List.range (mxRows w + 1)).flatMap fun r => mxEmitRow w x r }
    else some x
  | 2 => if v == 2 then some { x with acc := [], acck := [], tpsn := false } else none
  | 3 =>
    let first := bits v 4 2
    let cnt := bits v 6 2 + 1
    if v < 256 && first + cnt ≤ 4 && (List.range cnt).all (fun i => on (first + i)) then some { x with first := first, nact := cnt - 1 }
    else none
  | 4 => if v < 64 && on (bits v 4 2) then some { x with ldstart := bits v 4 2 } else none
  | _ => none

/-- The command words of a token, in lane order (R205, R209). -/
def Holder.mxCommands (h : Holder) (c : Nat) (t : Token) : Holder :=
  (List.range 16).foldl (fun h l =>
    if h.dp.err.isSome || !t.ok l then h
    else if t.bad l then h.fail rMXCMD c
    else match mxCommand (h.mxWord c) (h.cell c).mx (t.lane l) with
      | some x => h.modMx c fun _ => x
      | none => h.fail rMXCMD c) h

/-- The end of an in0 segment (R205 step 3). -/
def Holder.mxFinish (h : Holder) (c : Nat) : Holder :=
  (h.take c (idMx 0)).modMx c fun x =>
    let w := h.mxWord c
    let x := x.flts.foldl (fun x t => mxMark w x t) x
    { mxMark w x eosTok with flts := [], rc := 0, kpos := 0, wdone := false, kdone := false, ktok := none, kbuf := none, rows := 0, wmacs := []
                             ldm := x.ldstart, ldp := 0 }

/-- in1 has a route or an endpoint. -/
def Holder.mxIn1 (h : Holder) (c : Nat) : Bool := h.fedPort c (idMx 3)

/-- MX_SEGMENT_END (R205 steps 3 and 4): one move at the EOS of an in0 segment. -/
def Holder.mxSegEnd (h : Holder) (c : Nat) : Holder :=
  let w := h.mxWord c
  let x := (h.cell c).mx
  match h.head c (idMx 0) with
  | none => h
  | some t0 =>
    if mxMacen w == 0 || t0.kind != .eos || !x.wdone then h
    else if mxRowLen x ≤ x.rbuf.length then (if h.mxReady c then h.mxRowFire c else h)
    else if mxKA w && !x.rbuf.isEmpty && x.kbuf.isNone then
      -- the values of the padded row, before the rest of their segment is dropped
      match h.mxTakeKA c (x.nact + 1) [] with
      | some (ks, h, missing) => h.modMx c fun x => { x with kbuf := some (ks, missing) }
      | none => (h.mxKMarks c).getD h
    else if mxKB w && !x.kdone then h.mxKSide c
    else if mxKA w && !x.kdone then
      match h.head c (idMx 2) with
      | none => h
      | some t =>
        if t.kind == .cfg then h.mxSideCfg t
        else
          let h := h.take c (idMx 2)
          if t.kind == .eos then h.modMx c fun x => { x with kdone := true, ktok := none }
          else h.modMx c fun x => mxSide x t true
    else if !x.rbuf.isEmpty then (if h.mxReady c then h.mxRowFire c else h)
    else if !h.mxIn1 c then
      let h := if mxEmit w == 1 then
          h.modMx c fun x => (mxCommand w ((mxCommand w x 1).getD x) 2).getD x
        else h
      h.mxFinish c
    else match h.head c (idMx 3) with
      | none => h
      | some t =>
        if t.kind == .cfg then h.mxSideCfg t
        else
          let h := h.take c (idMx 3)
          if t.counts then h.mxCommands c t
          else if t.kind == .eos then h.mxFinish c
          else h.modMx c fun x => mxSide x t false

/-- One token leaves the emission point; out0 and out1 leave together (R207). -/
def Holder.mxSend (h : Holder) (c : Nat) : Holder :=
  match (h.cell c).mx.outq with
  | [] => h
  | (t, k) :: rest =>
    if h.mxCanSend c k.isSome then
      let h := h.modMx c fun x => { x with outq := rest }
      match k with
      | some k => h.emitPair c t k
      | none => h.emit c (idMx 0) t
    else h

/-- The rewrite of the MX control frame (R212). -/
def Holder.mxRewrite (h : Holder) (c old new : Nat) : Holder :=
  if bits old 16 12 != bits new 16 12 then h.modCell c fun x => { x with mx := mxStart new }
  else if mxB old != mxB new then h.modMx c fun x => { x with loaded := 0, mpsn := 0 }
  else h

/-- An MX tile at rest: no token waits in it (R232). -/
def mxIdle (x : Mx) : Bool := x.rbuf.isEmpty && x.outq.isEmpty && x.ktok.isNone && x.flts.isEmpty

end Sys2Proof.Machine
end

