-- ==== Sys2Proof/Machine/Region.lean ====
section
/-! DEFINITION. What holds of a region as a whole: region errors and their fate (R427 to R430), illegal in-band words (R109), in-band configuration of elements (R235), the firing steps of stages, reducers, LUT islands, matrix tiles and merges. -/

namespace Sys2Proof.Machine

/-- The region's elements fire: it is placed, and no region error or illegal word stands (R104, R109, R428). -/
def Holder.active (h : Holder) : Bool :=
  h.id.life == .placed && !h.ev.rollDue && h.dp.err.isNone && h.dp.illegal.isNone

/-- The fate of a region error (R427, R426): a rollback that is now due, a kill, or, while a drain or a freeze runs, nothing unless the
state being saved is damaged. -/
def regionError (s : State) (h : Holder) (reason c : Nat) : State :=
  let soft := reason == rAUDITLINK || reason == rAUDITRATIO || reason == rUNCORR
  if h.ev.draining || h.ev.rackBy.isSome then
    if reason == rUNCORR || reason == rAUDITLINK then killRegion s h rDAMAGED c else s
  else if soft && h.replayable && h.ev.rollbacks < 2 then
    (regionRecord s h reason 0 c).modH h.id.inst fun h => { h with ev := { h.ev with rollDue := true } }
  else killRegion s h reason c

/-- The report and the kill of an illegal in-band word (R109): cause 3 and the element's location. -/
def illegalWord (s : State) (h : Holder) (f : Frame) : State :=
  killHolder (postLoad s h.id.pid h.id
    { part := f.part, target := f.target, kind := f.kind, row := h.id.row + f.row, col := h.id.col + f.col, die := h.id.die, cause := 3 }) h

/-- A holder's record after a step of its datapath; an error that the step has met takes its fate. -/
def commit (s : State) (h : Holder) : State :=
  match h.dp.err, h.dp.illegal with
  | some (r, c), _ =>
    let h := { h with dp := { h.dp with err := none } }
    regionError (s.setH h.id.inst h) h r c
  | none, some f => illegalWord (s.setH h.id.inst h) h f
  | none, none => s.setH h.id.inst h

/-- A step of the region of a holder. -/
def atRegion (s : State) (i : Nat) (f : Holder → State) : Out :=
  match s.h? i with
  | some h => if h.active then .next (f h) else .next s
  | none => .next s

/-- The device gates the firings of the fabric in this cycle (R447): it throttles, and the cycle is one of those that it takes out. -/
def State.gated (s : State) : Bool := s.host.throttle && Config.gates (s.now 0)

/-- A step of one cell of a region that only changes the holder: an element fires, in a cycle that is not gated. -/
def atCell (s : State) (i c : Nat) (f : Holder → Holder) : Out :=
  if s.gated then .next s else atRegion s i fun h => if c < h.id.ncells then commit s (f h) else s

/-! ## Elements of the fabric -/

/-- STAGE_FIRE (R162, R163). -/
def stageFireStep (i c k : Nat) (s : State) : Out := atCell s i c fun h => h.stageFire c k

/-- REDUCER_FIRE (R190). -/
def execReducerFire (i c : Nat) (s : State) : Out := atCell s i c fun h => h.reducerFire c

/-- LUTI_FIRE (R198). -/
def lutiFireStep (i c : Nat) (s : State) : Out := atCell s i c fun h => h.lutiFire c

/-- The identifier of R99 of a port, below 128. -/
def portNum (p : PortId) : Nat := p.place % 8 * 16 + p.port % 16

/-- The switch of an edge port, in the bits of a port number above those of R99 (log 12). -/
def edgeTile (p : PortId) : Nat := p.port / 16 % 4

/-- SWM_MERGE (R221), at an input port of an element or at an edge port of a switch. -/
def swmMergeStep (i c : Nat) (p : PortId) (s : State) : Out :=
  atCell s i c fun h => h.merge c (if portNum p < 64 then portNum p else edgeKey (edgeTile p) (portNum p))

/-- MX_WEIGHT_TOKEN (R202). -/
def mxWeightTokenStep (i c : Nat) (s : State) : Out := atCell s i c fun h => h.mxWeight c

/-- MXROW (R203). -/
def mxrowStep (i c : Nat) (s : State) : Out := atCell s i c fun h => h.mxRow c

/-- MX_SEGMENT_END (R205). -/
def mxSegmentEndStep (i c : Nat) (s : State) : Out := atCell s i c fun h => h.mxSegEnd c

/-! ## In-band configuration (R235) -/

/-- The frame a CFG token carries for an element of a cell, whose words are named by KIND and TARGET. The cell's ratio checks are
taken by any of its elements (log 12). -/
def Holder.ownFrame (h : Holder) (c : Nat) (own : List (Nat × Nat)) (t : Token) : Option Frame :=
  let f := t.frame
  if t.kind == .cfg && f.col == h.cellCol c && f.row == h.cellRow c && (own.contains (f.kind, f.target) || (f.kind == 2 && f.target == 11))
  then some f else none

/-- What else a rewrite does: DIFF of every check of target 11 returns to 0 (R414), the loop counters start again (R394). -/
def Holder.afterFrame (h : Holder) (c : Nat) (f : Frame) : Holder :=
  if f.kind == 2 && f.target == 11 then h.modCell c fun x => { x with diffs := [], behind := [] }
  else if f.kind == 0 && f.target == 6 then h.modCell c fun x => { x with loops := List.replicate 3 {} }
  else h

/-- Put an element's frame in force; a frame whose header or word is illegal is an illegal in-band word (R109). -/
def Holder.apply (h : Holder) (c : Nat) (t : Token) (f : Frame) : Holder :=
  let h' := h.putFrame t f
  if h'.dp.illegal.isSome then h' else h'.afterFrame c f

/-- A code-table frame (R97). -/
def tableFrame (t : Token) : Option Frame :=
  let f := t.frame
  if t.kind == .cfg && f.kind == 0 && f.target == 8 then some f else none

/-- A code-table frame passes a decoding place: its copy changes, or the frame is an illegal in-band word (R97, R109, R374). -/
def Holder.passTable (h : Holder) (c place : Nat) (t : Token) : Holder :=
  match tableFrame t with
  | none => h
  | some f =>
    if headerOk h.id.w h.id.h (bits t.val.toNat 0 256) && wordOk h.id.cls f then h.modCell c fun x => x.setTable place f
    else { h with dp := { h.dp with illegal := h.dp.illegal <|> some f } }

/-- A CFG at a head of stage `k`, behind source code `code`: applied, or sent on (R235, R176). DESIGN CHOICE (log 12): one that rewrites
the stage's word waits while PIPE[k] holds a token that is not yet taken, and so resets an empty register (R158). -/
def Holder.stageCfg (h : Holder) (c k code : Nat) : Holder :=
  match h.srcHead c k code with
  | none => h
  | some t =>
    if t.kind != .cfg || (h.pipe c k).full then h
    else match h.ownFrame c [(0, k), (0, 6)] t with
      | some f =>
        if f.kind == 0 && f.target == k then
          if (h.pipe c k).opn then h.closeOpen c k
          else
            -- the loop counters start again with the word of the stage that counts (R158, R394)
            let h := if counting (h.stage c k) then h.modCell c fun x => { x with loops := List.replicate 3 {} } else h
            ((h.srcTake c k code).modPipe c k fun _ => {}).apply c t f
        else (h.srcTake c k code).apply c t f
      | none =>
        let h := if sOp (h.stage c k) == 0x4A then h.passTable c k t else h
        if h.dp.illegal.isSome then h else (h.srcTake c k code).pipePut c k t []

/-- A CFG at the tree (R235). DESIGN CHOICE (log 12): TREE takes its start values with the reducer's word, which arrives in TREE itself,
and not with the feeder's (R189 names no stage). -/
def Holder.treeCfg (h : Holder) (c : Nat) : Holder :=
  match firstBelow 6 fun k => isReducer (h.stage c k), (h.cell c).tree with
  | some k, some t =>
    if t.kind != .cfg || (h.pipe c k).full then h
    else
      let h' := h.modCell c fun x => { x with tree := none }
      match h.ownFrame c [(0, k), (0, 6)] t with
      | some f =>
        if f.kind == 0 && f.target == k then ((h'.modCell c fun x => { x with treeOld := {} }).modPipe c k fun _ => {}).apply c t f
        else h'.apply c t f
      | none => h'.pipePut c k t []
  | _, _ => h

/-- A CFG at in0 of the matrix tile (R212, R211): a rewrite only between rows; tables are applied and sent on (R374). -/
def Holder.mxCfg (h : Holder) (c : Nat) : Holder :=
  match h.head c (idMx 0) with
  | none => h
  | some t =>
    if t.kind != .cfg then h
    else match h.ownFrame c [(0, 7)] t with
      | some f =>
        if f.kind == 0 then
          if !(h.cell c).mx.rbuf.isEmpty then
            if (h.cell c).mx.rbuf.length < mxRowLen (h.cell c).mx then { h with dp := { h.dp with illegal := h.dp.illegal <|> some f } }
            else h
          else if !(h.cell c).mx.outq.isEmpty then h
          else
            let old := h.mxWord c
            let h' := (h.take c (idMx 0)).apply c t f
            if h'.dp.illegal.isSome then h' else h'.mxRewrite c old (h'.mxWord c)
        else (h.take c (idMx 0)).apply c t f
      | none =>
        -- behind the outputs of every whole row before it
        if mxRowLen (h.cell c).mx ≤ (h.cell c).mx.rbuf.length then h
        else
          let h := h.passTable c 6 t
          if h.dp.illegal.isSome then h else (h.take c (idMx 0)).modMx c fun x => { x with outq := x.outq ++ [(t, none)] }

/-- The words of an MU port (R98). -/
def Holder.muOwn (h : Holder) (c p : Nat) : List (Nat × Nat) :=
  (1, p) :: (if muType (h.muWord c p) == 3 then [(1, 4 + muCb (h.muWord c p))] else [])

/-- The generator behind an endpoint's CFG frames has one frame less to bring to an MU read port (R428). -/
def Holder.gateDown (h : Holder) (e : Option Nat) : Holder :=
  match e with
  | some k => { h with eps := listMod h.eps k fun x => { x with gate := x.gate - 1 } }
  | none => h

/-- A CFG at an element with one input and one output of its own. -/
def Holder.plainCfg (h : Holder) (c id : Nat) (own : List (Nat × Nat)) : Holder :=
  match h.head c id with
  | none => h
  | some t =>
    if t.kind != .cfg then h
    else match h.ownFrame c own t with
      | some f => (h.take c id).apply c t f
      | none => if h.canEmit c id then (h.take c id).emit c id t else h

/-- A CFG at the LUT island. -/
def Holder.lutiCfg (h : Holder) (c : Nat) : Holder :=
  match h.head c idLuti with
  | none => h
  | some t =>
    if t.kind != .cfg || (h.cell c).lout.tok.isSome then h
    else match h.ownFrame c [(2, 8), (2, 9), (2, 10)] t with
      | some f => ((h.take c idLuti).apply c t f).modCell c fun x => if f.target == 11 then x else { x with loutOld := {} }
      | none => (h.take c idLuti).modCell c fun x => { x with lout := { tok := some t } }

/-! ## Where an input comes from -/

/-- The output port at the far end of a destination. -/
def Holder.origin (h : Holder) : Nat → DstRef → Option (Nat × Nat)
  | 0, _ => none
  | fuel + 1, r => match h.route r.cell r.tile r.e with
    | none => none
    | some rt =>
      if rt.src < 64 then some (r.cell, rt.src)
      else match h.beside r.cell (rt.src / 16) with
        | none => none
        | some n => match h.intoEdge n r.tile (facing (rt.src / 16) * 16 + rt.src % 16) with
          | (q, _) :: _ => h.origin fuel q
          | [] => none

/-- The address generator whose addresses reach an input port, through translation operators. -/
def Holder.genOf (h : Holder) : Nat → Nat → Nat → Option (Nat × Nat)
  | 0, _, _ => none
  | fuel + 1, c, id => match h.into c id with
    | (r, _) :: _ => match h.origin hopFuel r with
      | some (oc, o) => if o == idAgen 0 then some (oc, 0) else if o == idAgen 1 then some (oc, 1)
        else if o == idXlat then h.genOf fuel oc idXlat else none
      | none => none
    | [] => none

/-- The endpoint that a generator's word names (R101, R228). -/
def Holder.genEp (h : Holder) (c g : Nat) : Option Nat := (agEp (h.agenWord c g)).filter fun e => e < h.eps.length

/-- The endpoint that an MU port serves: named in its word, or that of the generator that feeds it (R98, R228). -/
def Holder.muEndpoint (h : Holder) (c p : Nat) : Option Nat :=
  match muEp (h.muWord c p) with
  | some e => some e
  | none => match h.genOf 8 c (idMuIn0 p) with
    | some (gc, g) => h.genEp gc g
    | none => none

/-- Change an endpoint. -/
def Holder.modEp (h : Holder) (e : Nat) (f : Ep → Ep) : Holder := { h with eps := listMod h.eps e f }

/-- An endpoint. -/
def Holder.ep (h : Holder) (e : Nat) : Ep := h.eps.getD e {}

/-- A CFG at in0 or in1 of an MU port: one for the port waits for the requests ahead of it (R235). -/
def Holder.muCfg (h : Holder) (c p id : Nat) : Holder :=
  match h.head c id with
  | none => h
  | some t =>
    if t.kind != .cfg || !((h.cell c).ports.getD p {}).reqs.isEmpty then h
    else match h.ownFrame c (h.muOwn c p) t with
      | some f => ((h.take c id).gateDown (if id == idMuIn0 p then h.muEndpoint c p else none)).apply c t f
      | none =>
        -- a sink discards a frame for another element; a port with an output passes it as a request
        match muType (h.muWord c p) with
        | 2 | 5 => h.take c id
        -- with an output, MUAT_UPDATE passes it
        | 4 => if muRes (h.muWord c p) then h else h.take c id
        | _ => h

/-- CFG_APPLY (R235): at CU inputs and, with port 8 + k, at PIPE[k] as the next stage's head, or with 14 at the tree; at the
inputs of the other tiles. -/
def cfgApplyStep (i c : Nat) (p : PortId) (s : State) : Out :=
  atCell s i c fun h =>
    match p.place, p.port with
    | 0, n =>
      if n < 4 then (match h.stageIn c n with | some k => h.stageCfg c k (n + 1) | none => h)
      else if n == 14 then h.treeCfg c
      else if 8 ≤ n && n < 13 && h.nextReads c (n - 8) then h.stageCfg c (n - 7) 0
      else h
    | 1, 0 => h.mxCfg c
    | 1, n => if 0 < n && n < 4 && mxMacen (h.mxWord c) != 0 then
        (match h.head c (idMx n) with
         | some t => if t.kind == .cfg then h.mxSideCfg t else h
         | none => h)
      else h
    | 2, n => if n < 8 then h.muCfg c (n / 2) (32 + n) else h
    | 3, 2 => h.plainCfg c idXlat [(3, 2)]
    | 3, 3 => h.lutiCfg c
    -- a gather generator first uses up the token it holds
    | 3, g => if g < 2 && ((h.cell c).agens.getD g {}).gather.isNone then h.plainCfg c (idAgen g) [(3, g)] else h
    | _, _ => h

end Sys2Proof.Machine
end

