-- ==== Sys2Proof/Machine/MuPorts.lean ====
section
/-! DEFINITION. MU stream ports (R237 to R240), circular buffers (R241, R242), reorder and corner-turn elements (R243 to R245). -/

namespace Sys2Proof.Machine

/-! ## Ports -/

/-- An MU port. -/
def Holder.mu (h : Holder) (c p : Nat) : MuPort := (h.cell c).ports.getD p {}

/-- An ADDR token (R360). -/
def addrTok (a attr : Nat) : Token :=
  dataTok [(a % 2 ^ 32, true, false), (a / 2 ^ 32, true, false), (attr, true, false)]

/-- The die that serves a place to a reader on a die: the memory's; the chain link's that holds the line for it (R315); of a line of host
memory D0, which has the host port, or the reader's own when a ZLK port carries it (R30). -/
def Place.home (s : State) (d : Nat) (p : Place) : Nat :=
  if p.kind == 0 then d
  else if p.kind == 5 then (if bitAt p.addr 63 then d else 0)
  else if p.kind == 4 then
    let c := s.chain p.ch
    if (c.linkOn d).isSome then d else (c.link (c.links.length - 1)).die
  else dieOfPa p.addr

/-- The physical address of a place to a reader on a die: of a chain line, that at the link that serves it. -/
def Place.phys (s : State) (d : Nat) (p : Place) : Nat :=
  if p.kind == 4 then
    let c := s.chain p.ch
    (c.link ((c.linkOn d).getD (c.links.length - 1))).pb + p.addr
  else p.addr

/-- No path carries a line between a die and a place (R443, R444): no link leads there, or no ZLK port is up for another package's. What
a chain's readers do is R317's. -/
def cutOff (s : State) (d : Nat) (p : Place) : Bool :=
  if p.kind == 5 && bitAt p.addr 63 then !anyZlkUp s else p.kind != 4 && !reaches s d (p.home s d)

/-- The FLT that returns to the source of a line that no path carries (R262, R435). -/
def linkFlt (s : State) (d : Nat) (p : Place) : Token :=
  fltTok cLINKDOWN (min d (p.home s d) * 4 + max d (p.home s d)) (p.phys s d)

/-- The line an ADDR token names, or the FLT it gives (R360, R364). -/
def muPlace (s : State) (h : Holder) (c : Nat) (t : Token) : Except Token Place :=
  if !t.addrOk || (!t.sp && !t.phys) then .error (fltTok cXFAULT 7 t.addr)
  else
    let a := t.addr / 64 * 64
    if t.sp then
      if a < 2 ^ 20 && !(h.fn.foldedOn.isSome && 0xE0000 ≤ a) then .ok ⟨0, scratchKey h.id.die (h.id.cellAt c) a, 0⟩
      else .error (fltTok cXFAULT 1 a)
    else
      let k := bits (t.lane 2) 3 3
      let ch := bits (t.lane 2) 6 6
      if k == 4 then
        if chainLive s ch && a < (s.chain ch).np * 2 ^ 24 then .ok ⟨4, a, ch⟩ else .error (fltTok cXFAULT 1 a)
      else if 1 ≤ k && k ≤ 3 && paAssigned a && (k == 3) == inCellar a then
        if cutOff s h.id.die ⟨k, normPa a, 0⟩ then .error (linkFlt s h.id.die ⟨k, normPa a, 0⟩) else .ok ⟨k, normPa a, 0⟩
      else .error (fltTok cXFAULT 1 a)

/-- The binding of an endpoint is guaranteed. -/
def Holder.assured (h : Holder) (k : Nat) : Bool := (h.ep k).bind.any fun b => b.g

/-- A guaranteed binding whose bucket allows no line now: LEVEL is below 64, or a refill is due, which goes first (R399, R401). -/
def Holder.starved (h : Holder) (s : State) (e : Option Nat) : Bool :=
  match e with
  | some k => h.assured k && ((h.ep k).level < 64 || refillDue s h.id.die)
  | none => false

/-- A line of an endpoint's binding leaves, and takes 64 of a guaranteed one's LEVEL (R401). -/
def Holder.spend (h : Holder) (e : Option Nat) : Holder :=
  match e with
  | some k => if h.assured k then h.modEp k fun x => { x with level := x.level - 64 } else h
  | none => h

/-- The effective round length of an IN endpoint: 0 when AUDIT is off (R47, R411). -/
def Holder.roundLen (h : Holder) (e : Nat) : Nat :=
  let a := modeAudit h.id.mode
  let r := (h.ep e).gr.round
  if a == 0 then 0 else if r == 0 then a else min r a

/-- HELD (R416). -/
def Ep.heldCount (x : Ep) : Nat := (x.held.filter fun t => t.2.counts).length

/-- What an IN endpoint delivers next. -/
inductive InNext where
  | cfg (a : Nat) | rmk | eos | dmk | data | wait
deriving DecidableEq, Repr

/-- R230, R231, R233, R411, R415 and R420: frames first, then data with a marker after each round, a marker closing a part-filled
round, and EOS; a drain stops it between rounds. -/
def Holder.inNext (h : Holder) (e : Nat) (ended : Bool) : InNext :=
  let x := h.ep e
  let n := h.roundLen e
  if !h.th.sys.run then .wait
  else match x.cfgNow with
  | (a, _) :: _ => .cfg a
  | [] =>
    let stop : InNext := if h.ev.draining && !x.dmkOut then .dmk else .wait
    if x.eosOut then stop
    else if !x.live then .eos
    else if 0 < n && n ≤ x.inrnd then .rmk
    else if ended || (x.seos && x.seosAt ≤ x.issued) then (if 0 < n && 0 < x.inrnd then .rmk else .eos)
    else if h.ev.draining && (if n == 0 then !x.more else x.inrnd == 0) then stop
    else if 0 < n && 1024 ≤ x.heldCount then .wait
    else .data

/-! ## Withheld accesses (R363) -/

/-- Two records of one withheld access. -/
def Withheld.same (x y : Withheld) : Bool := x.who == y.who && x.cell == y.cell && x.copy == y.copy && x.ep == y.ep

/-- An access begins to be withheld: it is listed with its timer, and an XPEND record is posted. -/
def withhold (s : State) (pid : Nat) (x : Withheld) (r : FaultRec) : State :=
  if s.pkg.withheld.any fun y => y.same x && y.va == x.va then s
  else
    let n := s.now x.die
    postFault (s.modPkg fun p => { p with withheld := p.withheld ++ [{ x with since := n, next := n + usCycles }] }) pid r

/-- A holder's access begins to be withheld: of a translation operator of a cell, of a copy, or of an endpoint at a port. -/
def withholdAt (s : State) (h : Holder) (x : Withheld) : State :=
  withhold s h.id.pid { x with who := h.agent, die := h.id.die } (h.id.record cXPEND x.info x.va 0)

/-- An access of a holder is withheld. -/
def isWithheld (s : State) (h : Holder) (x : Withheld) : Bool := s.pkg.withheld.any fun y => y.same { x with who := h.agent }

/-! ## The network port of a cell (R402) -/

/-- A guaranteed line of endpoint `e` waits at the port of cell `c`, in a direction, and its bucket allows it (R401, R402). -/
def Holder.lineWaits (h : Holder) (s : State) (c : Nat) (out : Bool) (e : Nat) : Bool :=
  let x := h.ep e
  h.assured e && 64 ≤ x.level &&
  (match x.gr.place with
   | .port pc pl pt =>
     let id := pl % 8 * 16 + pt % 16
     pc == c && x.gr.out == out && !isWithheld s h { ep := some e } &&
     (if out then (h.offer (.port c id) epCode).any Token.counts
      else (h.dp.feeds.getD (c * 128 + id) []).isEmpty &&
        h.inNext e (match x.bind with | some b => b.extent ≤ x.issued | none => true) == .data)
   | .gen _ _ => (List.range 4).any fun p =>
     h.muEndpoint c p == some e &&
     (match muType (h.muWord c p) with
      | 1 => !out && (h.mu c p).rob.length < 16 && (h.mu c p).reqs.head?.any fun r => r.1.counts
      | 2 | 4 => out && !(h.mu c p).reqs.isEmpty
      | _ => false))

/-- The request for a line of a place leaves cell `c` now: its bucket allows it, the port has a slice cycle left, no guaranteed line goes
before it, in endpoint order, and, best-effort, the port holds its tenant back from no slice (R401, R402, R410). A line of the cell's own
scratchpad crosses no port. -/
def Holder.reqGoes (h : Holder) (s : State) (c : Nat) (out : Bool) (e : Option Nat) (p : Place) : Bool :=
  let g : Option Nat := e.filter h.assured
  !h.starved s e &&
  (p.kind == 0 ||
   (portFree s h c out &&
    ((List.range h.eps.length).all fun k => !h.lineWaits s c out k || g.any fun j => j ≤ k) &&
    (g.isSome || !portHeld s h c p)))

/-- A line of an endpoint is guaranteed, or its slice serves it now (R408). -/
def Holder.lineServed (h : Holder) (s : State) (c : Nat) (e : Option Nat) (p : Place) : Bool := e.any h.assured || sliceServes s h c p

/-- A best-effort line of an endpoint has been served. -/
def Holder.lineTook (h : Holder) (s : State) (c : Nat) (e : Option Nat) (p : Place) : State :=
  if e.any h.assured then s else sliceTook s h c p

/-- A line for a place leaves cell `c` now and is served. -/
def Holder.lineGoes (h : Holder) (s : State) (c : Nat) (out : Bool) (e : Option Nat) (p : Place) : Bool :=
  h.reqGoes s c out e p && h.lineServed s c e p

/-- A line has left through the port and has been served. -/
def Holder.lineMoved (h : Holder) (s : State) (c : Nat) (out : Bool) (e : Option Nat) (p : Place) : State :=
  h.lineTook (portMoved s h c out p) c e p

/-- A place in host memory, for the port (R293). -/
def hostPlace (a : Nat) : Place := ⟨5, a, 0⟩

/-- A sink takes a FLT, or a FLT returns to its source (R435): SERR is set and a record posted. -/
def faultTaken (s : State) (h : Holder) (t : Token) : State :=
  let v := t.lane 0 + t.lane 1 * 2 ^ 32
  let s := s.modThOf h.id.inst fun t => { t with sys := { t.sys with serr := true } }
  postFault s h.id.pid (h.id.record (bits v 0 8) (bits v 8 10) (bits v 18 46 * 64) 0)

/-! ## Reads -/

/-- A port takes its next head into its request queue. -/
def Holder.muTake (h : Holder) (c p : Nat) (own : Bool) : Holder :=
  let id := idMuIn0 p
  match h.head c id with
  | none => h
  | some t =>
    if 4 ≤ (h.mu c p).reqs.length || (own && (h.ownFrame c (h.muOwn c p) t).isSome) then h
    else (h.take c id).modMu c p fun x => { x with reqs := x.reqs ++ [(t, {})] }

/-- Reserve the tail entry of the reorder buffer for the first request; it follows the packets of its stream that have taken the escape
channel and have not been answered (R261). -/
def Holder.muIssue (h : Holder) (c p : Nat) (e : RobEnt) : Holder :=
  h.modMu c p fun x => { x with
    reqs := x.reqs.tail, tail := x.tail + 1
    rob := x.rob ++ [{ e with id := x.tail, escaped := x.rob.any fun r => r.res.isNone && r.escaped }] }

/-- A read line is clean for its process (R256): the translation by which its operator made the token has write = 0 (log 22). -/
def Holder.cleanRead (h : Holder) (c p : Nat) (t : Token) (pl : Place) : Bool :=
  (pl.kind == 1 || pl.kind == 2) &&
  (match h.into c (idMuIn0 p) with
   | (r, _) :: _ => match h.origin hopFuel r with
     | some (oc, o) => o == idXlat && (h.cell oc).xlat.made.find (t.addr / 65536) == some false
     | none => false
   | [] => false)

/-- MURD_REQUEST (R237, R240): the oldest request issues when a reorder entry is free; otherwise the next head is taken. -/
def murdRequestStep (i c p : Nat) (s : State) : Out :=
  atRegion s i fun h =>
    if h.id.ncells ≤ c || 4 ≤ p || muType (h.muWord c p) != 1 then s
    else
      let m := h.mu c p
      let e := h.muEndpoint c p
      let again := commit s (h.muTake c p true)
      match m.reqs with
      | [] => again
      | (t, _) :: _ =>
        if 16 ≤ m.rob.length then again
        else if !t.counts then commit s (h.muIssue c p { req := t, res := some t })
        else match muPlace s h c t with
          | .error f => commit s (h.muIssue c p { req := t, res := some f })
          | .ok pl =>
            if !h.reqGoes s c false e pl then again
            else
              let s := portMoved (commit s ((h.muIssue c p { req := t, at_ := s.now h.id.die }).spend e)) h c false pl
              if h.cleanRead c p t pl then combine s.acquired (pl.addr / 64) (i, c, p, m.tail) (readPath h.id.die (h.id.cellAt c) pl.addr)
              else s

/-- A read of an MU port is performed, and its reply reaches every combined requester. -/
def readDone (s : State) (h : Holder) (c p e : Nat) (chain : Bool) : State :=
  match (h.mu c p).rob.find? fun r => r.id == e && r.res.isNone with
  | none => s
  | some r =>
    match muPlace s h c r.req with
    | .error f => fillRob s (h.id.inst, c, p, e) f
    | .ok pl =>
      let q : Requester := (h.id.inst, c, p, e)
      let b := h.muEndpoint c p
      if (pl.kind == 4) != chain || absorbed s q || s.ownPending h.agent pl || !h.lineServed s c b pl then s
      else match s.lineAt h.id.die pl with
        | none => s
        | some l =>
          let (v, psn) := s.readAs h.id.inst .fs pl l
          giveReply (replied (h.lineTook (s.didRead h.id.inst .fs pl) c b pl) q v psn) v psn q

/-! ## The escape channel (R261) -/

/-- Best-effort requests of a die's MU ports that have issued and stand unanswered: holder, cell, port and reorder entry. -/
def standingReqs (s : State) (d : Nat) : List Requester :=
  s.hold.flatMap fun e => if e.2.id.die != d || e.2.id.life != .placed then [] else
    (List.range e.2.id.ncells).flatMap fun c => (List.range 4).flatMap fun p =>
      if (e.2.muEndpoint c p).any fun k => (e.2.ep k).bind.any fun b => b.g then []
      else ((e.2.mu c p).rob.filter fun r => r.res.isNone).map fun r => (e.1, c, p, r.id)

/-- A request, and every later one of its stream that stands unanswered, takes the escape channel. -/
def escapeReq (s : State) (q : Requester) : State :=
  s.modH q.1 fun h => h.modMu q.2.1 q.2.2.1 fun x => { x with
    rob := x.rob.map fun r => if q.2.2.2 ≤ r.id && r.res.isNone then { r with escaped := true } else r }

/-- Best-effort stores of a die that stand in its buffers (R261). -/
def standingStores (s : State) (d : Nat) : List Pending := (s.die d).m.pend.filter fun x => !x.g

/-- A store, and every later one of its agent on its path, takes the escape channel. -/
def escapeStore (s : State) (d : Nat) (x : Pending) : State :=
  s.modM d fun m => { m with pend := m.pend.map fun y =>
    if x.id ≤ y.id && y.agent == x.agent && y.cls == x.cls && !y.g then { y with escaped := true } else y }

/-- ESCAPE_TIMEOUT (R261): a BE packet that has stood for 4,096 slice cycles takes the escape channel, and every later packet of
its stream with it. The packets of a die are its messages, then the requests of its MU ports, then the stores in its buffers; each stands at
one router (log 11). -/
def execEscapeTimeout (d i : Nat) (s : State) : Out :=
  let net := (s.die d).m.net
  if i < net.length then
    let p := net.getD i { id := 0, src := 0, dst := 0 }
    if 4096 ≤ 2 * (s.now d - p.at_) && !p.escaped then
      .next (s.modM d fun m => { m with net := m.net.zipIdx.map fun (q, j) =>
        if i ≤ j && q.src == p.src && q.dst == p.dst then { q with escaped := true } else q })
    else .next s
  else .next (match (standingReqs s d).drop (i - net.length) with
    | [] => match (standingStores s d).drop (i - net.length - (standingReqs s d).length) with
      | x :: _ => if 4096 ≤ 2 * (s.now d - x.at_) && !x.escaped then escapeStore s d x else s
      | [] => s
    | q :: _ => match s.h? q.1 with
      | none => s
      | some h => match (h.mu q.2.1 q.2.2.1).rob.find? fun r => r.id == q.2.2.2 with
        | some r => if 4096 ≤ 2 * (s.now d - r.at_) && !r.escaped then escapeReq s q else s
        | none => s)

/-- The lanes of an MUAT result (R238). -/
def muatTok (r : RobEnt) : Token :=
  dataTok ((List.range 16).map fun i =>
    match r.lanes.find? fun l => l.1 == i with
    | some (_, v, bad) => (v, true, bad)
    | none => (0, r.opnd.ok i, true))

/-- MU_RESPONSE (R240): the reply to the request of reorder entry `e` of a port: a read, or the old values of an atomic that have
come back from its home. -/
def execMuResponse (i c p e : Nat) (s : State) : Out :=
  atRegion s i fun h =>
    if h.id.ncells ≤ c || 4 ≤ p then s
    else if muType (h.muWord c p) == 4 then
      let mine (l : LaneDone) : Bool := l.inst == i && l.cell == c && l.port == p && l.entry == e
      let got := s.pkg.laneDone.filter mine
      let s := s.modPkg fun k => { k with laneDone := k.laneDone.filter fun l => !mine l }
      commit s (h.modMu c p fun x => { x with rob := x.rob.map fun r =>
        if r.id == e && r.res.isNone then
          let r := { r with lanes := r.lanes ++ got.map (fun l => (l.lane, l.val, l.psn)), due := r.due - got.length }
          if r.due == 0 then { r with res := some (muatTok r) } else r
        else r })
    else if muType (h.muWord c p) == 1 then readDone s h c p e false
    else s

/-- CHAIN_READ (R315): a read of an MU port in chain class is served from the local copy or from the tail. -/
def execChainRead (i c p e : Nat) (s : State) : Out :=
  atRegion s i fun h =>
    if h.id.ncells ≤ c || 4 ≤ p || muType (h.muWord c p) != 1 then s else readDone s h c p e true

/-! ## Sinks -/

/-- Every store of a class that an agent has issued on a stream is accepted (R232, R415). -/
def streamsAccepted (s : State) (h : Holder) : Bool :=
  (pendingOf s h.agent .fs).isEmpty && (pendingOf s h.agent .mw).isEmpty && (pendingOf s h.agent .hx).isEmpty

/-- An OUT endpoint's sink takes an RMK (R416). -/
def Ep.tookRmk (x : Ep) : Ep := { x with srnd := x.srnd + 1, marks := x.marks ++ [(x.srnd + 1, x.sent)] }

/-- A sink takes an RMK or a DMK at an input of an MU port (R415, R420); bit 0 is in0. -/
def Holder.sinkMark (h : Holder) (c p : Nat) (t : Token) (b : Bool) : Holder :=
  let h := h.modMu c p fun x =>
    if t.kind == .rmk then
      let x := { x with marks := x.marks ++ [((if b then x.srnd else x.srndA) + 1, x.svpos)] }
      if b then { x with srnd := x.srnd + 1 } else { x with srndA := x.srndA + 1 }
    else { x with dmk := x.dmk ||| (if b then 2 else 1) }
  match h.muEndpoint c p with
  | some e => if t.kind == .rmk && (h.ep e).gr.out then h.modEp e Ep.tookRmk else h
  | none => h

/-- The address input is fed by an unbound OUT endpoint (R230, R237). -/
def Holder.unboundOut (h : Holder) (c p : Nat) : Bool :=
  match h.muEndpoint c p with
  | some e => (h.ep e).gr.out && (h.ep e).bind.isNone
  | none => false

/-- The sink takes one FLT of EXTENT for the segment (R229, R237, R239). -/
def extentOnce (s : State) (h : Holder) (c p : Nat) : State :=
  if (h.mu c p).extFlt then s.setH h.id.inst h
  else
    let h := h.modMu c p fun x => { x with extFlt := true }
    faultTaken (s.setH h.id.inst h) h (fltTok cEXTENT 0 0)

/-- A token that makes no access passes to the output of a port behind the requests before it (R237). -/
def Holder.muPass (h : Holder) (c p : Nat) (t : Token) : Holder :=
  h.modMu c p fun x => { x with rob := x.rob ++ [{ id := x.tail, req := t, res := some t }], tail := x.tail + 1 }

/-- Pair the heads of MUWR and MUAT by R237's table. With an output (`ret`), the operand input's markers and the EOS of both pass to
it. -/
def sinkPair (s : State) (h : Holder) (c p : Nat) (ret : Bool) : State :=
  let a := idMuIn0 p
  let b := idMuIn1 p
  let m := h.mu c p
  -- a marker or FLT that stands alone at one input
  let lone (s : State) (id : Nat) (t : Token) (second : Bool) : State :=
    if t.kind == .flt then
      let s := commit s (h.take c id)
      let isExt := bits (t.lane 0) 0 8 == cEXTENT
      let s := s.modH h.id.inst fun h => h.modMu c p fun x => { x with extFlt := x.extFlt || isExt }
      faultTaken s h t
    else if m.reqs.isEmpty && streamsAccepted s h then
      let h := (h.take c id).sinkMark c p t second
      commit s (if ret && second then h.muPass c p t else h)
    else s
  let isLone (t : Token) : Bool := t.kind == .rmk || t.kind == .dmk || t.kind == .flt
  match h.head c a, h.head c b with
  | some t, u =>
    if isLone t then lone s a t false
    else match u with
      | none => s
      | some u =>
        if isLone u then lone s b u true
        else if t.kind == .cfg || u.kind == .cfg then s
        else if t.kind == .eos && u.kind == .eos then
          if m.reqs.isEmpty then
            let h := ((h.take c a).take c b).modMu c p fun x => { x with eos := true, extFlt := false }
            commit s (if ret then h.muPass c p t else h)
          else s
        else if t.kind == .eos then
          let s := commit s (h.take c b)
          if h.unboundOut c p then s else match s.h? h.id.inst with | some h => extentOnce s h c p | none => s
        else if u.kind == .eos then
          let s := commit s (h.take c a)
          match s.h? h.id.inst with | some h => extentOnce s h c p | none => s
        else if m.reqs.length < 4 then
          commit s (((h.take c a).take c b).modMu c p fun x => { x with reqs := x.reqs ++ [(t, u)] })
        else s
  | none, some u => if isLone u then lone s b u true else s
  | none, none => s

/-- A line of an OUT endpoint has issued; one whose place takes writes at once is accepted (R416). -/
def Holder.wrote (h : Holder) (e : Option Nat) (now : Bool) : Holder :=
  match e with
  | some k => if (h.ep k).gr.out then h.modEp k fun x => { x with sent := x.sent + 64, written := if now then x.written + 64 else x.written } else h
  | none => h

/-- A store as it belongs to an endpoint's line (R261, R416). -/
def Pending.of (x : Pending) (h : Holder) (e : Option Nat) : Pending :=
  { x with g := e.any h.assured, pos := (e.filter fun k => (h.ep k).gr.out).map fun k => (k, (h.ep k).sent) }

/-- Write the valid lanes of a token to a line (R237): none while a store buffer is full. -/
def writeLanes (s : State) (h : Holder) (e : Option Nat) (p : Place) (cls : PathClass) (t : Token) : Option State :=
  if p.deferred then
    let x : Pending := { agent := h.agent, cls := cls, epoch := h.th.sys.pepoch.toNat, ch := if p.kind == 4 then some p.ch else none
                         line := p.addr / 64 * 64, mask := laneMask t.vld, val := t.val, psn := t.psn &&& t.vld }
    (issueStore s h.id.pid h.id.die (x.of h e)).map (·.2)
  else some (s.writeAs h cls none none p (laneMask t.vld) t.val (t.psn &&& t.vld))

/-- MUWR_WRITE (R237): the oldest pair is written; with none, the next heads are taken. -/
def muwrWriteStep (i c p : Nat) (s : State) : Out :=
  atRegion s i fun h =>
    if h.id.ncells ≤ c || 4 ≤ p || muType (h.muWord c p) != 2 then s
    else match (h.mu c p).reqs with
      | [] => sinkPair s h c p false
      | (t, u) :: _ =>
        let e := h.muEndpoint c p
        let drop (h : Holder) : Holder := h.modMu c p fun x => { x with reqs := x.reqs.tail }
        match muPlace s h c t with
        | .error f => faultTaken (commit s (drop h)) h f
        | .ok pl =>
          if !h.lineGoes s c true e pl then sinkPair s h c p false
          else match writeLanes s h e pl .fs u with
            | none => sinkPair s h c p false
            | some s => h.lineMoved (commit s (((drop h).spend e).wrote e !pl.deferred)) c true e pl

/-! ## Atomics -/

/-- The function of AOP (R238). -/
def muatOp (fl : Bool) (aop : Nat) : AtomicOp :=
  match aop with
  | 0 => .add | 1 => .smin | 2 => .smax | 3 => .umin | 4 => .umax | 5 => .xchg
  | _ => .fadd fl

/-- The lanes of a pair that act: valid, and the operand not poisoned. -/
def muatLanes (u : Token) : List Nat := (List.range 16).filter fun i => u.ok i && !u.bad i

/-- Perform a pair at once, at a place that takes its writes at once: the state and the old values. -/
def muatNow (s : State) (h : Holder) (op : AtomicOp) (p : Place) (u : Token) : State × List (Nat × Nat × Bool) :=
  match s.lineAt 0 p with
  | none => (s, [])
  | some (v, psn) =>
    let old (i : Nat) : Nat := bits v.toNat (32 * i) 32
    let ls := muatLanes u
    let act := ls.filter fun i => !psn.getLsbD i
    let new : Line := act.foldl (fun acc i => acc ||| BitVec.ofNat 512 (atomicNew fadd32 op 4 (old i) (u.lane i) * 2 ^ (32 * i))) 0
    let mask : BitVec 64 := act.foldl (fun acc i => acc ||| byteMask (4 * i) 4) 0
    (if act.isEmpty then s else s.writeAs h .fs none none p mask new 0, ls.map fun i => (i, old i, psn.getLsbD i))

/-- Issue the atomics of a pair on a deferred line; none when the buffer cannot hold them all. -/
def muatIssue (s : State) (h : Holder) (k : Option Nat) (c port e : Nat) (op : AtomicOp) (p : Place) (u : Token) (ret : Bool) : List Nat → Option State
  | [] => some s
  | i :: rest =>
    let x : Pending := { ({ p with addr := p.addr + 4 * i }).pending h.agent .fs h.th.sys.pepoch.toNat 4 (u.lane i) with
      op := op, ret := if ret then .lane c port e i else .none }
    match issueStore s h.id.pid h.id.die (x.of h k) with
    | some (_, s) => muatIssue s h k c port e op p u ret rest
    | none => none

/-- A CFG for another element at in0 or in1 of an MUAT port with an output (R235). -/
def Holder.foreignCfg (h : Holder) (c p : Nat) : Option (Nat × Token) :=
  if !muRes (h.muWord c p) then none
  else firstSome [idMuIn0 p, idMuIn1 p] fun id => match h.head c id with
    | some t => if t.kind == .cfg && (h.ownFrame c (h.muOwn c p) t).isNone then some (id, t) else none
    | none => none

/-- MUAT_UPDATE (R238): the oldest pair is performed, or issued to its home; with none, the next heads are taken. -/
def muatUpdateStep (i c p : Nat) (s : State) : Out :=
  atRegion s i fun h =>
    let w := h.muWord c p
    if h.id.ncells ≤ c || 4 ≤ p || muType w != 4 then s
    else
      let m := h.mu c p
      let full := muRes w && 16 ≤ m.rob.length
      let more := sinkPair s h c p (muRes w)
      match m.reqs with
      | [] =>
        if full then s
        else match h.foreignCfg c p with
          | some (id, t) => commit s ((h.take c id).muPass c p t)
          | none => more
      | (t, u) :: _ =>
        let op := muatOp h.flush (muAop w)
        let e := h.muEndpoint c p
        let drop (h : Holder) (r : RobEnt) : Holder :=
          if muRes w then h.muIssue c p r else h.modMu c p fun x => { x with reqs := x.reqs.tail }
        if full then more
        else match muPlace s h c t with
          | .error f =>
            let s := commit s (drop h { req := t, opnd := u, res := some f })
            if muRes w then s else faultTaken s h f
          | .ok pl =>
            if !h.lineGoes s c true e pl then more
            else if pl.deferred then
              if (s.lineAt h.id.die pl).isNone then more
              else match muatIssue s h e c p m.tail op pl u (muRes w) (muatLanes u) with
                | none => more
                | some s =>
                  let r : RobEnt := { req := t, opnd := u, due := (muatLanes u).length, at_ := s.now h.id.die }
                  let r := if r.due == 0 then { r with res := some (muatTok r) } else r
                  h.lineMoved (commit s (((drop h r).spend e).wrote e (muatLanes u).isEmpty)) c true e pl
            else
              let (s', ls) := muatNow s h op pl u
              let r : RobEnt := { req := t, opnd := u, lanes := ls }
              h.lineMoved (wakeChanged s (commit s' (((drop h { r with res := some (muatTok r) }).spend e).wrote e true)) pl) c true e pl

/-- The place of the oldest pair of an MU write or atomic port, when its line could leave now (R262). -/
def Holder.muNext (h : Holder) (s : State) (c p : Nat) : Option Place :=
  let k := muType (h.muWord c p)
  match (h.mu c p).reqs with
  | [] => none
  | (t, _) :: _ => if k != 2 && k != 4 then none
    else match muPlace s h c t with
      | .ok pl => if h.lineGoes s c true (h.muEndpoint c p) pl then some pl else none
      | .error _ => none

/-- The oldest pair of such a port returns as a FLT: to the port's output where it has one, else to its sink (R262, R435). -/
def muLost (s : State) (h : Holder) (c p : Nat) (f : Token) : State :=
  match (h.mu c p).reqs with
  | [] => s
  | (t, u) :: _ =>
    if muType (h.muWord c p) == 4 && muRes (h.muWord c p) then
      if 16 ≤ (h.mu c p).rob.length then s else commit s (h.muIssue c p { req := t, opnd := u, res := some f })
    else faultTaken (commit s (h.modMu c p fun x => { x with reqs := x.reqs.tail })) h f

/-- MUSV_WRITE (R239). -/
def musvWriteStep (i c p : Nat) (s : State) : Out :=
  atRegion s i fun h =>
    let w := h.muWord c p
    if h.id.ncells ≤ c || 4 ≤ p || muType w != 5 then s
    else
      let id := idMuIn0 p
      match h.head c id with
      | none => s
      | some t =>
        let m := h.mu c p
        if t.counts then
          if m.svpos == muWsize w then
            match commit s (h.take c id) with
            | s => match s.h? i with | some h => extentOnce s h c p | none => s
          else
            let a := 64 * (muWbase w + m.svpos)
            let s := s.writeAs h .fs none none ⟨0, scratchKey h.id.die (h.id.cellAt c) a, 0⟩ (laneMask t.vld) t.val (t.psn &&& t.vld)
            commit s ((h.take c id).modMu c p fun x => { x with svpos := x.svpos + 1 })
        else match t.kind with
          | .cfg => s
          | .flt => faultTaken (commit s (h.take c id)) h t
          | .eos => commit s ((h.take c id).modMu c p fun x => { x with eos := true, extFlt := false })
          | _ => if streamsAccepted s h then commit s ((h.take c id).sinkMark c p t false) else s

/-! ## Circular buffers (R241, R242) -/

/-- A buffer of a cell. -/
def Holder.cb (h : Holder) (c n : Nat) : CBuf := (h.cell c).cbs.getD n {}

/-- The scratchpad place of a slot. -/
def cbPlace (h : Holder) (c n slot : Nat) : Place := ⟨0, scratchKey h.id.die (h.id.cellAt c) (64 * (cbBase (h.cbWord c n) + slot)), 0⟩

/-- A buffer has a free slot (R242). -/
def Holder.cbFree (h : Holder) (c n : Nat) : Bool := cbEn (h.cbWord c n) && (h.cb c n).fill < cbSize (h.cbWord c n)

/-- A buffer once a token stands in its next slot: pointer, count and side bits (R242). -/
def Holder.cbFilled (h : Holder) (c n : Nat) (t : Token) : Holder :=
  h.modCell c fun x => { x with cbs := listMod x.cbs n fun b => { b with
    wptr := (b.wptr + 1) % cbSize (h.cbWord c n), fill := b.fill + 1, side := Tbl.set b.side (.data, 0, 0) b.wptr (t.kind, t.psn, t.vld) } }

/-- Write a token into the next slot of a buffer; none while FREE = 0 (R242). -/
def cbPut (s : State) (h : Holder) (c n : Nat) (t : Token) : Option (State × Holder) :=
  if !h.cbFree c n then none
  else some (s.writeAs h .fs none none (cbPlace h c n (h.cb c n).wptr) (-1) t.val t.psn, h.cbFilled c n t)

/-- CB_WRITE (R242). -/
def cbWriteStep (i c p : Nat) (s : State) : Out :=
  atRegion s i fun h =>
    let w := h.muWord c p
    if h.id.ncells ≤ c || 4 ≤ p || muType w != 3 || muReader w then s
    else match h.head c (idMuIn0 p) with
      | none => s
      | some t =>
        if (h.ownFrame c (h.muOwn c p) t).isSome then s
        else match cbPut s (h.take c (idMuIn0 p)) c (muCb w) t with
          | some (s, h) => commit s h
          | none => s

/-- CB_READ (R242). -/
def execCbRead (i c p : Nat) (s : State) : Out :=
  atRegion s i fun h =>
    let w := h.muWord c p
    if h.id.ncells ≤ c || 4 ≤ p || muType w != 3 || !muReader w then s
    else
      let n := muCb w
      let b := h.cb c n
      if b.fill == 0 || !h.canEmit c (idMuOut p) then s
      else match s.lineAt h.id.die (cbPlace h c n b.rptr) with
        | none => s
        | some (v, psn) =>
          let (k, tp, vl) := b.side.getD b.rptr (.data, 0, 0)
          let t : Token := { kind := k, psn := (tp ||| psn) &&& vl, vld := vl, val := v }
          let h := h.modCell c fun x => { x with cbs := listMod x.cbs n fun b => { b with
            rptr := (b.rptr + 1) % cbSize (h.cbWord c n), fill := b.fill - 1, side := b.side.del b.rptr } }
          commit s (h.emit c (idMuOut p) t)

/-! ## Reorder and corner-turn elements (R243 to R245) -/

/-- What the two elements differ in. -/
structure BlockEl where
  id : Nat
  /-- KIND and TARGET of its word. -/
  own : List (Nat × Nat)
  size : Nat
  /-- Tokens it may hold ahead. -/
  room : BlockSt → Bool
  /-- Output at a position, `none` while its inputs are awaited; an inner `none` is skipped. -/
  out : BlockSt → Option (Option Token)
  /-- The block state once that output has left: tokens no output needs any more are dropped. -/
  next : BlockSt → BlockSt

/-- The end of the block that holds position `n`, or `n` itself between blocks. -/
def blockEnd (size n : Nat) : Nat := if n % size == 0 then n else (n / size + 1) * size

/-- The reorder element of a cell, when it is on. -/
def Holder.reordEl (h : Holder) (c : Nat) : Option BlockEl :=
  let w := h.pay c 1 12 0
  let p := roBlock w
  if bitAt w 130 then
    some ⟨idReord, [(1, 12)], p, fun b => b.toks.length < 64, fun b =>
      let k := b.outPos / p * p + (roMap w (b.outPos % p)).toNat
      if b.inPos ≤ b.outPos / p * p then none
      else match b.toks.find k with
        | some t => some (some t)
        | none => if k < b.inPos then some none else none,
      fun b => { b with toks := b.toks.del (b.outPos / p * p + (roMap w (b.outPos % p)).toNat), outPos := b.outPos + 1 }⟩
  else none

/-- The corner-turn node of a cell, when it is on. -/
def Holder.cturnEl (h : Holder) (c : Nat) : Option BlockEl :=
  let w := h.pay c 1 13 0
  let n := 2 ^ bits w 0 3
  if bitAt w 3 then
    some ⟨idCturn, [(1, 13)], n, fun b => b.inPos < (b.outPos / n + 2) * n, fun b =>
      let start := b.outPos / n * n
      if b.inPos < start + n then none
      else
        let j := b.outPos % n
        some (some (dataTok ((List.range n).map fun i =>
          match b.toks.find (start + i) with
          | some t => (t.lane j, t.ok j, t.bad j)
          | none => (0, false, false)))),
      fun b => { b with toks := b.toks.filter fun e => (b.outPos + 1) / n * n ≤ e.1, outPos := b.outPos + 1 }⟩
  else none

/-- The next input of a block element: a token of its block, or one held behind it. A frame for the element itself that is held lets the
rest of its block come in, and nothing more, since what follows begins a block of the new size (R235, R245). -/
def Holder.blockTake (h : Holder) (c : Nat) (el : BlockEl) (b : BlockSt) (put : Holder → BlockSt → Holder) : Holder :=
  if b.held.any fun e => e.1 ≤ b.inPos && (h.ownFrame c el.own e.2).isSome then h
  else match h.head c el.id with
    | none => h
    | some t =>
      if t.counts then
        if el.room b then put (h.take c el.id) { b with toks := b.toks.put b.inPos t, inPos := b.inPos + 1 } else h
      else
        let at_ := blockEnd el.size b.inPos
        if 4 ≤ b.held.length then
          -- a fifth of one block is an error; one of a later block waits until those before it have left
          if b.inPos % el.size != 0 && b.held.all (fun e => e.1 == at_) then h.fail rKINDMIX c else h
        else put (h.take c el.id) { b with held := b.held ++ [(at_, t)], inPos := if t.kind == .eos then at_ else b.inPos }

/-- One move of a block element: a held token that is due, or an output, and, while its output is blocked or awaited, the next input
(R243, R244). -/
def Holder.blockStep (h : Holder) (c : Nat) (el : BlockEl) (st : CellSt → BlockSt) (set : CellSt → BlockSt → CellSt) : Holder :=
  let b := st (h.cell c)
  let put (h : Holder) (b : BlockSt) : Holder := h.modCell c fun x => set x b
  let due : Option Token := match b.held with | (n, t) :: _ => if n ≤ b.outPos then some t else none | [] => none
  match due with
  | some t =>
    match h.ownFrame c el.own t with
    | some f => (put h { held := b.held.tail.map fun e => (0, e.2) }).apply c t f
    | none =>
      if h.canEmit c el.id then
        let h := if t.kind == .rmk && b.inPos % el.size != 0 then h.ropen else h
        (put h { b with held := b.held.tail }).emit c el.id t
      else h.blockTake c el b put
  | none =>
    match el.out b with
    | some (some t) =>
      if h.canEmit c el.id then (put h (el.next b)).emit c el.id t else h.blockTake c el b put
    | some none => put h (el.next b)
    | none => h.blockTake c el b put

/-- REORDER_EMIT (R243, R245). -/
def reorderEmitStep (i c : Nat) (s : State) : Out :=
  atCell s i c fun h => match h.reordEl c with
    | some el => h.blockStep c el (·.reord) fun x b => { x with reord := b }
    | none => h

/-- CORNER_TURN_EMIT (R244, R245). -/
def cornerTurnEmitStep (i c : Nat) (s : State) : Out :=
  atCell s i c fun h => match h.cturnEl c with
    | some el => h.blockStep c el (·.cturn) fun x b => { x with cturn := b }
    | none => h

end Sys2Proof.Machine
end

