-- ==== Sys2Proof/Machine/Endpoints.lean ====
section
/-! DEFINITION. Endpoints, address generators and translation operators (R228 to R233, R360 to R363, R395, R400, R401, R411, R415, R416). -/

namespace Sys2Proof.Machine

/-! ## Reading for an endpoint -/

/-- A line, or half a line, at a virtual address for endpoint `e` of a holder: its value and poison, the state with any copy made, the
INFO of a fault, or none while it must wait. -/
def streamRead (s : State) (h : Holder) (cls : PathClass) (e va : Nat) : Except (Option Nat) ((Line × BitVec 16) × State) :=
  if !s.mayWalk h.id.die h.id.pid (va / 65536) h.id.inst (missEp e) then .error none
  else match resolveVa s h.id.pid va true false with
  | .error i => .error (some i)
  | .ok (p, _) => if s.ownPending h.agent p then .error none else
    match s.lineAt h.id.die p with
    | none => .error none
    | some r => .ok (s.readAs h.id.inst cls p r, s.didRead h.id.inst cls p)

/-- The class of an endpoint's reads: MW at a weight port, FS elsewhere (R296). -/
def EpPlace.cls : EpPlace → PathClass
  | .port _ pl pt => if pl * 16 + pt == idMx 1 then .mw else .fs
  | .gen _ _ => .fs

/-- An endpoint's access waits, for a walk of its granule if that is what is missing (R357). -/
def State.epWait (s : State) (h : Holder) (e va : Nat) : State := (s.missFor h.id.die h.id.pid h.id.inst (missEp e) [va / 65536]).getD s

/-- The CFG token of a frame (R102), from the line that holds it. -/
def cfgTok (va : Nat) (v : Line) (psn : BitVec 16) : Token :=
  let off := va % 64
  { kind := .cfg, vld := 0xFF, psn := (psn >>> (off / 4)) &&& 0xFF, val := BitVec.ofNat 512 (bits v.toNat (8 * off) 256) }

/-- The marker that closes a round, and the endpoint after it (R411, R416). -/
def Holder.closeRound (h : Holder) (e : Nat) : Token × Holder :=
  let x := h.ep e
  (rmkTok (x.round + 1) e x.inrnd, h.modEp e fun x => { x with round := x.round + 1, inrnd := 0 })

/-- A line address or a token has been issued (R416): ISSUED gains 64 and INRND, of 10 bits, 1. -/
def Ep.moved (x : Ep) : Ep := { x with issued := x.issued + 64, inrnd := (x.inrnd + 1) % 1024, more := false }

/-- One frame of the queue has been emitted. -/
def Ep.popCfg (x : Ep) : Ep :=
  match x.cfgNow with
  | (a, n) :: rest => { x with cfgNow := if n ≤ 1 then rest else (a + 32, n - 1) :: rest }
  | [] => x

/-- An endpoint's DMK has left: the region notes the cycle of the last one (R420). -/
def Holder.sentDmk (h : Holder) (e now : Nat) : Holder :=
  let h := h.modEp e fun x => { x with dmkOut := true }
  { h with ev := { h.ev with dmkAt := some now } }

/-- The next frame of an endpoint's queue is read on the FS path and emitted (R233). -/
def emitCfg (s : State) (h : Holder) (e a : Nat) (emit : Holder → Token → Holder) : State :=
  if isWithheld s h { ep := some e } then s
  else match streamRead s h .fs e a with
  | .error (some i) => withholdAt s h { ep := some e, va := a, read := true, info := i }
  | .error none => s.epWait h e a
  | .ok ((v, psn), s) => commit (s.forgetWalks h.id.die h.id.inst (missEp e)) (emit (h.modEp e Ep.popCfg) (cfgTok a v psn))

/-! ## Address generators (R395) -/

/-- The index tuple of address `n`: level 0 fastest; the outermost level of an XBOUND generator runs on. -/
def agIdx (w n : Nat) : List Nat :=
  ((List.range 4).foldl (fun (acc : List Nat × Nat) k =>
    if agNlev w ≤ k then (acc.1 ++ [0], acc.2)
    else if agXbound w && k + 1 == agNlev w then (acc.1 ++ [acc.2], 0)
    else (acc.1 ++ [acc.2 % agCount w k], acc.2 / agCount w k)) ([], n)).1

/-- The offset of an index tuple. -/
def agOff (w : Nat) (idx : List Nat) : Int := ((List.range 4).map fun k => ((idx.getD k 0 : Nat) : Int) * agStride w k).sum

/-- Every index tuple has been used. -/
def agDone (w n : Nat) : Bool := !agXbound w && ((List.range (agNlev w)).map (agCount w)).prod ≤ n

/-- Change a generator. -/
def Holder.modAgen (h : Holder) (c g : Nat) (f : AgenSt → AgenSt) : Holder :=
  h.modCell c fun x => { x with agens := listMod x.agens g f }

/-- The next address at an offset, with NEWPG (R362), or the FLT and the end of the segment. -/
def Holder.agAddr (h : Holder) (c g e : Nat) (w : Nat) (off : Int) (b : Binding) : Token × Holder :=
  if off < 0 || (b.extent : Int) < off + 64 then (fltTok cEXTENT 0 0, h.modAgen c g fun x => { x with done := true })
  else
    let a := (b.base + off.toNat) % 2 ^ 64
    let st := (h.cell c).agens.getD g {}
    let gran := a / 65536
    let newpg := !agPageb w || st.gran != some gran
    (addrTok a (if newpg then 2 else 0),
     (h.modAgen c g fun x => { x with
        idx := agIdx w (x.n + 1), n := x.n + 1, gran := some gran
        done := agMode w == 0 && (b.extent / 64 ≤ x.n + 1 || agDone w (x.n + 1)) }).modEp e Ep.moved)

/-- An affine generator's next token. -/
def agenAffine (s : State) (h : Holder) (c g e w : Nat) : State :=
  let st := (h.cell c).agens.getD g {}
  let x := h.ep e
  let out (h : Holder) (t : Token) : Holder := h.emit c (idAgen g) t
  if x.gr.out then
    if !h.th.sys.run || x.eosOut then s
    else match x.bind, x.live && !st.done with
      | some b, true =>
        let (t, h) := h.agAddr c g e w (agOff w (agIdx w st.n)) b
        commit s (out h t)
      | _, _ => commit s (out (h.modEp e fun x => { x with eosOut := true }) eosTok)
  else match h.inNext e st.done with
    | .wait => s
    | .cfg a => emitCfg s h e a out
    | .rmk => let (t, h) := h.closeRound e
              commit s (out h t)
    | .eos => commit s (out (h.modEp e fun x => { x with eosOut := true }) eosTok)
    | .dmk => commit s (out (h.sentDmk e (s.now h.id.die)) dmkTok)
    | .data => match x.bind with
      | some b => let (t, h) := h.agAddr c g e w (agOff w (agIdx w st.n)) b
                  commit s (out h t)
      | none => s

/-- A gather generator goes on with what its input brings: a lane of the token it holds, or the next head. After SEOS it issues no address, and
the EOS at its input ends the segment (R231, log 21). -/
def gatherOn (s : State) (h : Holder) (c g e w : Nat) : State :=
  let st := (h.cell c).agens.getD g {}
  let x := h.ep e
  let out (h : Holder) (t : Token) : Holder := h.emit c (idAgen g) t
  match st.gather with
  | some t =>
    let h' := h.modAgen c g fun y => if y.lane + 1 < 16 then { y with lane := y.lane + 1 } else { y with gather := none, lane := 0 }
    match x.bind, t.ok st.lane && !st.done && x.live && !x.seos with
    | some b, true =>
      if t.bad st.lane then commit s (out h' (fltTok cPOISON 2 0))
      else
        let (u, h'') := h'.agAddr c g e w (sInt 32 (t.lane st.lane) * agStride w 0) b
        commit s (out h'' u)
    | _, _ => commit s h'
  | none =>
    match h.head c (idAgen g) with
    | none => s
    | some t =>
      if t.counts then commit s ((h.take c (idAgen g)).modAgen c g fun y => { y with gather := some t, lane := 0 })
      else if t.kind == .cfg then s
      else if t.kind == .eos then commit s (out ((h.take c (idAgen g)).modEp e fun x => { x with eosOut := true }) t)
      else commit s (out (h.take c (idAgen g)) t)

/-- A gather generator's next token: frames, the markers of its rounds and its DMK as any IN endpoint's, one EOS when unbound, and else what its
input brings (R230, R411, R415, R420). What reaches an unbound generator is dropped. -/
def agenGather (s : State) (h : Holder) (c g e w : Nat) : State :=
  let st := (h.cell c).agens.getD g {}
  let x := h.ep e
  let out (h : Holder) (t : Token) : Holder := h.emit c (idAgen g) t
  let hd := h.head c (idAgen g)
  if x.eosOut && !x.live then
    (if hd.any fun t => t.kind != .cfg then commit s (h.take c (idAgen g)) else s)
  else match h.inNext e (st.gather.isNone && hd.any fun t => t.kind == .eos) with
    | .wait => s
    | .cfg a => emitCfg s h e a out
    | .rmk => let (t, h) := h.closeRound e
              commit s (out h t)
    | .dmk => commit s (out (h.sentDmk e (s.now h.id.die)) dmkTok)
    | .eos => if x.live then gatherOn s h c g e w else commit s (out (h.modEp e fun x => { x with eosOut := true }) eosTok)
    | .data => gatherOn s h c g e w

/-- AGEN_EMIT (R395). -/
def agenEmitStep (i c g : Nat) (s : State) : Out :=
  atRegion s i fun h =>
    let w := h.agenWord c g
    if h.id.ncells ≤ c || 2 ≤ g || w == 0 || !h.canEmit c (idAgen g) then s
    else match h.genEp c g with
      | none => s
      | some e => if agMode w == 1 then agenGather s h c g e w else agenAffine s h c g e w

/-! ## Translation (R356, R361) -/

/-- R and W that ACC asks for. -/
def accRd (w : Nat) : Bool := bits w 0 2 != 2
def accWr (w : Nat) : Bool := bits w 0 2 != 1

/-- A translation of the 64 KiB granule of an address, with the state after any copy (R367). -/
def xlatOf (s : State) (pid va : Nat) (rd wr : Bool) : Except Nat (Xent × State) :=
  match resolveVa s pid va rd wr with
  | .error i => .error i
  | .ok (_, s') => match leafAt s' pid va with
    | .error i => .error i
    | .ok l => .ok (⟨va / 65536, l.kind, l.frame + va / 65536 * 65536 % leafBytes l.lvl, l.ch, l.r, l.w, l.cow⟩, s')

/-- A held translation serves an access. -/
def Xent.serves (x : Xent) (va : Nat) (rd wr : Bool) : Bool :=
  x.gran == va / 65536 && (!rd || x.r) && (!wr || (x.w && !x.cow))

/-- A walk has ended: the oldest waiting miss, and every other of its process and granule, takes its place. -/
def nextWalk (s : State) (d : Nat) : State :=
  match (s.die d).m.misses with
  | [] => s
  | q :: _ =>
    let mine (x : Nat × Nat × Nat × Nat) : Bool := x.1 == q.1 && x.2.1 == q.2.1
    if walksFull s d then s
    else s.modM d fun m => { m with
      walks := m.walks ++ [⟨q.1, q.2.1, (m.misses.filter mine).map fun x => x.2.2⟩]
      misses := m.misses.filter fun x => !mine x }

/-- XLAT_TRANSLATE (R361, R362): the next token is translated by the held translation, or a walk is started for it. -/
def xlatTranslateStep (i c : Nat) (s : State) : Out :=
  atRegion s i fun h =>
    let w := h.xlatWord c
    if h.id.ncells ≤ c || w == 0 || !h.canEmit c idXlat then s
    else match h.head c idXlat with
      | none => s
      | some t =>
        let send (u : Token) : State := commit s ((h.take c idXlat).emit c idXlat u)
        if t.kind == .cfg then s
        else if !t.counts || (t.addrOk && (t.sp || t.phys)) then send t
        else if !t.addrOk then send (fltTok cXFAULT 7 t.addr)
        else
          let x := (h.cell c).xlat
          let go : Option Xent := match x.held with
            | some e => if (x.looked || !t.newpg) && e.serves t.addr (accRd w) (accWr w) then some e else none
            | none => none
          match go with
          | some e =>
            let h := (h.take c idXlat).modCell c fun y => { y with
              xlat := { y.xlat with looked := false, made := y.xlat.made.put (e.base / 65536) e.w } }
            commit s (h.emit c idXlat (addrTok (e.base + t.addr % 65536) (1 + e.kind * 8 + e.ch * 64)))
          | none =>
            if isWithheld s h { cell := some c } || awaitsWalk s h.id.die i c then s
            else startWalk s h.id.die h.id.pid (t.addr / 65536) i c

/-- A walk's translation is held by its operator, for the token at its head. -/
def holdXlat (s : State) (i c : Nat) (e : Xent) : State :=
  s.modH i fun h => h.modCell c fun y => { y with xlat := { y.xlat with held := some e, looked := true } }

/-- A walk's result reaches a miss that waited for it: an operator holds the translation, or its token is withheld (R363); a control
thread, a copy, an endpoint or a queue goes on, and meets what the tables then give. -/
def walked (s : State) (d pid i c gran : Nat) : State :=
  if 512 ≤ c then s.modM d fun m => { m with walked := (m.walked.filter fun q => q != (pid, gran, i, c)) ++ [(pid, gran, i, c)] } else
  match s.h? i with
  | none => s
  | some h =>
    match h.head c idXlat with
    | none => s
    | some t =>
      let w := h.xlatWord c
      if t.addr / 65536 != gran then s
      -- a write that must first have its page to itself walks again
      else if accWr w && cowWaits s h.id.pid t.addr i then startWalk s h.id.die h.id.pid gran i c
      else match xlatOf s h.id.pid t.addr (accRd w) (accWr w) with
        | .ok (e, s) => holdXlat s i c e
        | .error info => withholdAt s h { cell := some c, va := t.addr, read := accRd w, write := accWr w, info := info }

/-- TRANSLATION_WALK (R356, R357): walk `k` of a die completes for every miss that shares it, and the oldest waiting miss starts. -/
def execTranslationWalk (d k : Nat) (s : State) : Out :=
  .next (match (walksOn s d).drop k with
    | [] => s
    | x :: _ =>
      nextWalk (x.who.foldl (fun s q => walked s d x.pid q.1 q.2 x.gran) (s.modM d fun m => { m with walks := listDel m.walks k })) d)

/-! ## Endpoints at ports (R228, R294, R295) -/

/-- Cell and port identifier of a port endpoint. -/
def epSite : EpPlace → Option (Nat × Nat)
  | .port c place port => some (c, place % 8 * 16 + port % 16)
  | .gen _ _ => none

/-- The virtual address of IPOS of host range `hh` of a process (R293). -/
def iposVa (hh : Nat) : Nat := 0xFFFFFFFF0000 + 32 * hh + 16

/-- The ingress position of a word of storage: what the device has taken from the host port, whatever stands in memory (R295). -/
def iposOf (s : State) (pa : Nat) : Nat := s.mem.ipos.getD pa 0

/-- The host range entry of a process (R293): HADDR, EXTENT, IPOS, FLAGS; none when invalid. -/
def hostEntry (s : State) (pid hh : Nat) : Option (Nat × Nat × Nat × Nat) := do
  let a := 0xFFFFFFFF0000 + 32 * hh
  let ha ← word64 s pid a
  let ex ← word64 s pid (a + 8)
  let ip ← hbmAt s pid (iposVa hh) false
  let fl ← word64 s pid (a + 24)
  guard (ha % 64 == 0 && ex % 64 == 0 && 64 ≤ ex && ex ≤ 2 ^ 40 && bitAt fl 0 && fl < 16)
  some (ha, ex, iposOf s ip, fl)

/-- A port endpoint's next line: value, poison and the state after it; one whose read stands absorbed waits for its reply (R257). DESIGN
CHOICE (log 18): the entry of a host range is read again at each line, and a line waits while it does not meet R293. -/
def portRead (s : State) (h : Holder) (b : Binding) (e : Nat) (x : Ep) : Except (Option Nat) (Line × BitVec 16 × State) :=
  match b.host with
  | some ha =>
    let hh := bits b.base 48 8
    let off := bits b.base 0 40 + x.issued
    match hostEntry s h.id.pid hh with
    | none => .error none
    | some (_, _, ip, fl) =>
      if bitAt fl 3 && ip < off + 64 then .error none
      else
        if bitAt (ha + off) 63 then
          let (k, s) := s.free
          .ok (Config.peerLine (bits (ha + off) 48 11) (bits (ha + off) 0 42) k, 0, s)
        else .ok (memLine s.mem.host (ha + off), 0, s)
  | none => match x.reply with
    | some (v, psn) => .ok (v, psn, s)
    | none => if absorbed s (epReq h.id.inst e x.issued) then .error none
      else match streamRead s h x.gr.place.cls e (b.base + x.issued) with
        | .error i => .error i
        | .ok ((v, psn), s) => .ok (v, psn, s.forgetWalks h.id.die h.id.inst (missEp e))

/-- Cell of an endpoint. -/
def epCell : EpPlace → Nat
  | .port c _ _ => c
  | .gen c _ => c

/-- Where a port endpoint's line goes: host memory, or the place its address translates to; a place of its own where it does not
translate. -/
def portPlace (s : State) (h : Holder) (b : Binding) (off : Nat) (out : Bool) : Place :=
  match b.host with
  | some ha => hostPlace (ha + bits b.base 0 40 + off)
  | none => match resolveVa s h.id.pid (b.base + off) (!out) out with
    | .ok (p, _) => p
    | .error _ => hostPlace 0

/-- Put a token at the input port of an endpoint. -/
def Holder.feed (h : Holder) (c id : Nat) (t : Token) : Holder :=
  { h with dp := { h.dp with feeds := h.dp.feeds.put (c * 128 + id) (h.dp.feeds.getD (c * 128 + id) [] ++ [t]) } }

/-- Retain a token of a round (R415). -/
def Holder.retain (h : Holder) (e : Nat) (r : Nat) (t : Token) : Holder :=
  if h.roundLen e == 0 || t.kind == .cfg || t.kind == .dmk then h else h.modEp e fun x => { x with held := x.held ++ [(r, t)] }

/-- The request for the next line of a port endpoint has left: it stands at a router, or its reply has come (R257). -/
def portAsked (s : State) (h : Holder) (e : Nat) (x : Ep) : Bool := x.reply.isSome || underWay s (epReq h.id.inst e x.issued)

/-- The next line of a port endpoint is clean, and its read can stand at a router of its path (R256, R257). -/
def portJoins (s : State) (h : Holder) (b : Binding) (c : Nat) (x : Ep) (p : Place) : Bool :=
  b.host.isNone && cleanVa s h.id.pid (b.base + x.issued) && !s.ownPending h.agent p &&
  joins s.acquired (p.addr / 64) (readPath h.id.die (h.id.cellAt c) p.addr)

/-- The read of a port endpoint's next line is done: the token is delivered, and every requester that was absorbed has the line; a line that
no router absorbed has been served. -/
def portDone (s : State) (h : Holder) (e c id : Nat) (b : Binding) : State :=
  let x := h.ep e
  match portRead s h b e x with
  | .error (some info) => withholdAt s h { ep := some e, va := b.base + x.issued, read := true, info := info }
  | .error none => if b.host.isNone then s.epWait h e (b.base + x.issued) else s
  | .ok (v, psn, s') =>
    let t := lineTok v psn
    let p := portPlace s h b x.issued false
    let own := h.modEp e fun x => { x.moved with reply := none }
    let own := if portAsked s h e x then own else own.spend (some e)
    let r := replied (commit s' ((own.retain e (x.round + 1) t).feed c id t)) (epReq h.id.inst e x.issued) v psn
    if x.reply.isSome then r else if portAsked s h e x then h.lineTook r c (some e) p else h.lineMoved r c false (some e) p

/-- What an IN endpoint at a port has to do next. -/
def Holder.portDue (h : Holder) (e : Nat) : InNext :=
  let x := h.ep e
  h.inNext e (match x.bind with | some b => b.extent ≤ x.issued | none => true)

/-- The place of the line that a port endpoint could move now (R262): the next line of an IN endpoint whose port is free, or the one that
the token before an OUT endpoint is written to. -/
def Holder.portNext (h : Holder) (s : State) (e : Nat) : Option Place :=
  let x := h.ep e
  match epSite x.gr.place, x.bind with
  | some (c, id), some b =>
    if x.gr.out then
      match h.offer (.port c id) epCode with
      | some t =>
        let p := portPlace s h b x.sent true
        if t.counts && x.live && x.sent + 64 ≤ b.extent && h.lineGoes s c true (some e) p then some p else none
      | none => none
    else
      let p := portPlace s h b x.issued false
      if (h.dp.feeds.getD (c * 128 + id) []).isEmpty && x.replay.isEmpty && h.portDue e == .data && h.lineGoes s c false (some e) p then some p
      else none
  | _, _ => none

/-- The line that a port endpoint moves returns to it as a FLT (R262, R435): an IN endpoint delivers the FLT in the line's place, an OUT
endpoint's sink takes it for the line's token. -/
def portLost (s : State) (h : Holder) (e : Nat) (f : Token) : State :=
  let x := h.ep e
  match epSite x.gr.place with
  | none => s
  | some (c, id) =>
    if x.gr.out then
      faultTaken (commit s ((h.accept (.port c id) epCode).wrote (some e) true)) h f
    else commit s (((h.modEp e fun x => { x with issued := x.issued + 64, reply := none }).retain e (x.round + 1) f).feed c id f)

/-- IN_ENDPOINT_DELIVER (R228, R230, R415): the next token of a port endpoint; retained tokens first after a rollback (R428). -/
def execInEndpointDeliver (i e : Nat) (s : State) : Out :=
  atRegion s i fun h =>
    let x := h.ep e
    match epSite x.gr.place, e < h.eps.length && !x.gr.out with
    | some (c, id), true =>
      if !(h.dp.feeds.getD (c * 128 + id) []).isEmpty then s
      else
        let put (h : Holder) (t : Token) : Holder := h.feed c id t
        match x.cfgNow, x.replay with
        | [], (_, t) :: rest => commit s (put (h.modEp e fun x => { x with replay := rest }) t)
        | _, _ =>
          match h.portDue e with
          | .wait => s
          | .cfg a => emitCfg s h e a put
          | .rmk =>
            let (t, h) := h.closeRound e
            commit s (put (h.retain e (x.round + 1) t) t)
          | .eos => commit s (put ((h.modEp e fun x => { x with eosOut := true }).retain e (x.round + 1) eosTok) eosTok)
          | .dmk => commit s (put (h.sentDmk e (s.now h.id.die)) dmkTok)
          | .data => match x.bind with
            | none => s
            | some b =>
              let p := portPlace s h b x.issued false
              if isWithheld s h { ep := some e } then s
              else if portAsked s h e x then (if x.reply.isSome || h.lineServed s c (some e) p then portDone s h e c id b else s)
              else if !h.reqGoes s c false (some e) p then s
              else if cutOff s h.id.die p then portLost s h e (linkFlt s h.id.die p)
              else if portJoins s h b c x p then
                combine (portMoved (s.acquired.modH i fun h => h.spend (some e)) h c false p) (p.addr / 64) (epReq i e x.issued)
                  (readPath h.id.die (h.id.cellAt c) p.addr)
              else if h.lineServed s c (some e) p then portDone s h e c id b
              else s
    | _, _ => s

/-- What an OUT endpoint at a port does with a token it takes (R228, R229, R294, R416); none while it must wait. -/
def outSink (s : State) (h : Holder) (e : Nat) (t : Token) (took : Holder) : State :=
  let x := h.ep e
  match t.kind with
  | .cfg => commit s took
  | .flt => faultTaken (commit s took) h t
  | .eos => commit s (took.modEp e fun x => { x with sinkEos := true, extFlt := false })
  | .rmk => if streamsAccepted s h then commit s (took.modEp e Ep.tookRmk) else s
  | .dmk => if streamsAccepted s h then commit s (took.modEp e fun x => { x with sinkDmk := true }) else s
  | _ => match x.bind, x.live with
    | some b, true =>
      if b.extent < x.sent + 64 then
        let s := commit s (took.modEp e fun x => { x with extFlt := true })
        if x.extFlt then s else faultTaken s h (fltTok cEXTENT 0 0)
      else if !h.lineGoes s (epCell x.gr.place) true (some e) (portPlace s h b x.sent true) then s
      else
        let p := portPlace s h b x.sent true
        let wrote := (took.spend (some e)).wrote (some e) !p.deferred
        if cutOff s h.id.die p then faultTaken (commit s ((took.spend (some e)).wrote (some e) true)) h (linkFlt s h.id.die p)
        else match b.host with
        | some _ =>
          let bad := t.psn &&& t.vld
          let s := h.lineMoved (commit s wrote) (epCell x.gr.place) true (some e) p
          let mask := laneMask (t.vld &&& ~~~bad)
          let s := if bitAt p.addr 63 then
              s.modPkg fun k => { k with peerOut := k.peerOut ++ [.mem (bits p.addr 48 11) (bits p.addr 0 42) mask t.val] }
            else s.modMem fun m => { m with host := memSetMask m.host p.addr mask t.val }
          if bad == 0 then s else faultTaken s h (fltTok cPOISON 1 0)
        | none =>
          if isWithheld s h { ep := some e } || cowWaits s h.id.pid (b.base + x.sent) h.id.inst then s
          else match s.missFor h.id.die h.id.pid h.id.inst (missEp e) [(b.base + x.sent) / 65536] with
          | some s => s
          | none => match cowFirst s h.id.pid (b.base + x.sent) with
            -- the copy is a move of its own; the token is taken by the next one
            | some s => s
            | none => match resolveVa s h.id.pid (b.base + x.sent) false true with
              | .error info => withholdAt s h { ep := some e, va := b.base + x.sent, write := true, info := info }
              | .ok (p, s) => match writeLanes s h (some e) p .fs t with
                | none => s
                | some s => (h.lineMoved (commit s wrote) (epCell x.gr.place) true (some e) p).forgetWalks h.id.die h.id.inst (missEp e)
    | _, _ => commit s took

/-! ## Output ports -/

/-- The next token of an MU port leaves (R240, R415, R428): retained tokens first after a rollback, once the phase's frames have
come through. -/
def Holder.muEmit (h : Holder) (c p : Nat) : Holder :=
  let id := idMuOut p
  if !h.canEmit c id then h
  else
    let m := h.mu c p
    let src : Option Nat := match h.muEndpoint c p with
      | some e => if muType (h.muWord c p) == 1 && !(h.ep e).gr.out && (h.ep e).live then some e else none
      | none => none
    let count (h : Holder) (t : Token) : Holder := if t.kind == .rmk then h.modMu c p fun x => { x with srnd := x.srnd + 1 } else h
    let live (h : Holder) : Holder :=
      match m.rob with
      | [] => h
      | r :: rest => match r.res with
        | none => h
        | some t =>
          -- a source whose buffer is full injects no token more (R415)
          if t.counts && src.any (fun e => h.roundLen e != 0 && 1024 ≤ (h.ep e).heldCount) then h else
          let h := h.modMu c p fun x => { x with rob := rest }
          let h := match src with
            | some e => let h := h.retain e (m.srnd + 1) t
                        if t.kind == .cfg then h.gateDown (some e) else h
            | none => h
          (count h t).emit c id t
    match src with
    | some e => match (h.ep e).replay with
      | (_, t) :: rest =>
        if (h.ep e).gate == 0 then (count (h.modEp e fun x => { x with replay := rest }) t).emit c id t
        else match m.rob with
          | r :: _ => if r.res.any fun t => t.kind == .cfg then live h else h
          | [] => h
      | [] => live h
    | none => live h

/-- ELEMENT_FIRE (R219, R220, R228): a token leaves an output port or a link's head moves on, into every link in one step or into
none; an OUT endpoint takes its token; the feeder's value enters the tree. -/
def elementFireStep (i c : Nat) (x : Mover) (s : State) : Out :=
  match x with
  | .treeTake => atCell s i c fun h => h.treeTake c
  | .hop tile e d => atCell s i c fun h => h.send (.link ⟨c, tile, e, d⟩)
  | .emit p =>
    atRegion s i fun h =>
      let id := portNum p
      if h.id.ncells ≤ c then s
      else if 64 ≤ id then commit s (h.send (.edge c (edgeTile p) id))
      else match h.epAt true c id, h.offer (.port c id) epCode with
        | some e, some t => outSink s h e t (h.accept (.port c id) epCode)
        | _, _ =>
          if (h.held c id).1.isSome then commit s (h.send (.port c id))
          else if id == idMx 0 then commit s (h.mxSend c)
          else if 32 ≤ id && id < 36 then commit s (h.muEmit c (id - 32))
          else s

/-! ## Acknowledgement and the end of a phase -/

/-- A sink has taken its r-th RMK, with its writes accepted, or its EOS (R415). Sink codes: cell × 8 + port × 2 + input of an MU
port, and 4,096 + endpoint (log 12). -/
def Holder.sinkAcked (h : Holder) (code r : Nat) : Bool :=
  if 4096 ≤ code then
    let x := h.ep (code - 4096)
    r ≤ x.srnd || x.sinkEos
  else
    let m := h.mu (code / 8) (code / 2 % 4)
    m.eos || r ≤ (if code % 2 == 1 then m.srnd else m.srndA)

/-- ROUND_ACK (R415). -/
def execRoundAck (i e : Nat) (s : State) : Out :=
  atRegion s i fun h =>
    let x := h.ep e
    let r := x.acked + 1
    if h.eps.length ≤ e || x.gr.out || !h.th.sys.run || x.round < r || !(x.gr.sinks.all fun k => h.sinkAcked k r) || !streamsAccepted s h
    then s
    else s.setH i (h.modEp e fun x => { x with acked := r, held := x.held.filter fun t => r < t.1 })

/-- No token waits in a cell (R232). -/
def CellSt.quiet (x : CellSt) : Bool :=
  (x.pipes.all fun p => !p.full) && x.tree.isNone && x.lout.tok.isNone && (x.links.all fun l => l.2.q.isEmpty) &&
  (x.outs.all fun o => o.2.tok.isNone) && (x.merges.all fun m => m.2.tok.isNone) && mxIdle x.mx &&
  (x.ports.all fun p => p.reqs.isEmpty && p.rob.isEmpty) && x.reord.toks.isEmpty && x.reord.held.isEmpty && x.cturn.toks.isEmpty &&
  x.cturn.held.isEmpty && x.agens.all fun g => g.gather.isNone

/-- No token waits anywhere in a region. -/
def Holder.quiet (h : Holder) : Bool := h.dp.cells.all CellSt.quiet && h.dp.feeds.all fun f => f.2.isEmpty

/-- The G charges of a holder's bindings are released, and the bindings end with the phase (R228, R404). -/
def endPhase (s : State) (h : Holder) : State :=
  let s := (releaseAllCharges s h).phaseEnds h.id.inst
  s.modH h.id.inst fun h => { h with
    eps := h.eps.map fun e => { e with bind := none, live := false, level := 0, held := [], replay := [] }
    th := { h.th with sys := { h.th.sys with run := false, nbound := 0, wake := true } } }

/-- RUN_FALL (R232). -/
def execRunFall (i : Nat) (s : State) : Out :=
  atRegion s i fun h =>
    let done := h.eps.all fun e => e.gr.out || (e.eosOut && e.replay.isEmpty && e.cfgNow.isEmpty)
    if h.th.sys.run && done && h.quiet && streamsAccepted s h then readyIfRacked (endPhase s h) i else s

end Sys2Proof.Machine
end

