-- ==== Sys2Proof/Machine/Bulk.lean ====
section
/-! DEFINITION. Bulk copies: BCOPY, BWAIT and the copy engine (R259, R260), shared with COPY packets (R276). -/

namespace Sys2Proof.Machine

/-- SPACE of a descriptor (R259). -/
def dSpace (a : Nat) : Nat := bits a 60 4

/-- The zero bits of a descriptor. -/
def dZeros (a : Nat) : Bool :=
  bits a 48 12 == 0 &&
  (match dSpace a with
   | 0 => true
   | 1 => bits a 36 12 == 0 && bits a 29 3 == 0 && bits a 20 4 == 0
   | _ => bits a 36 12 == 0 && bits a 29 3 == 0 && bits a 3 21 == 0)

/-- Cell of the region that a scratchpad or buffer descriptor names, when it is inside. -/
def dCell (h : Holder) (a : Nat) : Option Nat :=
  let col := bits a 24 5
  let row := bits a 32 4
  if col < h.id.w && row < h.id.h then some (col * h.id.h + row) else none

/-- Bytes of a scratchpad that a holder may use: the save area of a folded caller is not its own (R341). -/
def scratchTop (h : Holder) : Nat := if h.fn.foldedOn.isSome then 0xE0000 else 2 ^ 20

/-- A scratchpad range stays in its scratchpad. -/
def dRange (h : Holder) (a len : Nat) : Bool :=
  dSpace a == 0 || ((dCell h a).isSome && (dSpace a != 1 || bits a 0 20 + len ≤ scratchTop h))

/-- The status of BCOPY's checks, 0 when they pass (R259). -/
def bcopyCheck (h : Holder) (a b c : Nat) : Nat :=
  if 2 < dSpace a || 1 < dSpace b || !dZeros a || !dZeros b then 0x101
  else if c == 0 || 2 ^ 32 < c || c % 64 != 0 || (dSpace a != 2 && a % 64 != 0) || b % 64 != 0 then 0x102
  else if !dRange h a c || !dRange h b c then 0x103
  else 0

/-- BCOPY (R259). -/
def execBcopy (f : S3) (c : Reg) (s : State) : Out :=
  withMe s fun h =>
    let t := h.th
    match t.copies.findIdx? fun x => x.st == .free with
    | none => s.retire fun t => t.setA f.d 0x104
    | some n =>
      let e := bcopyCheck h (t.a f.a).toNat (t.a f.b).toNat (t.a c).toNat
      if e != 0 then s.retire fun t => t.setA f.d (BitVec.ofNat 64 e)
      else (s.begins h.id.inst [.bk]).retire fun t => { t with copies := listMod t.copies n fun _ =>
          { st := .busy, dst := t.a f.a, src := t.a f.b, len := (t.a c).toNat } }.setA f.d (BitVec.ofNat 64 (n + 1))

/-- BULK: the handle is free again (R260). -/
def trapBulk (s : State) (n addr : Nat) : State :=
  trapWith s (fun s => s.modTh fun t => { t with copies := listMod t.copies n fun _ => {} }) cBULK (n + 1) (BitVec.ofNat 64 addr)

/-- BWAIT (R260). -/
def execBwait (a : Reg) (s : State) : Out :=
  withMe s fun h =>
    let n := (h.th.a a).toNat
    let failed (i : Nat) : Option (Nat × Nat) := match (h.th.copies.getD i {}).st with | .failed x => some (i, x) | _ => none
    let busy (i : Nat) : Bool := (h.th.copies.getD i {}).st == .busy
    if 16 < n then trap s false cBULK 0 0
    else if n == 0 then
      if (List.range 16).any busy then s
      else match firstSome (List.range 16) failed with
        | some (i, x) => trapBulk s i x
        | none => s.retire id
    else if busy (n - 1) then s
    else match failed (n - 1) with
      | some (i, x) => trapBulk s i x
      | none => s.retire id

/-! ## The copy engine -/

/-- Why a line is not copied: a fault at an address with its INFO and whether the write met it, or a wait (none). -/
abbrev CopyErr := Option (Nat × Nat × Bool)

/-- Read one line for a copy. -/
def copyRead (s : State) (d : Nat) (a : Agent) (p : Place) : Except CopyErr (Line × BitVec 16) :=
  if s.ownPending a p then .error none
  else match s.lineAt d p with
    | some r => .ok r
    | none => .error none

/-- Write one line for a copy, poison with each word (R259); `x` carries what a pending store records. -/
def copyWrite (s : State) (pid d : Nat) (x : Pending) (p : Place) (v : Line) (psn : BitVec 16) : Except CopyErr State :=
  if p.deferred then
    match issueStore s pid d { x with cls := .bk, ch := if p.kind == 4 then some p.ch else none
                                      line := p.addr / 64 * 64, mask := -1, val := v, psn := psn } with
    | some (_, s) => .ok s
    | none => .error none
  else .ok (match x.agent with
    | .holder i => match s.h? i with
      | some h => s.writeAs h .bk (some x.va) x.copy p (-1) v psn
      | none => s.writeNow p (-1) v psn
    | _ => s.writeNow p (-1) v psn)

/-- A virtual address of a copy, of holder `skip` or of a packet. -/
def copyVa (s : State) (pid skip va : Nat) (wr : Bool) : Except CopyErr (Place × State) :=
  if wr && cowWaits s pid va skip then .error none else
  match resolveVa s pid va (!wr) wr with
  | .ok r => .ok r
  | .error i => .error (some (va, i, wr))

/-! A freeze leaves copies running (R259): the scratchpads and buffers of a holder that holds no cells are those of its image, and the
save area of a frozen caller is left alone until it is restored (R341, log 33). -/

/-- The holder's scratchpads stand in its stored image. -/
def Holder.imaged (h : Holder) : Bool := !h.saved.frames.isEmpty

/-- A scratchpad offset that holds a frozen caller's saved state. -/
def Holder.inSaveArea (h : Holder) (off : Nat) : Bool := h.id.life == .folded && 0xE0000 ≤ off

/-- The scratchpad place of byte `off` of a holder's cell. -/
def Holder.padPlace (h : Holder) (c off : Nat) : Place := ⟨0, scratchKey h.id.die (h.id.cellAt c) off, 0⟩

/-- A line of a holder's scratchpad, wherever it stands. -/
def padRead (s : State) (h : Holder) (c off : Nat) : Except CopyErr (Line × BitVec 16) :=
  if h.imaged then .ok (memLine h.saved.scratch (c * 2 ^ 20 + off), linePoison h.saved.poison (c * 2 ^ 20 + off))
  else if h.inSaveArea off then .error none
  else match s.lineAt h.id.die (h.padPlace c off) with
    | some r => .ok r
    | none => .error none

/-- Write a line of a holder's scratchpad for copy `n`, wherever it stands. -/
def padWrite (s : State) (h : Holder) (n c off : Nat) (v : Line) (psn : BitVec 16) : Except CopyErr State :=
  if h.imaged then .ok (s.modH h.id.inst fun h => { h with saved := { h.saved with
    scratch := memSetMask h.saved.scratch (c * 2 ^ 20 + off / 64 * 64) (-1) v
    poison := markPoison h.saved.poison (c * 2 ^ 20 + off) psn (~~~psn) } })
  else if h.inSaveArea off then .error none
  else .ok (s.writeAs h .bk none (some n) (h.padPlace c off) (-1) v psn)

/-- Write a holder's cells into its image again, or those of a frozen caller into its save areas. -/
def cellsAgain (s : State) (i : Nat) : State :=
  match s.h? i with
  | none => s
  | some h =>
    if h.imaged then
      let fs := h.saved.frames
      let off := readLE (imageByte s fs) 116 4
      let bs := (List.range h.id.ncells).flatMap fun c => h.cellRecord c
      (s.modMem fun m => bs.zipIdx.foldl (fun m (b, j) => streamPut fs m (8 * fs.length + off + j) 1 b.toNat) m).spoil s (frameLines fs)
    else if h.id.life == .folded then (s.modMem (foldWrite h h.saved.foldFrames)).spoil s (frameLines h.saved.foldFrames)
    else s

/-- Put a line of copy `k` into the next slot of a buffer (R242). -/
def padPut (s : State) (h : Holder) (k c n : Nat) (t : Token) : Except CopyErr State := do
  if !h.cbFree c n then .error none
  else
    let s ← padWrite s h k c (64 * (cbBase (h.cbWord c n) + (h.cb c n).wptr)) t.val t.psn
    .ok (cellsAgain (s.modH h.id.inst fun h => h.cbFilled c n t) h.id.inst)

/-- The cell through whose port a copy's lines on the other side go: that of a scratchpad or buffer, else cell 0 (log 23). -/
def portCell (h : Holder) (a : Nat) : Nat := if dSpace a == 0 then 0 else (dCell h a).getD 0

/-- The next line of a copy, read through the port of a cell (R402, R408). -/
def bcopyRead (s : State) (h : Holder) (x : Copy) : Except CopyErr ((Line × BitVec 16) × State) :=
  let a := x.src.toNat
  if dSpace a == 0 then do
    let (p, s) ← copyVa s h.id.pid h.id.inst (bits a 0 48 + x.pos) false
    let r ← copyRead s h.id.die h.agent p
    let c := portCell h x.dst.toNat
    if !bestGoes s h c false p then .error none
    else .ok (s.readAs h.id.inst .bk p r, bestWent (s.didRead h.id.inst .bk p) h c false p)
  else match dCell h a with
    | some c =>
      let p := h.padPlace c (bits a 0 20 + x.pos)
      -- a circular buffer's reads follow its writes (R242)
      (padRead s h c (bits a 0 20 + x.pos)).map fun r => if dSpace a == 1 && !h.imaged then (s.readAs h.id.inst .bk p r, s.didRead h.id.inst .bk p) else (r, s)
    | none => .error none

/-- Copy the next line of handle `n + 1`. -/
def bcopyLine (s : State) (h : Holder) (n : Nat) (x : Copy) : Except CopyErr State := do
  let ((v, psn), s) ← bcopyRead s h x
  let b := x.dst.toNat
  if dSpace b == 0 then
    let va := bits b 0 48 + x.pos
    let (p, s) ← copyVa s h.id.pid h.id.inst va true
    let c := portCell h x.src.toNat
    if !bestGoes s h c true p then .error none
    (bestWent · h c true p) <$> copyWrite s h.id.pid h.id.die { agent := h.agent, epoch := h.th.sys.pepoch.toNat, va := va / 64 * 64, copy := some n } p v psn
  else match dCell h b with
    | none => .error none
    | some c =>
      if dSpace b == 2 then padPut s h n c (bits b 0 3) { vld := -1, psn := psn, val := v }
      else padWrite s h n c (bits b 0 20 + x.pos) v psn

/-- A packet ends at a 4 KiB boundary of the destination (R259). -/
def atBoundary (dst pos : Nat) : Bool := (bits dst 0 48 + pos) % 4096 == 0

/-- Change a copy of a holder. -/
def Holder.modCopy (h : Holder) (n : Nat) (f : Copy → Copy) : Holder := { h with th := { h.th with copies := listMod h.th.copies n f } }

/-- A busy copy stops at an address (R259, R262): its handle is FAILED, WAKE is set, and its stores under way precede what follows (R298). -/
def failCopy (s : State) (i n addr : Nat) : State :=
  if !(s.h? i).any (fun h => (h.th.copies.getD n {}).st == .busy) then s
  else
    let s : State := { s with dies := s.dies.map fun (d : Die) => { d with m := { d.m with
      pend := d.m.pend.map fun (x : Pending) => if x.agent == .holder i && x.copy == some n then { x with copy := none } else x } } }
    readyIfRacked (wakeUp ((s.copyEnds i n).modH i fun h => h.modCopy n fun y => { y with st := .failed addr }) i) i

/-- Where a line of a busy copy's next packet lies at a place that meets a condition: the address that the copy stops at, its source's or
its destination's, and the physical address of the line (R259, R262; log 33). -/
def copyMeets (s : State) (h : Holder) (x : Copy) (on : Place → Bool) : Option (Nat × Nat) :=
  let n := (min (x.len - x.pos) (4096 - (bits x.dst.toNat 0 48 + x.pos) % 4096) + 63) / 64
  let side (v : Nat) (wr : Bool) : Option (Nat × Nat) :=
    if dSpace v != 0 then none
    else (List.range n).findSome? fun k => match resolveVa s h.id.pid (bits v 0 48 + x.pos + 64 * k) (!wr) wr with
      | .ok (p, _) => if on p then some (bits v 0 48 + x.pos, p.phys s h.id.die) else none
      | .error _ => none
  if x.st != .busy then none else side x.src.toNat false <|> side x.dst.toNat true

/-- Copy up to a packet's lines; the error that stopped it early. -/
def bcopyPacket (i n : Nat) : Nat → State → State × Option CopyErr
  | 0, s => (s, none)
  | fuel + 1, s =>
    match s.h? i with
    | none => (s, none)
    | some h =>
      let x := h.th.copies.getD n {}
      if x.len ≤ x.pos then (s, none)
      else match bcopyLine s h n x with
        | .error e => (s, some e)
        | .ok s =>
          let s := s.modH i fun h => h.modCopy n fun x => { x with pos := x.pos + 64 }
          if atBoundary x.dst.toNat (x.pos + 64) then (s, none) else bcopyPacket i n fuel s

/-- BCOPY_COMPLETE (R259): the next packet of handle `n + 1` is copied; once every line has been copied and accepted by its path,
the handle is free and WAKE is set. -/
def execBcopyComplete (i n : Nat) (s : State) : Out :=
  .next (match s.h? i with
    | none => s
    | some h =>
      let x := h.th.copies.getD n {}
      let sides := [x.src, x.dst].filter fun v => dSpace v.toNat == 0
      let grans := sides.map fun v => (bits v.toNat 0 48 + x.pos) / 65536
      if x.st != .busy || isWithheld s h { copy := some n } then s
      else if x.len ≤ x.pos then
        if !s.pendings.any fun y => y.agent == h.agent && y.copy == some n then
          readyIfRacked (wakeUp ((s.copyEnds i n).setH i (h.modCopy n fun _ => {})) i) i
        else s
      else match copyMeets s h x (cutOff s h.id.die) with
      | some (f, pa) =>
        let o := dieOfPa pa
        failCopy (linkRec s h.id.pid h.id.die (min h.id.die o * 4 + max h.id.die o) i (pa / 64 * 64)) i n f
      | none => match s.missFor h.id.die h.id.pid i (missCopy n) grans with
      | some s => s
      | none => match bcopyPacket i n 64 (s.forgetWalks h.id.die i (missCopy n)) with
        | (s, some (some (va, info, wr))) =>
          withholdAt s h { copy := some n, va := va, read := !wr, write := wr, info := info }
        | (s, _) => s)

end Sys2Proof.Machine
end

