-- ==== Sys2Proof/Machine/Streams.lean ====
section
/-! DEFINITION. The stream instructions SBIND, SGO, SEOS, SBAR and SCFG (R229 to R233), admission of guaranteed bindings (R403, R404), port rate buckets (R400, R401) and slice shares (R406 to R410). -/

namespace Sys2Proof.Machine

/-! ## Admission (R403) -/

/-- The G budget of a resource. -/
def resBudget (k : Nat) : Nat :=
  match k / 2 ^ 32 with
  | 0 => 65536
  | 1 => 212992
  | 2 => 65536
  | 3 => 131072
  | 4 => 102400
  | _ => if k % 2 == 0 then 81920 else 40960

/-- Direction of data flow: 0 towards the cell (IN), 1 away from it. -/
def flowDir (out : Bool) : Nat := b2n out

/-- The charge of a slice and of the links its route crosses: `n` bytes at slice `sl` of die `e` for a cell of die `d`. -/
def sliceCharge (d cell e sl n : Nat) (out : Bool) : List (Nat × Nat) :=
  let hops (die : Nat) (l : List Nat) : List (Nat × Nat) :=
    (l.zip l.tail).map fun (a, b) => (resKey 2 (die * 256 + (if out then a * 16 + b else b * 16 + a)), n)
  (resKey 1 (e * 16 + sl), n) ::
  (if d == e then hops d (routers (cellRouter cell) (sliceRouter sl))
   else hops d (routers (cellRouter cell) (dieRouter d e)) ++ hops e (routers (dieRouter e d) (sliceRouter sl)) ++
     [(resKey 3 (if out then d * 4 + e else e * 4 + d), n)])

/-- The four slices of a grid column (R291). -/
def columnSlices (c : Nat) : List Nat := [2 * c, 2 * c + 1, 2 * c + 8, 2 * c + 9]

/-- The leaves that map a range, with the first address of each in the range. -/
def leavesOf (s : State) (pid top : Nat) : Nat → Nat → List (Nat × Leaf)
  | 0, _ => []
  | fuel + 1, va =>
    if top ≤ va then []
    else match leafAt s pid va with
      | .ok l => (va, l) :: leavesOf s pid top fuel ((va / leafBytes l.lvl + 1) * leafBytes l.lvl)
      | .error _ => leavesOf s pid top fuel ((va / 65536 + 1) * 65536)

/-- The grid columns of a die that a range of local HBM touches: (die, column) of each 16 MiB chunk. -/
def columnsOf (pa len : Nat) : List (Nat × Nat) :=
  ((List.range ((pa + len - 1) / 2 ^ 24 - pa / 2 ^ 24 + 1)).map fun i =>
    let a := (pa / 2 ^ 24 + i) * 2 ^ 24
    (dieOfPa a, a % dieHbm / 2 ^ 24 % 4)).eraseDups

/-- Charges of a rate at the four slices of each column. -/
def localCharge (d cell rate : Nat) (out : Bool) (cols : List (Nat × Nat)) : List (Nat × Nat) :=
  cols.flatMap fun (e, c) => (columnSlices c).flatMap fun sl => sliceCharge d cell e sl (ceilDiv rate 4) out

/-- What a range of virtual memory charges beyond the cell port. -/
def rangeCharge (s : State) (h : Holder) (cell base ext rate : Nat) (out : Bool) : List (Nat × Nat) :=
  let d := h.id.die
  let ls := leavesOf s h.id.pid (base + ext) (ext / 65536 + 2) base
  let part (va : Nat) (l : Leaf) : Nat × Nat :=
    let hi := min (base + ext) ((va / leafBytes l.lvl + 1) * leafBytes l.lvl)
    (l.frame + va % leafBytes l.lvl, hi - va)
  let cols := (ls.flatMap fun (va, l) => if l.kind == 1 then columnsOf (part va l).1 (part va l).2 else []).eraseDups
  let chs := (ls.filterMap fun (_, l) => if l.kind == 4 then some l.ch else none).eraseDups
  let cel := (ls.filterMap fun (va, l) => if l.kind == 3 then some (dieOfPa (part va l).1) else none).eraseDups
  localCharge d cell rate out cols ++
  (if ls.any fun x => x.2.kind == 2 then
     (List.range 4).flatMap fun e => (List.range 16).flatMap fun sl => sliceCharge d cell e sl (ceilDiv rate 16) out
   else []) ++
  (chs.flatMap fun ch =>
    let c := s.chain ch
    let link (k : Nat) : List (Nat × Nat) :=
      localCharge d cell rate out ((ls.flatMap fun (va, l) =>
        if l.kind == 4 && l.ch == ch then columnsOf ((c.link k).pb + (part va l).1) (part va l).2 else []).eraseDups)
    if out then
      (List.range c.links.length).flatMap link ++
      (List.range (c.links.length - 1)).map fun k => (resKey 3 ((c.link k).die * 4 + (c.link (k + 1)).die), rate)
    else link ((c.linkOn d).getD (c.links.length - 1))) ++
  (cel.map fun e => (resKey 5 (e * 2 + flowDir out), rate))

/-- The cell of a binding's first network-facing element (R400). -/
def bindCell (h : Holder) (e : Nat) : Nat :=
  match (h.ep e).gr.place with
  | .port c _ _ => h.id.cellAt c
  | .gen c _ =>
    let fed := (List.range h.id.ncells).find? fun x => (List.range 4).any fun p => muType (h.muWord x p) != 0 && h.muEndpoint x p == some e
    h.id.cellAt (fed.getD c)

/-- Every charge of a binding, one entry for each resource. -/
def chargesOf (s : State) (h : Holder) (e base ext rate : Nat) : List (Nat × Nat) :=
  let out := (h.ep e).gr.out
  let cell := bindCell h e
  let port := (resKey 0 ((h.id.die * 512 + cell) * 2 + flowDir out), rate)
  let rest : List (Nat × Nat) :=
    if addrForm (BitVec.ofNat 64 base) == .hostRange then
      (resKey 4 (flowDir out), rate) ::
      (let hops (die : Nat) (l : List Nat) : List (Nat × Nat) :=
        (l.zip l.tail).map fun (a, b) => (resKey 2 (die * 256 + (if out then a * 16 + b else b * 16 + a)), rate)
       let d := h.id.die
       if d == 0 then hops 0 (routers (cellRouter cell) 15)
       else hops d (routers (cellRouter cell) (dieRouter d 0)) ++ hops 0 (routers (dieRouter 0 d) 15) ++
         [(resKey 3 (if out then d * 4 else d), rate)])
    else if addrForm (BitVec.ofNat 64 base) == .virtual then rangeCharge s h cell base ext rate out
    else []
  (port :: rest).foldl (fun (t : Tbl Nat) c => t.put c.1 (t.getD c.1 0 + c.2)) []

/-- Acceptance: every charge fits its budget, and all are taken in one step; none when refused (R403, R404). -/
def takeCharges (s : State) (cs : List (Nat × Nat)) : Option State :=
  if cs.all fun c => s.pkg.res.getD c.1 0 + c.2 ≤ resBudget c.1 then
    some (s.modPkg fun p => { p with res := cs.foldl (fun t c => Tbl.set t 0 c.1 (t.getD c.1 0 + c.2)) p.res })
  else none

/-! ## SBIND (R229) -/

/-- R294: whether a host-form base may be bound, with HADDR. -/
def hostBind (s : State) (h : Holder) (e base ext : Nat) : Option Nat :=
  match (h.ep e).gr.place, hostEntry s h.id.pid (bits base 48 8) with
  | .port _ _ _, some (ha, ex, _, fl) =>
    let out := (h.ep e).gr.out
    if (if out then bitAt fl 2 && !bitAt fl 3 else bitAt fl 1) && bits base 0 40 + ext ≤ ex then some ha else none
  | _, _ => none

/-- The checks of R229 in table order, and the binding: the status, and the state when accepted. While RUN = 1 the bindings are those
of the phase that runs, and no endpoint is bound for the next. -/
def sbind (s : State) (h : Holder) (e base ext : Nat) (g : Bool) (rate : Nat) : Nat × State :=
  let host := addrForm (BitVec.ofNat 64 base) == .hostRange
  if h.eps.length ≤ e then (1, s)
  else if !h.th.sys.run && (h.ep e).bind.isSome then (2, s)
  else if h.th.sys.run then (3, s)
  else if base % 64 != 0 || ext == 0 || ext % 64 != 0 || 2 ^ 40 < ext then (4, s)
  else
    let ha := if host then hostBind s h e base ext else none
    if host && ha.isNone then (5, s)
    else if g && (rate == 0 || 65536 < rate) then (6, s)
    else
      let cs := if g then chargesOf s h e base ext rate else []
      match (if g then takeCharges s cs else some s) with
      | none => (7, s)
      | some s =>
        (0, s.modH h.id.inst fun h => { h.modEp e fun x => { x with bind := some { g := g, rate := rate, base := base, extent := ext, host := ha, charges := cs } } with
          th := { h.th with sys := { h.th.sys with nbound := h.th.sys.nbound + 1 } } })

/-- SBIND: d receives the status. -/
def sbindInstr (g : Bool) (f : S3) (ep : Fin 32) (s : State) : Out :=
  withMe s fun h =>
    let (st, s) := sbind s h (epField h.th ep) (h.th.a f.a).toNat (h.th.a f.b).toNat g (bits (h.th.a f.d).toNat 0 32)
    s.retire fun t => t.setA f.d (BitVec.ofNat 64 st)

/-- SBIND.G (R229). -/
def execSbindG (f : S3) (ep : Fin 32) (s : State) : Out := sbindInstr true f ep s

/-- SBIND.BE (R229). -/
def execSbindBe (f : S3) (ep : Fin 32) (s : State) : Out := sbindInstr false f ep s

/-! ## Phases -/

/-- An endpoint at SGO (R230, R233, R400, R416). -/
def Ep.start (e : Ep) : Ep :=
  { gr := e.gr, bind := e.bind, cfgNow := e.scfg, cfgPhase := e.scfg, live := e.bind.isSome
    level := match e.bind with | some b => if b.g then max b.rate 64 else 0 | none => 0 }

/-- A cell at SGO: generators, SVPOS and the sinks' counts start again; macros loaded before stay, and the code tables in force are those
of the phase image (R214, R239, R395, R428). -/
def CellSt.start (x : CellSt) : CellSt :=
  { x with
    agens := List.replicate 2 {}
    ports := x.ports.map fun p => { p with svpos := 0, srnd := 0, srndA := 0, eos := false, dmk := 0, extFlt := false, marks := [] }
    xlat := { x.xlat with made := [] }
    mx := { x.mx with kept := x.mx.loaded, keptPsn := x.mx.mpsn }
    phaseTables := x.tables }

/-- A tile that emits by tile holds sums, or a buffer is filled, as the phase begins (R214, R242). -/
def Holder.openAtStart (h : Holder) : Bool :=
  (List.range h.id.ncells).any fun c =>
    (mxEmit (h.mxWord c) == 1 && mxMacen (h.mxWord c) != 0 && !((h.cell c).mx.acc.isEmpty && (h.cell c).mx.acck.isEmpty)) || (h.cell c).cbs.any fun b => 0 < b.fill

/-- The region as a phase begins. -/
def Holder.startPhase (h : Holder) : Holder :=
  { h with
    eps := h.eps.map Ep.start
    dp := { h.dp with phaseCfg := h.dp.cfg, cells := h.dp.cells.map CellSt.start, openStart := h.openAtStart }
    ev := { h.ev with ropen := false, rollbacks := 0 }
    th := { h.th with sys := { h.th.sys with run := true, serr := false } } }

/-- STREAM (R246). -/
def trapStream (s : State) (info : Nat) (addr : W64) : State := trap s false cSTREAM info addr

/-- SGO (R230). -/
def execSgo (s : State) : Out :=
  withMe s fun h =>
    if h.th.sys.run then trapStream s 0 0
    else ((s.begins s.cur [.fs, .mw]).modH s.cur Holder.startPhase).retire id

/-- SEOS (R231). -/
def execSeos (ep : Fin 32) (s : State) : Out :=
  withMe s fun h =>
    let e := epField h.th ep
    if h.eps.length ≤ e || (h.ep e).gr.out then trapStream s 1 0
    else if h.th.sys.run && !(h.ep e).eosOut && !(h.ep e).seos then
      (s.modH s.cur fun h => h.modEp e fun x => { x with seos := true, seosAt := x.issued }).retire id
    else s.retire id

/-- SBAR (R232). -/
def execSbar (s : State) : Out := withMe s fun h => if h.th.sys.run then s else s.retire id

/-- Frames queued at an endpoint. -/
def Ep.queued (x : Ep) : Nat := (x.scfg.map (·.2)).sum

/-- SCFG (R233). -/
def execScfg (a b : Reg) (ep : Fin 32) (s : State) : Out :=
  withMe s fun h =>
    let e := epField h.th ep
    let va := h.th.a a
    let n := (h.th.a b).toNat
    if h.th.sys.run then trapStream s 2 0
    else if n == 0 || 4096 < n || va.toNat % 32 != 0 then trapStream s 3 va
    else if e < h.eps.length && 4096 < (h.ep e).queued + n then trapStream s 4 0
    else if h.eps.length ≤ e || (h.ep e).gr.out then trapStream s 5 0
    else (s.modH s.cur fun h => h.modEp e fun x => { x with scfg := x.scfg ++ [(va.toNat, n)] }).retire id

/-! ## Rate buckets (R400, R401) -/

/-- LINE_RELEASE (R401, R402): a guaranteed line of an endpoint that waits at its port leaves, when its bucket allows: the step of the port
that moves the line. -/
def execLineRelease (i e : Nat) (s : State) : Out :=
  match s.h? i with
  | none => .next s
  | some h =>
    let x := h.ep e
    if h.eps.length ≤ e || !x.live then .next s
    else match x.gr.place with
      | .port c pl pt =>
        if !h.lineWaits s c x.gr.out e then .next s
        else if x.gr.out then elementFireStep i c (.emit ⟨pl, pt⟩) s
        else execInEndpointDeliver i e s
      | .gen _ _ => match (List.range h.id.ncells).findSome? fun c => ((List.range 4).find? fun p =>
          h.muEndpoint c p == some e && (h.lineWaits s c false e || h.lineWaits s c true e)).map fun p => (c, p, muType (h.muWord c p)) with
        | some (c, p, 1) => murdRequestStep i c p s
        | some (c, p, 2) => muwrWriteStep i c p s
        | some (c, p, 4) => muatUpdateStep i c p s
        | _ => .next s

/-- A bucket's refill (R400). -/
def Ep.refill (x : Ep) : Ep :=
  match x.bind with
  | some b => if b.g && x.live then { x with level := min (x.level + b.rate) (max b.rate 64) } else x
  | none => x

/-! ## Slice shares (R406 to R410) -/

/-- The checks of a commit, in order: the result of SHSTAT (R406). -/
def shareCheck (t : Tbl W64) (cap : W64) : Nat :=
  let es := (List.range 64).map fun i => t.getD i 0
  let live := es.filter shValid
  if cap.toNat < 1 || 6656 < cap.toNat || es.any (fun e => bits e.toNat 48 15 != 0 || bits e.toNat 11 21 != 0 || 1024 < shWeight e) then 3
  else if !((es.tail.filter shValid).map shPid).Nodup then 2
  else if 1024 < (live.map shWeight).sum then 1
  else 0

/-- SHARE_COMMIT (R406): a write to SHCMD. -/
def execShareCommit (d : Nat) (v : W64) (s : State) : Out :=
  let r := (s.die d).r
  if v != 1 || bitAt r.shstat.toNat 63 then .next s
  else
    let e := shareCheck r.shent r.shcap
    if e == 0 then .next (s.modR d fun r => { r with shstat := 0x8000000000000000, shNext := some (r.shent, r.shcap.toNat) })
    else .next (s.modR d fun r => { r with shstat := BitVec.ofNat 64 e })

/-- Requests that wait for their turn and find LEVEL = 0 join the share queue, in their order, while it has room (R408 rules 2 and 4). -/
def toShare (s : State) (d sl i : Nat) : State :=
  if 0 < (Slice.tenant s d sl i).level then s
  else s.modSlice d sl fun x =>
    let l := (x.waiting.filter (·.1 == i)).take (256 - x.queue.length)
    { x with queue := x.queue ++ l, waiting := l.foldl (fun w e => w.erase e) x.waiting }

/-- The refill of a slice (R408, R409, R410): each tenant's level, the pool shared among those that asked, holds cleared, and the
share queue served first, in arrival order. -/
def refillSlice (s : State) (d sl : Nat) : State :=
  let is := List.range 64
  let old (i : Nat) : Tenant := Slice.tenant s d sl i
  let q (i : Nat) : Nat := quota s d sl i
  let cap := caps s d sl
  let pool := (is.map fun i => (old i).level).sum + (cap - (is.map q).sum)
  let rec_ := is.filter fun i => (old i).arr && (old i).red
  let w := (rec_.map fun i => weightOf s d i).sum
  let level (i : Nat) : Nat :=
    if rec_.contains i then min cap (q i + (if w == 0 then pool / rec_.length else pool * weightOf s d i / w)) else q i
  let s := s.modSlice d sl fun x => { x with
    tenants := is.foldl (fun t i => Tbl.put t i { level := level i, arr := false, red := (old i).red }) []
    holds := [] }
  let s := (((s.die d).m.slices.getD sl {}).queue).foldl (fun s e =>
    if 0 < (Slice.tenant s d sl e.1).level then
      (serveLine s d sl e.1).modSlice d sl fun x => { x with queue := x.queue.erase e, grants := x.grants ++ [e] }
    else s) s
  is.foldl (fun s i => toShare s d sl i) s

/-- A refill of a die (R399): a checked share table comes into force (R406) and every bucket refills. -/
def refill (s : State) (d : Nat) : State :=
  if !refillDue s d then s
  else
    let s := s.modM d fun m => { m with ticks := (s.die d).scyc.toNat / 1024 }
    let s := match (s.die d).r.shNext with
      | some (t, c) => s.modR d fun r => { r with shNow := t, capNow := c, shNext := none, shstat := 0 }
      | none => s
    let s : State := { s with hold := s.hold.map fun e => (e.1, if e.2.id.die == d then { e.2 with eps := e.2.eps.map Ep.refill } else e.2) }
    (List.range 16).foldl (fun s sl => refillSlice s d sl) s

/-- REFILL_TICK (R399): once bits 9:0 of SCYC have become 0, the die refills. Every bucket waits for a refill that is due, and no clock
passes one. -/
def execRefillTick (d : Nat) (s : State) : Out := .next (refill s d)

/-- The process of a request. -/
def reqPid (s : State) (r : SliceReq) : Nat := match r.inst.bind s.h? with | some h => h.id.pid | none => r.pid

/-- QOS of a request's agent (R125, R407): that of its captured mode word, or of the process for a queue's packet. -/
def reqRed (s : State) (r : SliceReq) : Bool :=
  match r.inst.bind s.h? with
  | some h => modeBit h.id.mode 19
  | none => match s.ctx? r.pid with | some c => modeBit c.mode 19 | none => false

/-- A turn of a slice (R408 rule 3): the oldest waiting request of the tenant whose turn it is is served. -/
def sliceTurn (s : State) (d sl : Nat) : State :=
  match turnTenant s d sl with
  | none => s
  | some i =>
    let x := (s.die d).m.slices.getD sl {}
    let s := (serveLine s d sl i).modSlice d sl fun y => match x.waiting.find? (·.1 == i) with
      | some e => { y with lastServed := i, waiting := y.waiting.erase e, grants := y.grants ++ [e] }
      | none => { y with lastServed := i }
    toShare s d sl i

/-- SLICE_REQUEST (R408, R410): a best-effort request reaches a slice, the line's own step aside: it waits for its turn, or, at LEVEL 0, joins
the share queue and its port is held; one in flight as its hold was set waits too; a full share queue takes nothing. Once served, its line
moves. With `turn` the step is a turn of the slice, and no request reaches it. A refill that is due goes first (R399). -/
def execSliceRequest (d sl : Nat) (r : SliceReq) (s : State) : Out :=
  if 16 ≤ sl || refillDue s d then .next s
  else if r.turn then .next (sliceTurn s d sl)
  else
    let x := (s.die d).m.slices.getD sl {}
    let i := tenantOf s d (reqPid s r)
    if 256 ≤ x.queue.length then .next s
    else
      let t := Slice.tenant s d sl i
      let s := s.modSlice d sl fun x => { x with tenants := x.tenants.put i { t with arr := true, red := reqRed s r } }
      if 0 < t.level then .next (s.modSlice d sl fun x => { x with waiting := x.waiting ++ [(i, r.port)] })
      else .next (s.modSlice d sl fun x => { x with queue := x.queue ++ [(i, r.port)], holds := if x.holds.contains (r.port, i) then x.holds else x.holds ++ [(r.port, i)] })

end Sys2Proof.Machine
end

