-- ==== Sys2Proof/Machine/Events.lean ====
section
/-! DEFINITION. Rollback (R428), uncorrectable errors (R427, R317, R307), withheld accesses and FAULTWAIT (R363), translation invalidation (R358), pre-emption by drain and freeze (R418 to R421). -/

namespace Sys2Proof.Machine

/-! ## Rollback -/

/-- The least round that every IN endpoint reaching a sink has had acknowledged; none when no source reaches it. -/
def Holder.ackedAt (h : Holder) (code : Nat) : Option Nat :=
  ((h.eps.filter fun e => !e.gr.out && e.gr.sinks.contains code).map (·.acked)).min?

/-- The value a counter had when round `r` ended. -/
def markAt (marks : List (Nat × Nat)) (r : Nat) : Nat := ((marks.find? fun m => m.1 == r).map (·.2)).getD 0

/-- An MU port after a rollback: its queues are empty, and its sink stands where the acknowledged rounds left it. -/
def Holder.muBack (h : Holder) (c p : Nat) : MuPort :=
  let m := h.mu c p
  let a := h.ackedAt (c * 8 + p * 2)
  let b := h.ackedAt (c * 8 + p * 2 + 1)
  let src : Option Nat := match h.muEndpoint c p with
    | some e => if muType (h.muWord c p) == 1 && !(h.ep e).gr.out then some (h.ep e).acked else none
    | none => none
  { svpos := match a with | some r => markAt m.marks r | none => m.svpos
    marks := m.marks.filter fun x => x.1 ≤ max (a.getD 0) (b.getD 0)
    srnd := match src with | some r => r | none => b.getD 0
    srndA := a.getD 0 }

/-- The matrix tile after a rollback (R214). DEDUCED: a macro whose B is kept keeps LOADED, and MPSN as the phase began, with it, for R203
poisons the rows of a macro with LOADED = 0 (log 12). -/
def mxBack (w : Nat) (x : Mx) : Mx :=
  let keep (l : List (Tbl Nat)) : List (Tbl Nat) := l.zipIdx.map fun (t, m) => if x.kept.getLsbD m then t else []
  { mxStart w with loaded := x.kept, mpsn := x.keptPsn &&& x.kept, b := keep x.b, bk := keep x.bk, kept := x.kept, keptPsn := x.keptPsn }

/-- Addresses of a generator's phase that its MU read port has sent on: those of acknowledged rounds and the retained ones. -/
def Holder.sentOf (h : Holder) (e : Nat) : Nat :=
  let x := h.ep e
  min (x.issued / 64) (x.acked * h.roundLen e + (x.held.filter fun t => t.2.counts || t.2.kind == .flt).length)

/-- Retained tokens after the last marker. -/
def sinceMark (l : List (Nat × Token)) : Nat := ((l.reverse.takeWhile fun t => t.2.kind != .rmk).filter fun t => t.2.counts).length

/-- A generator after a rollback goes on from the addresses its port has sent on; that of an OUT endpoint from the lines of
acknowledged rounds. -/
def Holder.agenBack (h : Holder) (c g : Nat) : AgenSt :=
  match h.genEp c g with
  | none => {}
  | some e =>
    let w := h.agenWord c g
    let x := h.ep e
    let n := if x.gr.out then x.written / 64 else h.sentOf e
    let ext := match x.bind with | some b => b.extent | none => 0
    if agMode w == 1 then {} else { idx := agIdx w n, n := n, done := ext / 64 ≤ n || agDone w n }

/-- An OUT endpoint's WRITTEN and SRND as the acknowledged rounds left them. -/
def Holder.outBack (h : Holder) (e : Nat) : Ep :=
  let x := h.ep e
  let code : Nat := match x.gr.place with
    | .port _ _ _ => 4096 + e
    | .gen _ _ =>
      match (List.range h.id.ncells).findSome? fun c => ((List.range 4).find? fun p => muType (h.muWord c p) != 0 && h.muEndpoint c p == some e).map fun p => c * 8 + p * 2 + 1 with
      | some k => k
      | none => 4096 + e
  match h.ackedAt code with
  | some r => { x with sent := markAt x.marks r, written := markAt x.marks r, srnd := r, marks := x.marks.filter fun m => m.1 ≤ r, sinkEos := false, extFlt := false, eosOut := false }
  | none => x

/-- An IN endpoint after a rollback: the phase's frames again if nothing is acknowledged, then the retained tokens. -/
def Holder.inBack (h : Holder) (e : Nat) : Ep :=
  let x := h.ep e
  let cfg := if x.acked == 0 then x.cfgPhase else []
  match x.gr.place with
  | .port _ _ _ => { x with cfgNow := cfg, replay := x.held }
  | .gen _ _ =>
    { x with
      cfgNow := cfg, replay := x.held, gate := (cfg.map (·.2)).sum, issued := 64 * h.sentOf e
      round := x.acked + (x.held.filter fun t => t.2.kind == .rmk).length, inrnd := sinceMark x.held
      eosOut := x.held.any fun t => t.2.kind == .eos }

/-- The region as a rollback leaves it (R428), with the words and code tables in force when the phase's SGO executed; its posted receives and its overflow queue are empty (R247, R253). -/
def Holder.rolledBack (h : Holder) : Holder :=
  let eps := (List.range h.eps.length).map fun e => if (h.ep e).gr.out then h.outBack e else h.inBack e
  let h1 : Holder := { h with eps := eps, dp := { h.dp with cfg := h.dp.phaseCfg } }
  let cells := (List.range h.dp.cells.length).map fun c =>
    let x := h.cell c
    { ({} : CellSt) with
      mx := mxBack (h1.mxWord c) x.mx
      ports := (List.range 4).map fun p => h.muBack c p
      tags := x.tags, hits := x.hits, tables := x.phaseTables, phaseTables := x.phaseTables
      agens := (List.range 2).map fun g => h1.agenBack c g }
  { h1 with
    recvs := [], oflow := [], ovfl := false
    dp := { h1.dp with cells := cells, feeds := [], err := none, illegal := none }
    ev := { h1.ev with rollDue := false, rollbacks := h1.ev.rollbacks + 1 } }

/-- Drop withheld tokens, walks and reads in flight of a region that is flushed; its copies stay. -/
def flushRefs (s : State) (inst : Nat) : State :=
  let s := s.modPkg fun p => { p with
    withheld := p.withheld.filter fun x => x.who != .holder inst || x.copy.isSome
    laneDone := p.laneDone.filter fun l => l.inst != inst }
  { s with dies := s.dies.map fun (d : Die) => { d with m := { d.m with
      walks := dropWaiter inst d.m.walks
      misses := dropMiss inst d.m.misses
      walked := dropMiss inst d.m.walked
      -- WRITTEN goes back with the region: what is still under way no longer counts
      pend := d.m.pend.map fun x => if x.agent == .holder inst then { x with pos := none } else x
      combs := (d.m.combs.map fun c => { c with reqs := c.reqs.filter fun r => r.1 != inst }).filter fun c => !c.reqs.isEmpty } } }

/-- ROLLBACK (R428). -/
def execRollback (i : Nat) (s : State) : Out :=
  .next (match s.h? i with
    | some h => if h.ev.rollDue && h.id.life == .placed then (flushRefs s i).setH i h.rolledBack else s
    | none => s)

/-! ## Uncorrectable errors -/

/-- Poison every word of a line of storage (R307). -/
def poisonLine (s : State) (pa : Nat) : State :=
  if (s.pbLine? pa).isSome then
    s.modM (dieOfPa pa) fun m => { m with pb := m.pb.modify (pa / 64) fun l => { l with psn := -1 } }
  else s.modMem fun m => { m with poison := markPoison m.poison pa (-1) 0 }

/-- An uncorrectable error in a region's state (R427). -/
def regionStrike (s : State) (i c : Nat) (macro_ : Option Nat) : State :=
  match s.h? i with
  | none => s
  | some h =>
    if h.id.life != .placed || h.id.ncells ≤ c then s
    else match macro_ with
      | some m => if (h.cell c).mx.kept.getLsbD m && !h.ev.draining then killRegion s h rUNCORR c else regionError s h rUNCORR c
      | none => regionError s h rUNCORR c

/-- A line of a link of a chain with an uncorrectable error (R317): repaired from the tail, a line that is dirty at the link with the
value its entry holds, which the tail's older one lies under; or at a tail from its predecessor when
that copy is clean there; otherwise it takes poison. -/
def chainStrike (s : State) (ch k line : Nat) : State :=
  let c := s.chain ch
  let n := c.links.length
  let at_ (j : Nat) : Nat := (c.link j).pb + 64 * line
  let put (v : Line) (psn : BitVec 16) : State :=
    if pbRoom s (at_ k) 1 then s.physWrite (at_ k) (-1) v psn else s.stackWrite (at_ k) v psn
  let copy (j : Nat) : State := put (s.physLine (at_ j)) (s.physPoison (at_ j))
  if n ≤ k then s
  else if k + 1 < n then
    match (c.link k).dirtyAt line with
    | some e => put e.val e.psn
    | none => if (c.link (n - 1)).failed then s else copy (n - 1)
  else if 2 ≤ n && ((c.link (k - 1)).dirtyAt line).isNone then copy (k - 1)
  else poisonLine s (at_ k)

/-- The chain, link and line that a storage address belongs to as a link's backing. -/
def chainSite (s : State) (pa : Nat) : Option (Nat × Nat × Nat) :=
  s.pkg.chains.findSome? fun (ch, c) =>
    if c.st == .free || c.st == .orphan then none
    else (c.links.zipIdx.find? fun (l, _) => l.pb ≤ pa && pa < l.pb + c.np * 2 ^ 24).map fun (l, k) => (ch, k, (pa - l.pb) / 64)

/-- UNCORRECTABLE_ERROR (R427, R317, R307). -/
def execUncorrectableError (site : ErrSite) (s : State) : Out :=
  .next (match site with
    | .region i c => regionStrike s i c none
    | .mac i c m => regionStrike s i c (some m)
    | .thread i => match s.h? i with
      | some h =>
        if h.id.life != .placed then s
        else if h.ev.draining || h.ev.rackBy.isSome then killRegion s h rDAMAGED 0
        else if h.th.asleep then s.modH i fun h => { h with ev := { h.ev with parity := true } }
        else killRegion s h rPARITY 0
      | none => s
    | .memLine pa => if !paAssigned pa then s
      else match chainSite s (normPa pa) with
        | some (ch, k, n) => chainStrike s ch k n
        | none => poisonLine s (normPa pa)
    | .scratchLine d cell off =>
      if cell < 512 && off < 2 ^ 20 then
        s.modMem fun m => { m with scratchPoison := markPoison m.scratchPoison (scratchKey d cell off) (-1) 0 }
      else s
    | .chainLine ch k n => chainStrike s ch k n)

/-! ## Withheld accesses (R363) -/

/-- A withheld access is listed no more. -/
def dropWithheld (s : State) (x : Withheld) : State := s.modPkg fun p => { p with withheld := p.withheld.filter fun y => y != x }

/-- The process of a withheld access. -/
def withheldPid (s : State) (x : Withheld) : Nat :=
  match x.who with
  | .holder i => match s.h? i with | some h => h.id.pid | none => 0
  | .packet d q _ => match (s.die d).q.queues.find q with | some q => q.pid | none => 0
  | .host => 0

/-- A withheld access is walked again: when that succeeds it goes on as if it had never faulted. -/
def walkAgain (s : State) (x : Withheld) : State :=
  let pid := withheldPid s x
  let who : Nat := match x.who with | .holder i => i | _ => 0xFFFFFFFF
  if x.write && cowWaits s pid x.va who then s else
  match xlatOf s pid x.va x.read x.write with
  | .ok (e, s) =>
    let s := dropWithheld s x
    match x.who, x.cell with
    | .holder i, some c => holdXlat s i c e
    | _, _ => s
  | .error i =>
    s.modPkg fun p => { p with withheld := p.withheld.map fun y => if y == x then { y with next := s.now x.die + usCycles, info := i } else y }

/-- WITHHELD_RETRY (R363): a withheld access is walked again each µs. -/
def execWithheldRetry (k : Nat) (s : State) : Out :=
  .next (match s.pkg.withheld.drop k with
    | x :: _ => if x.next ≤ s.now x.die then walkAgain s x else s
    | [] => s)

/-- The drain of a region begins (R420): its thread stops between instructions. -/
def startDrain (s : State) (i : Nat) (fault : Option Nat) : State :=
  s.modH i fun h => { h with
    ev := { h.ev with draining := true, dmkAt := some (h.ev.dmkAt.getD (s.now h.id.die)) }
    saved := { h.saved with fault := h.saved.fault <|> fault }
    eps := h.eps.zipIdx.map fun (x, e) => { x with more := h.roundLen e == 0 && x.inrnd != 0 } }

/-- The holders an event that pre-empts a holder reaches (R418): a member's whole gang. -/
def gangOf (s : State) (h : Holder) : List Nat :=
  if h.id.kind == .member then
    match s.pkg.gangs.find h.id.gang with
    | some g => gangLive s g
    | none => [h.id.inst]
  else [h.id.inst]

/-- FAULTWAIT of a withheld access, in cycles. -/
def faultWait (s : State) (x : Withheld) : Nat :=
  usCycles * (match x.who with
    | .holder i => match s.h? i with | some h => modeFaultWait h.id.mode | none => 0
    | _ => match s.ctx? (withheldPid s x) with | some c => modeFaultWait c.mode | none => 0)

/-- FAULTWAIT_EXPIRY (R363): the region is drained to a checkpoint, the copy fails, or the packet's queue stops. DESIGN CHOICE (log 33): a
failed copy reports the address of the side that faulted, destination or source (R259 does not say which). -/
def execFaultwaitExpiry (k : Nat) (s : State) : Out :=
  .next (match s.pkg.withheld.drop k with
    | [] => s
    | x :: _ =>
      if s.now x.die < x.since + faultWait s x then s
      else
        match x.who with
        | .packet d q n =>
          let s := dropWithheld s x
          -- a packet whose ring cannot be read has failed: RD passes it (R281)
          let s := if x.code == 0 then s.modQueue d q Queue.pass else s
          packetFault s d q n cQACCESS x.code (some x.va)
        | .holder i => match s.h? i with
          | none => s
          | some h =>
            match x.copy with
            | some n =>
              let s := postFault (dropWithheld s x) h.id.pid (h.id.record cXFAULT x.info x.va 0)
              let f := bits (h.th.copies.getD n {}).dst.toNat 0 48 + (h.th.copies.getD n {}).pos
              let f := if x.write then f else bits (h.th.copies.getD n {}).src.toNat 0 48 + (h.th.copies.getD n {}).pos
              failCopy s i n f
            -- the first token to expire drains the region; it stays withheld until it is scanned out
            | none => if h.saved.fault.isSome then s else
              (gangOf s h).foldl (fun s j => startDrain s j (if j == i then some x.va else none))
                (postFault s h.id.pid (h.id.record cXFAULT x.info x.va 0))
        | .host => dropWithheld s x)

/-! ## Invalidation (R358) -/

/-- The granules that XINVA and XINVL name. -/
def xinvRange (r : DieRegs) (gran : Nat) : Bool :=
  let base := bits r.xinva.toNat 16 32
  bitAt r.xinvl.toNat 8 || (base ≤ gran && gran < base + 2 ^ bits r.xinvl.toNat 0 6)

/-- XINV (R358): a write to XINVC. -/
def execXinv (d : Nat) (v : W64) (s : State) : Out :=
  let r := (s.die d).r
  if v != 1 || bitAt r.xinvs.toNat 63 then .next s
  else
    let res : Nat := if bits r.xinva.toNat 0 16 != 0 || bits r.xinvl.toNat 6 2 != 0 || bits r.xinvl.toNat 9 55 != 0 || 32 < bits r.xinvl.toNat 0 6 then 1
      else if (s.ctx? (bits r.xinva.toNat 48 16)).isNone then 2 else 0
    .next (s.modR d fun r => { r with xinvs := if res == 0 then 0x8000000000000000 else BitVec.ofNat 64 res })

/-- A checkpoint whose address an invalidation covers is ready (R363): it joins the placement queue, or resumes in place. -/
def checkpointReady (s : State) (h : Holder) : State :=
  let s := s.modH h.id.inst fun h => { h with saved := { h.saved with fault := none } }
  match h.id.life with
  | .checkpoint =>
    if h.saved.frames.isEmpty then s.modH h.id.inst fun h => { h with id := { h.id with life := .restoring } }
    else (s.modH h.id.inst fun h => { h with id := { h.id with life := .ready } }).modP h.id.die fun p => { p with queue := p.queue ++ [.image h.id.inst] }
  | _ => s

/-- The overflow descriptor of a process on a die (R388). -/
def ovDesc (d : Nat) : Nat := 0xFFFFFFFF2040 + 64 * d

/-- A process's overflow ring on a die: RBASE, LOG2N, HEAD, TAIL; none when its page is unmapped or its descriptor malformed. -/
def ovRing (s : State) (pid d : Nat) : Option (Nat × Nat × Nat × Nat) := do
  let b ← word64 s pid (ovDesc d)
  let l ← word64 s pid (ovDesc d + 8)
  let hd ← word64 s pid (ovDesc d + 16)
  let tl ← word64 s pid (ovDesc d + 24)
  guard (b % 64 == 0 && 4 ≤ l && l ≤ 20 && word64 s pid (ovDesc d + 48) == some 0 && word64 s pid (ovDesc d + 56) == some 0)
  guard (hbmMay s pid (ovDesc d + 24) && hbmMay s pid (b + 8 * (tl % 2 ^ l)))
  some (b, l, hd, tl)

/-- Rings that were unusable are tried again, as at every invalidation (R389). -/
def ringsAgain (s : State) : State :=
  (List.range s.dies.length).foldl (fun s d =>
    if (s.die d).p.badRings.isEmpty then s
    else s.modP d fun p => { p with badRings := p.badRings.filter fun x => (ovRing s x.1 d).isNone }) s

/-- What an invalidation of granules of a process does (R358, R363): held translations are discarded, withheld accesses and
checkpoints are walked again, and unusable rings tried again. -/
def invalidate (s : State) (pid : Nat) (p : Nat → Bool) : State :=
  let s := dropHeld s pid p
  let ws := s.pkg.withheld.filter fun x => withheldPid s x == pid && p (x.va / 65536)
  let s := ws.foldl walkAgain s
  let cs := s.hold.filter fun e => e.2.id.pid == pid && e.2.saved.fault.any fun va => p (va / 65536)
  ringsAgain (cs.foldl (fun s e => checkpointReady s e.2) s)

/-- XINV_COMPLETE (R358): no held translation of the range remains, accesses made with one have been accepted, and withheld accesses
and checkpoints of the range have been walked again. -/
def execXinvComplete (d : Nat) (s : State) : Out :=
  let r := (s.die d).r
  let pid := bits r.xinva.toNat 48 16
  if !bitAt r.xinvs.toNat 63 || accessesOpen s pid then .next s
  else
    .next ((invalidate s pid (xinvRange r)).modR d fun r => { r with xinvs := 0 })

/-! ## Pre-emption (R418 to R421) -/

/-- Result of a pre-emption command on the die that received it. -/
def prResult (s : State) (d n : Nat) : State := s.modR d fun r => { r with prstat := BitVec.ofNat 64 n }

/-- The target of a pre-emption block (R419). -/
def prTarget (s : State) (d : Nat) : Option Holder :=
  let t := (s.die d).r.prtgt.toNat
  match s.h? (bits t 0 32) with
  | some h => if h.id.pid == bits t 48 16 then some h else none
  | none => none

/-- RACK (R419). -/
def execRack (d : Nat) (s : State) : Out :=
  if bitAt (s.die d).r.prstat.toNat 63 then .next s
  else match prTarget s d with
    | none => .next (prResult s d 1)
    | some h =>
      if h.id.kind == .named then .next (prResult s d 4)
      else if !((gangOf s h).all fun i => match s.h? i with | some x => x.id.life == .placed && x.ev.rackBy.isNone | none => false) then .next (prResult s d 2)
      else
        let s := s.modR d fun r => { r with prstat := 0x8000000000000000 }
        .next ((gangOf s h).foldl (fun s i =>
          let s := s.modH i fun h => { h with ev := { h.ev with rackBy := some d } }
          if modeBit h.id.mode 0 then s else startDrain s i none) s)

/-- RESUME (R419): a parked holder joins its die's placement queue; one that also waits as a checkpoint goes on waiting. -/
def execResume (d : Nat) (s : State) : Out :=
  if bitAt (s.die d).r.prstat.toNat 63 then .next s
  else match prTarget s d with
    | none => .next (prResult s d 1)
    | some h =>
      if h.id.kind == .named then .next (prResult s d 4)
      else if h.id.life != .parked then .next (prResult s d 2)
      else
        let s := (gangOf s h).foldl (fun s i => s.modH i fun x => { x with
          id := { x.id with life := if x.saved.fault.isSome then .checkpoint else .ready } }) s
        let s := if h.saved.fault.isSome then s else s.modP h.id.die fun p => { p with queue := p.queue ++ [.image h.id.inst] }
        .next (prResult s d 0)

/-- DISCARD reaches a holder: one that is parked (R419), or whose rollback, freeze, drain or restore it stops (R426). -/
def Holder.discardable (h : Holder) : Bool :=
  match h.id.life with
  | .parked | .restoring => true
  | .placed => h.ev.rollDue || h.ev.draining || h.ev.rackBy.isSome
  | _ => false

/-- DISCARD (R419, R426): a parked holder, or its whole gang, is reclaimed, and so is one whose rollback, freeze, drain or restore it stops. -/
def execDiscard (d : Nat) (s : State) : Out :=
  if bitAt (s.die d).r.prstat.toNat 63 then .next s
  else match prTarget s d with
    | none => .next (prResult s d 1)
    | some h =>
      if h.id.kind == .named then .next (prResult s d 4)
      else if !h.discardable then .next (prResult s d 2)
      else
        let s := (gangOf s h).foldl (fun s i => match s.h? i with
          | some x =>
            let s := if x.id.kind == .task then tcbState s x.id.pid x.fn.tcb 5 else s
            (cancelTree s i).1
          | none => s) s
        .next (prResult s d 0)

/-- A holder whose saving failed resumes in place unchanged (R419, R424). -/
def resumeInPlace (s : State) (h : Holder) : State :=
  (gangOf s h).foldl (fun s i => s.modH i fun h => { h with
    ev := { h.ev with draining := false, rackBy := none, dmkAt := none }
    saved := { h.saved with fault := none }
    eps := h.eps.map fun e => { e with dmkOut := false, more := false, sinkDmk := false }
    dp := { h.dp with cells := h.dp.cells.map fun x => { x with ports := x.ports.map fun p => { p with dmk := 0 } } } }) s

/-- The image of a halted region is written, with its group (R421, R424): parked after a RACK, a checkpoint after FAULTWAIT; a named
residency keeps its cells (R363). -/
def saveRegion (s : State) (h : Holder) (kind : Nat) : State :=
  let by_ := h.ev.rackBy
  if h.id.kind == .named then
    let s := (releaseAllCharges s h).modPkg fun p => { p with withheld := p.withheld.filter fun x => x.who != .holder h.id.inst || x.copy.isSome }
    let s := s.modH h.id.inst fun h => { h with
      id := { h.id with life := .checkpoint }, ev := { h.ev with draining := false, dmkAt := none }, th := h.th.saved }
    -- an invalidation that covers the address has completed meanwhile (R363)
    if h.saved.fault.isNone then (match s.h? h.id.inst with | some x => checkpointReady s x | none => s) else s
  else
    match rack s h kind (if by_.isSome then .parked else .checkpoint) with
    | some s => match by_ with
      | some d => prResult s d 0
      -- an invalidation that covers the address has completed meanwhile (R363)
      | none => if (gangOf s h).all fun i => (s.h? i).all fun x => x.saved.fault.isNone then checkpointReady s h else s
    | none =>
      let s := resumeInPlace s h
      match by_ with
      | some d => prResult s d 3
      | none => postFault s h.id.pid (h.id.record cRACKFAIL 0 0 0)

/-- A sink input has taken its DMK, or none can reach it (R420 step 4). -/
def Holder.drained (h : Holder) : Bool :=
  !h.th.sys.run ||
  ((h.eps.all fun e => e.gr.out || e.dmkOut || !e.live) &&
   (h.eps.all fun e => e.gr.out || !e.live || e.gr.sinks.all fun k =>
     if 4096 ≤ k then (h.ep (k - 4096)).sinkDmk else (h.mu (k / 8) (k / 2 % 4)).dmk.getLsbD (k % 2)))

/-- Every holder that a drain or a freeze of a holder takes with it meets a condition. -/
def groupAll (s : State) (h : Holder) (p : Holder → Bool) : Bool :=
  (gangOf s h).all fun i => match s.h? i with | some x => p x | none => true

/-- DRAIN (R420): the drain is complete, and the state is saved. -/
def execDrain (i : Nat) (s : State) : Out :=
  .next (match s.h? i with
    | none => s
    | some h =>
      if h.id.life == .placed && h.ev.draining && groupAll s h fun x => !x.ev.rollDue && x.drained && streamsAccepted s x && x.answered
      then saveRegion s h 1 else s)

/-- An IN endpoint that has still to inject its DMK cannot move: its way into the region is full, its input brings nothing, its buffer is full,
its host range gives no line, or a token of it is withheld. -/
def epStuck (s : State) (h : Holder) (e : Nat) : Bool :=
  let x := h.ep e
  match x.gr.place with
  | .gen c g =>
    !h.canEmit c (idAgen g) || isWithheld s h { ep := some e } ||
    (agMode (h.agenWord c g) == 1 && ((h.cell c).agens.getD g {}).gather.isNone && (h.head c (idAgen g)).isNone) ||
    h.inNext e ((h.cell c).agens.getD g {}).done == .wait
  | .port c pl pt =>
    !(h.dp.feeds.getD (c * 128 + (pl % 8 * 16 + pt % 16)) []).isEmpty || isWithheld s h { ep := some e } || h.portDue e == .wait ||
    (x.bind.any fun b => b.host.isSome)

/-- Every IN endpoint of a draining region has injected its DMK, or cannot. DESIGN CHOICE (log 21): R420 counts from the last endpoint's DMK, and
does not say what becomes of a drain in which an endpoint is kept from injecting one; the count then runs from the last DMK injected, or from
the drain's start. -/
def dmksOut (s : State) (h : Holder) : Bool :=
  (List.range h.eps.length).all fun e => (h.ep e).gr.out || (h.ep e).dmkOut || !(h.ep e).live || epStuck s h e

/-- DRAIN_TIMEOUT (R420): 4,096 cycles after the last endpoint injected its DMK, what has not drained is scanned out. -/
def execDrainTimeout (i : Nat) (s : State) : Out :=
  .next (match s.h? i with
    | none => s
    | some h =>
      let late (x : Holder) : Bool := match x.ev.dmkAt with | some t => t + 4096 ≤ s.now x.id.die && dmksOut s x | none => false
      if h.id.life == .placed && h.ev.draining && groupAll s h fun x => !x.ev.rollDue && (late x || x.drained) && x.answered
      then saveRegion s h 1 else s)

/-- FREEZE (R421): once requests that have issued, and a SEND, are answered (R240, R251), the wave has halted the region of a holder that a command racks by freeze, and its image is read out. -/
def execFreeze (i : Nat) (s : State) : Out :=
  .next (match s.h? i with
    | none => s
    | some h =>
      if h.id.life == .placed && h.ev.rackBy.isSome && !h.ev.draining && groupAll s h fun x => !x.ev.rollDue && x.answered
      then saveRegion s h 0 else s)

end Sys2Proof.Machine
end

