-- ==== Sys2Proof/Machine/Image.lean ====
section
/-! DEFINITION. The Function Table (R335), placed images and their load checks (R103 to R107), and the Shape Cache (R336). -/

namespace Sys2Proof.Machine

/-- A little-endian number of `n` bytes at a virtual address of a process; none when unreachable or poisoned. -/
def readNat (s : State) (pid d va n : Nat) : Option Nat := (readBytes s pid d va n).map bytesLE

/-! ## Function Table -/

/-- A Function Table entry (R335). -/
structure FnEntry where
  digest : Nat := 0
  graph : Nat := 0
  gsize : Nat := 0
  ncode : Nat := 1
  nargs : Nat := 0
  nres : Nat := 0
  code : Nat := 0
  image : Nat := 0
  w : Nat := 1
  h : Nat := 1
  cls : Nat := 0
  keepsp : Bool := false
deriving DecidableEq, Repr

/-- The fields of an entry's 96 bytes. -/
def fnEntryOf (v : Nat) : FnEntry :=
  let b (off n : Nat) : Nat := bits v (8 * off) (8 * n)
  { digest := b 0 48, graph := b 48 8, gsize := b 56 4, ncode := b 60 2, nargs := b 62 1, nres := b 63 1, code := b 64 8, image := b 72 8
    w := b 80 1, h := b 81 1, cls := b 82 1, keepsp := bitAt v (83 * 8 + 1) }

/-- An entry is well formed (R335). -/
def fnEntryOk (v : Nat) : Bool :=
  let e := fnEntryOf v
  bitAt v (83 * 8) && bits v (83 * 8 + 2) 6 == 0 && bits v (84 * 8) 96 == 0 &&
  e.graph % 64 == 0 && e.graph < 2 ^ 48 && 1 ≤ e.ncode && e.ncode ≤ 4096 && e.nargs ≤ 8 && e.nres ≤ 8 &&
  e.code % 4 == 0 && e.code < 2 ^ 48 && e.image % 65536 == 0 && e.image < 2 ^ 48 &&
  1 ≤ e.w && e.w ≤ 32 && 1 ≤ e.h && e.h ≤ 16 && e.cls ≤ 2

/-- Entry `f` of a process's Function Table, read from die `d`: the error is the address of an entry that cannot be read, or none
for one past the table's end or malformed. -/
def readFt (s : State) (pid d f : Nat) : Except (Option Nat) FnEntry :=
  match s.ctx? pid with
  | none => .error none
  | some c =>
    if c.ftabn ≤ f then .error none
    else match readNat s pid d (c.ftab + 96 * f) 96 with
      | none => .error (some (c.ftab + 96 * f))
      | some v => if fnEntryOk v then .ok (fnEntryOf v) else .error none

/-- The read of a Function Table entry must only wait (R315). -/
def ftWaits (s : State) (pid d f : Nat) : Bool :=
  match s.ctx? pid with
  | some c => f < c.ftabn && vaWaits s pid d (c.ftab + 96 * f) 96
  | none => false

/-! ## Images -/

/-- A placed image (R103). -/
structure Image where
  cls : Nat := 0
  frames : List Nat := []
  code : List W32 := []
  edges : List Nat := []
deriving DecidableEq, Repr

/-- `n` items of `size` bytes at an address, as numbers. -/
def readItems (s : State) (pid d va size : Nat) : Nat → Option (List Nat)
  | 0 => some []
  | n + 1 => do
    let x ← readNat s pid d va size
    let t ← readItems s pid d (va + size) size n
    some (x :: t)

/-- Read the image at an address for a region: none is a HEADER failure (R103, R105 step 1). DESIGN CHOICE (log 42): step 1 names
neither byte 7 of the header nor an image that does not translate or holds poison; both are reported as cause 1. -/
def readImage (s : State) (pid d va : Nat) (h : HolderId) : Option Image := do
  let v ← readNat s pid d va 64
  let b (off n : Nat) : Nat := bits v (8 * off) (8 * n)
  guard (b 0 4 == 0x4D49505A && b 4 1 == h.w && b 5 1 == h.h && b 6 1 ≤ 2 && b 7 1 == 0)
  let nf := b 8 4
  let nc := b 12 2
  guard (1 ≤ nf && nf ≤ 65535 && 1 ≤ nc && nc ≤ 4096)
  guard (rectAll s h.die h.col h.row h.w h.h fun e => e.meets (b 6 1))
  let fs ← readItems s pid d (va + 64) 32 nf
  let code ← readItems s pid d (va + 64 + 32 * nf) 4 nc
  let ed ← readItems s pid d (va + 64 + 32 * nf + ceilDiv nc 8 * 32) 4 (b 14 2)
  some { cls := b 6 1, frames := fs, code := code.map (BitVec.ofNat 32 ·), edges := ed.map fun e => bits e 0 16 }

/-- The read of an image must only wait (R315). -/
def imageWaits (s : State) (pid d va : Nat) : Bool :=
  vaWaits s pid d va 64 || match readNat s pid d va 16 with
    | some v => vaWaits s pid d va (64 + 32 * bits v 64 32 + ceilDiv (bits v 96 16) 8 * 32 + 4 * bits v 112 16)
    | none => false

/-- The report of a failing frame (R107). -/
def frameReport (h : HolderId) (f : Frame) (cause : Nat) : LoadReport :=
  { part := f.part, target := f.target, kind := f.kind, row := h.row + f.row, col := h.col + f.col, die := h.die, cause := cause }

/-- Step 2 of R105: the first frame, in stream order, with a bad header or sent twice. DESIGN CHOICE (log 42): a last frame with
LAST = 0 passes, since step 2 asks only that no other frame has it set. -/
def badHeader (w h : Nat) : List Frame → List Nat → Option Frame
  | _, [] => none
  | seen, v :: t =>
    let f := frameOf v
    if !headerOk w h v || (!t.isEmpty && bitAt v 235) || seen.any fun g => g.same f then some f
    else badHeader w h (f :: seen) t

/-- A frame's word is illegal by itself, or is the word of a cell that a failed condition among words is reported at: the later of
those involved (R105 step 3, R161, R188), the MX control frame for K-format routes (R201), a route for an island that is off (R198)
or for an MUAT with RES = 0, and the port's word where RES = 1 has no route (R238). -/
def Holder.badWord (h : Holder) (fs : List Frame) (f : Frame) : Bool :=
  let c := f.col * h.id.h + f.row
  let mine := fs.filter fun g => g.kind == f.kind && g.col == f.col && g.row == f.row
  let later (p : Frame → Bool) : Bool := (mine.filter p).getLast? == some f
  !wordOk h.id.cls f ||
  (match f.kind, f.target with
   | 0, t =>
     if t == 7 then !h.kRoutes c
     else t ≤ 5 && (stageFaults (h.stages c)).any fun ks => later fun g => ks.contains g.target
   | 1, t =>
     (h.muFaults c).any (fun ts => later fun g => ts.contains g.target) ||
     (t < 4 && !h.resRoute c t && (h.outRoutes c (idMuOut t)).isEmpty)
   | 2, 11 => (h.ratioFaults c).any fun ps => later fun g => g.target == 11 && ps.contains g.part
   | 2, t =>
     let here (id : Nat) : Bool := (h.outRoutes c id).any fun (tile, e) => tile == t && e / 4 == f.part
     t < 4 && (h.lutiRoute c t f.part ||
       ((List.range 4).any fun p => !h.resRoute c p && here (idMuOut p)) ||
       (!(fs.any fun g => g.sits 0 f.col f.row 7 0) && !h.kRoutes c &&
         (here (idMx 1) || (h.into c (idMx 2)).any fun (r, _) => r.tile == t && r.e / 4 == f.part)))
   | _, _ => false)

/-- A frame of a switch has a SLOTS field above 8 (R105 step 4). -/
def badSlots (f : Frame) : Bool :=
  f.kind == 2 && f.target < 4 && (List.range 4).any fun j =>
    match routeOf (bits f.pay.toNat (56 * j) 56) with
    | some r => r.dsts.any fun d => 8 < d.2
    | none => false

/-- The used destinations of an image in frame order, for the edge map (R103). -/
def Holder.imageDsts (h : Holder) (fs : List Frame) : List (DstRef × Nat × Nat) :=
  (fs.filter fun f => f.kind == 2 && f.target < 4).flatMap fun f =>
    let c := f.col * h.id.h + f.row
    ((h.dstsOf c).filter fun (r, _, _, _) => r.tile == f.target && r.e / 4 == f.part).map fun (r, _, d, sl) => (r, d, sl)

/-- KIND and TARGET of the word that makes an element read an input port. -/
def Holder.inputWord (h : Holder) (c id : Nat) : Nat × Nat :=
  if id < 4 then (0, (h.stageIn c id).getD 0)
  else if id < 32 then (0, 7)
  else if id < 40 then (1, (id - 32) / 2)
  else if id < 48 then (1, id - 28)
  else if id == idLuti then (2, 10)
  else (3, id - 48)

/-- The report of a failing edge: the switch that holds its destination. -/
def edgeReport (h : Holder) (r : DstRef) (edge cause : Nat) : LoadReport :=
  { edge := edge, part := r.e / 4, target := r.tile, kind := 2, row := h.id.row + h.cellRow r.cell, col := h.id.col + h.cellCol r.cell
    die := h.id.die, cause := cause }

/-- Step 5 of R105: the first destination, in frame order, that leaves the region or ends at a port that another end in the stream
has taken; otherwise the first word whose element has an input without a route. -/
def Holder.routeFault (h : Holder) (fs : List Frame) : Option LoadReport :=
  let l := h.imageDsts fs
  let bad := l.zipIdx.find? fun ((r, d, _), i) =>
    (match h.route r.cell r.tile r.e with | some rt => h.outside r.cell rt d | none => false) ||
    (h.crowded r d && ((d < 64 && (h.epAt false r.cell d).isSome) ||
      (l.take i).any fun (q, _, _) => (h.rivals r d).any fun x => x.1 == q))
  match bad with
  | some ((r, _, _), _) => some (edgeReport h r 0xFFFF 5)
  | none => (fs.find? fun f =>
      let c := f.col * h.id.h + f.row
      (h.inputs c).any fun id => !h.fedPort c id && h.inputWord c id == (f.kind, f.target)).map fun f => frameReport h.id f 5

/-- Nodes reachable from a set over edges. -/
def reach (l : List (Nat × Nat)) : Nat → List Nat → List Nat
  | 0, a => a
  | n + 1, a => reach l n (a ++ ((l.filter fun e => a.contains e.1 && !a.contains e.2).map (·.2)).eraseDups)

/-- The lowest-numbered edge of an image that lies in a zero-slot cycle, with its destination. -/
def Holder.cycleEdge (h : Holder) (es : List ((DstRef × Nat × Nat) × Nat)) : Option (DstRef × Nat) :=
  let l := h.zeroEdges
  let on := es.filterMap fun ((r, d, _), k) =>
    if (h.zeroEdgesAt r d).any fun (a, b) => (reach l l.length [b]).contains a then some (r, k) else none
  on.foldl (fun best x => match best with
    | some y => if x.2 < y.2 then some x else best
    | none => some x) none

/-- The checks of R105 from step 2 on, in their order, on a region that has the image's frames in force: the report of the first
failure. DESIGN CHOICE (log 42): R105 has no check of NDST; a destination that the edge map has no entry for is reported with edge
0xFFFF, and an entry too many is not looked at. -/
def loadCheck (h : Holder) (raw : List Nat) (edges : List Nat) : Option LoadReport :=
  let fs := raw.map frameOf
  match badHeader h.id.w h.id.h [] raw with
  | some f => some (frameReport h.id f 2)
  | none => match fs.find? (h.badWord fs) with
    | some f => some (frameReport h.id f 3)
    | none => match fs.find? badSlots with
      | some f => some (frameReport h.id f 4)
      | none => match h.routeFault fs with
        | some r => some r
        | none =>
          let es := (h.imageDsts fs).zipIdx.map fun (x, i) => (x, edges.getD i 0xFFFF)
          match es.find? fun ((r, d, _), _) => !h.fmtAgree r d with
          | some ((r, _, _), k) => some (edgeReport h r k 6)
          | none =>
            if h.cyclesOk then none
            else match h.cycleEdge es with
              | some (r, k) => some (edgeReport h r k 7)
              | none => some { row := h.id.row, col := h.id.col, die := h.id.die, cause := 7 }

/-- The datapath of a region as it is armed with frames (R104, R158, R371, R374). -/
def Holder.armed (h : Holder) (fs : List Frame) : Datapath :=
  let g : Holder := { h with dp := { cfg := fs, image := fs } }
  { cfg := fs, image := fs, phaseCfg := fs
    cells := (List.range h.id.ncells).map fun c => { mx := mxStart (g.mxWord c), tables := g.imageTables c, phaseTables := g.imageTables c } }

/-- 1 + the highest scratchpad byte that a frame configures (R336). -/
def frameTop (f : Frame) : Nat :=
  let p := f.pay.toNat
  if f.kind == 1 && 4 ≤ f.target && f.target ≤ 11 && cbEn p then (cbBase p + cbSize p) * 64
  else if f.kind == 1 && f.target < 4 && muType p == 5 then (muWbase p + muWsize p) * 64
  else 0

/-! ## Shape Cache -/

/-- Change the requests of a die's mapping engine. -/
def State.modMaps (s : State) (d : Nat) (f : List MapReq → List MapReq) : State := s.modP d fun p => { p with maps := f p.maps }

/-- A look-up in a die's Shape Cache; a hit sets LAST to the die's hit sequence number (R336). -/
def shapeHit (s : State) (d pid cls : Nat) (dg : BitVec 384) : Option (ShapeEnt × State) :=
  match (s.die d).p.shapes.find? fun e => e.is pid cls dg with
  | none => none
  | some e =>
    let n := (s.die d).p.hits + 1
    some (e, (s.modP d fun p => { p with hits := n }).modShapes d fun x => if x.is pid cls dg then { x with last := n } else x)

/-- What a look-up finds for an agent that waits for an image: an entry, a failure's cause and edge, or nothing yet. -/
inductive ShapeRes where
  | hit (e : ShapeEnt) (s : State)
  | fail (cause edge : Nat) (s : State)
  | wait (s : State)

/-- A Shape Cache look-up (R336): on a miss the mapping is requested, or the agent joins the one under way; an agent that waits for a
mapping that failed learns its cause. `who` names the agent. -/
def shapeFor (s : State) (d pid f : Nat) (e : FnEntry) (who : Nat × Nat) : ShapeRes :=
  let dg := BitVec.ofNat 384 e.digest
  let mine (m : MapReq) : Bool := m.pid == pid && m.cls == e.cls && m.digest == dg
  match shapeHit s d pid e.cls dg with
  | some (x, s) => .hit x s
  | none => match (s.die d).p.maps.find? fun m => mine m && m.fail.isSome && m.waiters.contains who with
    | some m =>
      let (c, k) := m.fail.getD (0, 0)
      let rest := m.waiters.filter (· != who)
      .fail c k (s.modMaps d fun l =>
        (l.map fun x => if x == m then { x with waiters := rest } else x).filter fun x => x.fail.isNone || !x.waiters.isEmpty)
    | none =>
      if (s.die d).p.maps.any fun m => mine m && m.fail.isNone then
        .wait (s.modMaps d fun l => l.map fun x =>
          if mine x && x.fail.isNone && !x.waiters.contains who then { x with waiters := x.waiters ++ [who] } else x)
      else .wait (s.modMaps d fun l => l ++ [{ pid := pid, fidx := f, cls := e.cls, digest := dg, waiters := [who] }])

end Sys2Proof.Machine
end

