-- ==== Sys2Proof/Machine/Mapping.lean ====
section
/-! DEFINITION. The mapping engine (R112, R113, R336): the GRAPH section, its checks, what a placement of it must hold, and the image that it writes. -/

namespace Sys2Proof.Machine

/-! ## The mapping engine (R113) -/

/-- An element record of a GRAPH section (R112): KIND, its payloads, and whether the record is well formed. -/
structure GElem where
  kind : Nat := 0
  pays : List Nat := []
  ok : Bool := false
deriving DecidableEq, Repr

/-- The tables of a GRAPH section (R112), each record as a number; `whole` when the header's zero bytes are zero and the tables fill
the section. -/
structure Graph where
  elems : List GElem := []
  edges : List Nat := []
  consts : List Nat := []
  ratios : List Nat := []
  endps : List Nat := []
  whole : Bool := false
deriving DecidableEq, Repr

/-- A code-table payload (R97). -/
def tablePay (p : Nat) : Bool := bits p 128 96 == 0

/-- The payload of a switch merge: every route field is 0 but ARB (R112, log 7). -/
def mergePay (p : Nat) : Bool :=
  (List.range 4).all fun j => let v := bits p (56 * j) 56
                              bits v 0 52 == 0 && bits v 52 2 != 3 && bits v 54 2 == 0

/-- The payloads of an element record are those of its kind's frames, in target and part order, each legal by itself, with OPORT 0
(R112, R113 step 2; DEDUCED, log 7: which frames a kind has). -/
def paysOk (cls kind : Nat) (ps : List Nat) : Bool :=
  match ps with
  | [] => false
  | p :: rest =>
    let port (t : Nat) : Bool := muType p == t && muOk p
    match kind with
    | 0x01 => sOp p != 0 && stageOk 1 p && sOport p == 0 && rest.all fun q => loopsOk q || tablePay q
    | 0x02 => mxMacen p != 0 && mxOk cls p && rest.all tablePay
    | 0x03 => port 1 && rest.isEmpty
    | 0x04 => port 2 && rest.isEmpty
    | 0x05 => port 3 && rest.length ≤ 1 && rest.all cbOk
    | 0x06 => port 4 && rest.isEmpty
    | 0x07 => port 5 && rest.isEmpty
    | 0x08 => reordOk p && rest.isEmpty
    | 0x09 => cturnOk p && rest.isEmpty
    | 0x0A => agenOk p && rest.isEmpty
    | 0x0B => 1 ≤ bits p 0 2 && bits p 2 222 == 0 && rest.isEmpty
    | 0x0C => ps.length == 19 && (ps.take 5).zipIdx.all (fun (q, j) => lutiOk 8 j q) && ((ps.drop 5).take 12).zipIdx.all fun (q, j) => lutiOk 9 j q
    | 0x0D => ps.all mergePay
    | _ => false

/-- Cut `n` records of `size` bytes. -/
def records (size : Nat) : Nat → List Byte → List Nat × List Byte
  | 0, l => ([], l)
  | n + 1, l =>
    let (es, r) := records size n (l.drop size)
    (bytesLE (l.take size) :: es, r)

/-- Read `n` element records; the rest of the bytes. -/
def graphElems (cls : Nat) : Nat → List Byte → List GElem × List Byte
  | 0, l => ([], l)
  | n + 1, l =>
    let k := (l.getD 0 0).toNat
    let p := (l.getD 1 0).toNat
    let (ps, r) := records 28 p (l.drop 4)
    let e : GElem := ⟨k, ps, 4 + 28 * p ≤ l.length && 1 ≤ p && p ≤ 32 && l.getD 2 0 == 0 && l.getD 3 0 == 0 && paysOk cls k ps⟩
    let (es, r) := graphElems cls n r
    (e :: es, r)

/-- The tables of a GRAPH section. -/
def graphOf (cls : Nat) (l : List Byte) : Graph :=
  let n (i : Nat) : Nat := bytesLE ((l.drop (2 * i)).take 2)
  let (el, r) := graphElems cls (n 0) (l.drop 16)
  let tail := 12 * n 1 + 8 * n 2 + 8 * n 3 + 6 * n 4
  let (ed, r1) := records 12 (n 1) r
  let (co, r2) := records 8 (n 2) r1
  let (ra, r3) := records 8 (n 3) r2
  let (ep, _) := records 6 (n 4) r3
  ⟨el, ed, co, ra, ep, r.length == tail && bytesLE ((l.drop 10).take 6) == 0 && n 2 ≤ 64 && n 4 ≤ 256⟩

/-- An edge record: both elements in the graph, one assigned format at both ends, SLOTS 0 to 8, zero bytes 0 (R46, R112, R113 step 3). -/
def Graph.edgeOk (g : Graph) (x : Nat) : Bool :=
  bits x 0 16 < g.elems.length && bits x 32 16 < g.elems.length && bits x 24 8 == bits x 56 8 && fmtOk (bits x 24 8) &&
  bits x 64 8 ≤ 8 && bits x 72 24 == 0

/-- A constant record (R43, R112). -/
def constOk (x : Nat) : Bool := laneFmt (bits x 0 8) && bits x 8 24 == 0

/-- A constant converts to a format under RNE and OVF without overflow, and is no NaN or infinity where that is INT32 (R160). -/
def converts (x fmt : Nat) : Bool :=
  let f := bits x 0 8
  let v : FV := if f == 0x21 then .ofInt (sInt 32 (bits x 32 32)) else (laneFloat f).dec (bits x 32 (fmtWidth f))
  f == fmt || !laneFmt fmt || (match v with
    | .fin s m e =>
      if fmt == 0x21 then -2147483648 ≤ signed s (shiftRound false m e) && signed s (shiftRound false m e) ≤ 2147483647
      else (laneFloat fmt).enc false false v % (laneFloat fmt).sign != (laneFloat fmt).inf
    | _ => fmt != 0x21)

/-- A ratio record (R43, R112). -/
def ratioRecOk (x : Nat) : Bool :=
  1 ≤ bits x 32 8 && bits x 32 8 ≤ 64 && 1 ≤ bits x 40 8 && bits x 40 8 ≤ 64 && bits x 48 16 == 0

/-- An endpoint record (R43, R47, R112). -/
def endpOk (x : Nat) : Bool :=
  bits x 24 8 ≤ 1 && (bits x 32 16 == 0 || (bits x 24 8 == 0 && [16, 32, 64, 128, 256, 512].contains (bits x 32 16)))

/-- Element `i` fails step 2 of R113: its record, the constant it names (R160), or a ratio or an endpoint that names it. DESIGN CHOICE
(log 42): step 2 speaks of element records alone; a bad ratio or endpoint record is reported with the element it names. -/
def Graph.elemBad (g : Graph) (key i : Nat) : Bool :=
  let e := g.elems.getD i {}
  !e.ok ||
  (e.kind == 1 && (stageSrcs (e.pays.headD 0)).contains 5 && (match Config.mapConst key i with
    | some n => !((g.consts[n]?).any fun x => constOk x && converts x (sFmtI (e.pays.headD 0)))
    | none => false)) ||
  (g.ratios.any fun x => bits x 0 16 == i && !ratioRecOk x) || g.endps.any fun x => bits x 0 16 == i && !endpOk x

/-- The tables name elements of the graph, every constant is well formed, and the section is whole. -/
def Graph.sound (g : Graph) : Bool :=
  g.whole && g.consts.all constOk && (g.ratios ++ g.endps).all fun x => bits x 0 16 < g.elems.length

/-- The failure of a graph in steps 1 to 4 of R113: cause, and edge or element. DESIGN CHOICE (log 42): what is wrong with the section
but belongs to no element is reported under cause 10 with 0xFFFF, and with an edge record under cause 11. -/
def graphFail (e : FnEntry) (l : List Byte) (key : Nat) : Option (Nat × Nat) :=
  let g := graphOf e.cls l
  let ends (x : Nat) : Nat × Nat := (bits x 0 16, bits x 32 16)
  let zs := (g.edges.filter fun x => bits x 64 8 == 0).map ends
  if (digestLE l).toNat != e.digest then some (9, 0xFFFF)
  else match firstBelow g.elems.length (g.elemBad key) with
    | some i => some (10, i)
    | none =>
      if !g.sound then some (10, 0xFFFF)
      else match indexOf g.edges fun x => !g.edgeOk x with
        | some i => some (11, i)
        | none => (indexOf g.edges fun x => bits x 64 8 == 0 && (reach zs zs.length [(ends x).2]).contains (ends x).1).map fun i => (12, i)

/-- The endpoint records of a mapped graph (R112): direction and round length from the graph, place and sinks from the mapping
(log 7). -/
def graphEps (cls : Nat) (l : List Byte) (key : Nat) : List EpRec :=
  let g := graphOf cls l
  g.endps.zipIdx.map fun (x, k) =>
    let (c, pl, pt) := Config.mapEndpoint key k
    let kind := (g.elems.getD (bits x 0 16) {}).kind
    { place := if kind == 0x0A && bits x 16 8 == 0xFF then .gen c pt else .port c pl pt
      out := bits x 24 8 == 1, round := bits x 32 16, sinks := Config.mapSinks key k }

/-- The key of a mapping's free results: graph, shape, class and die. -/
def mapKey (m : MapReq) (e : FnEntry) (d : Nat) : Nat := (((m.digest.toNat * 4 + m.cls) * 64 + e.w) * 32 + e.h) * 4 + d

/-- Write bytes at virtual addresses of a process; those that cannot be reached are left out. -/
def writeBytes (s : State) (pid : Nat) : Nat → List Byte → State
  | _, [] => s
  | va, b :: t => writeBytes ((writeVa s pid va 1 b.toNat).getD s) pid (va + 1) t

/-- A region of a function's shape and class with the frames of a placement in force. -/
def mapRegion (e : FnEntry) (eps : List EpRec) (fs : List Frame) : Holder :=
  { id := { w := e.w, h := e.h, cls := e.cls }, eps := eps.map fun r => { gr := r }, dp := { cfg := fs, image := fs } }

/-- The edge map of a placement: one edge number for each used destination, in frame order (R103). -/
def mapEdges (h : Holder) (key : Nat) : List Nat := (List.range (h.imageDsts h.dp.image).length).map fun i => (Config.mapEdge key i).toNat

/-! ## What a placement holds (R44, R46, R99, R112, R113 step 5)

DEDUCED (log 7): a placement is of the graph when every element's payloads stand in the frames of one unit of its kind, the fields
that the mapping chooses apart (OPORT, OEN, which input port or PIPE a source is, CONST), every edge is a trail of routes whose slots
add up to its SLOTS and whose last destination has its number, and every frame, check and endpoint of the image is of the graph. -/

/-- The frame, kind and target, of a unit of a cell: CU stages 0 to 5, MX 6, MU ports 7 to 10, reorder 11, corner-turn 12, generators
13 and 14, XLAT 15, LUT island 16. -/
def unitWord (u : Nat) : Nat × Nat :=
  if u < 6 then (0, u) else if u == 6 then (0, 7) else if u < 11 then (1, u - 7) else if u < 13 then (1, u + 1)
  else if u < 16 then (3, u - 13) else (2, 8)

/-- An element of a kind may stand at a unit; a merge stands at a port of a switch, 512 + 128 · tile + port. -/
def kindUnit (kind u : Nat) : Bool :=
  match kind with
  | 0x01 => u < 6
  | 0x02 => u == 6
  | 0x03 | 0x04 | 0x05 | 0x06 | 0x07 => 7 ≤ u && u < 11
  | 0x08 => u == 11
  | 0x09 => u == 12
  | 0x0A => u == 13 || u == 14
  | 0x0B => u == 15
  | 0x0C => u == 16
  | _ => 512 ≤ u && u < 1024

/-- CONST of a stage for a constant record, in the stage's FMTI (R160). -/
def constFor (x fmt : Nat) : Nat :=
  let f := bits x 0 8
  let v : FV := if f == 0x21 then .ofInt (sInt 32 (bits x 32 32)) else (laneFloat f).dec (bits x 32 (fmtWidth f))
  let c : Nat :=
    if f == fmt then bits x 32 (fmtWidth f)
    else if fmt == 0x21 then (match v with | .fin s m e => (signed s (shiftRound false m e) % 2 ^ 32).toNat | _ => 0)
    else (laneFloat fmt).enc false false v
  if fmtWidth fmt == 16 then c % 65536 * 65537 else c

/-- The three source codes of a stage word. -/
def srcCodes (w : Nat) : List Nat := [sSrcA w, sSrcB w, sSrcC w]

/-- A stage word holds a stage element's payload. -/
def stageHolds (g : Graph) (key i p w : Nat) : Bool :=
  sOp w == sOp p && sOpx w == sOpx p && sFmtI w == sFmtI p && sFmtR w == sFmtR p && sRed w == sRed p && sAcc w == sAcc p &&
  sRtz w == sRtz p && sSat w == sSat p && sPat w == sPat p &&
  ((srcCodes p).zip (srcCodes w)).all (fun (a, b) => if 1 ≤ a && a < 5 then b < 5 else b == a) &&
  (match (stageSrcs p).contains 5, Config.mapConst key i with
   | true, some n => (g.consts[n]?).any fun x => sConst w == constFor x (sFmtI p)
   | _, _ => sConst w == sConst p)

/-- A region holds a code-table payload. -/
def Holder.holdsTable (h : Holder) (q : Nat) : Bool := (List.range 8).any fun t => h.pay 0 0 8 t == q

/-- A unit of a cell holds the payloads of element `i`. -/
def Holder.holdsElem (h : Holder) (g : Graph) (key i c u : Nat) : Bool :=
  let e := g.elems.getD i {}
  let p := e.pays.headD 0
  let rest := e.pays.drop 1
  let w := h.pay c (unitWord u).1 (unitWord u).2 0
  kindUnit e.kind u && c < h.id.ncells &&
  match e.kind with
  | 0x01 => stageHolds g key i p w && rest.all fun q => q == h.pay c 0 6 0 || h.holdsTable q
  | 0x02 => w == p && rest.all h.holdsTable
  | 0x05 => w == p && rest.all fun q => h.cbWord c (muCb p) == q
  | 0x0C => e.pays == ((List.range 5).map fun k => h.pay c 2 8 k) ++ ((List.range 12).map fun k => h.pay c 2 9 k) ++
      (List.range 2).map fun k => h.pay c 2 10 k
  | 0x0D => true
  | _ => w == p

/-- The source code that stage element `j` has in its word for its input `q`: 0 for PIPE, n + 1 for in-port n. -/
def Holder.srcFor (h : Holder) (g : Graph) (key j q : Nat) : Option Nat :=
  let (c, u) := Config.mapSite key j
  (((srcCodes ((g.elems.getD j {}).pays.headD 0)).zip (srcCodes (h.stage c u))).find? fun x => x.1 == q + 1).map (·.2)

/-- The first port of a unit, in or out. -/
def unitPort (out : Bool) (u : Nat) : Nat :=
  if u == 6 then idMx 0 else if u < 11 then (if out then idMuOut (u - 7) else idMuIn0 (u - 7)) else if u < 13 then u + 29 else u + 35

/-- The port of the cell that is input or output `q` of element `j`; none for a stage's link that is PIPE. -/
def Holder.portFor (h : Holder) (g : Graph) (key : Nat) (out : Bool) (j q : Nat) : Option Nat :=
  let (c, u) := Config.mapSite key j
  if (g.elems.getD j {}).kind == 1 then
    if out then (if sOen (h.stage c u) then some (sOport (h.stage c u)) else none)
    else match h.srcFor g key j q with
      | some (n + 1) => some n
      | _ => none
  else some (unitPort out u + q)

/-- The ends, input ports and merges, that a source's routes reach: last destination, port, and the slots of the trail. -/
def Holder.trails (h : Holder) : Nat → Nat → Option Nat → Nat → Nat → List (DstRef × Nat × Nat)
  | 0, _, _, _, _ => []
  | fuel + 1, c, tile, src, sum =>
    (h.fed c tile src).flatMap fun (r, d, sl) =>
      if d < 64 || h.edgeMerged c r.tile d then [(r, d, sum + sl)]
      else match h.beside c (d / 16) with
        | some n => h.trails fuel n (some r.tile) (facing (d / 16) * 16 + d % 16) (sum + sl)
        | none => []

/-- An edge of the graph is in the region: as PIPE between stages, as the output of a merge at the very port, or as a trail of routes. -/
def Holder.holdsEdge (h : Holder) (g : Graph) (key : Nat) (nums : List ((DstRef × Nat × Nat) × Nat)) (x k : Nat) : Bool :=
  let (i, p, j, q, sl) := (bits x 0 16, bits x 16 8, bits x 32 16, bits x 48 8, bits x 64 8)
  let (a, b) := (g.elems.getD i {}, g.elems.getD j {})
  let (c, u) := Config.mapSite key i
  let (c2, u2) := Config.mapSite key j
  let t := u % 128
  let from_ : List (DstRef × Nat × Nat) :=
    if a.kind != 0x0D then match h.portFor g key true i p with
      | some id => h.trails hopFuel c none id 0
      | none => []
    else if t < 64 then []
    else match h.beside c (t / 16) with
      | some n => h.trails hopFuel n (some (u / 128 % 4)) (facing (t / 16) * 16 + t % 16) 0
      | none => []
  let ends (r : DstRef) (d : Nat) : Bool :=
    r.cell == c2 &&
    if b.kind == 0x0D then
      d == u2 % 128 && (d < 64 || r.tile == u2 / 128 % 4) && (h.route r.cell r.tile r.e).any fun rt =>
        rt.arb != 0 && b.pays.any fun y => (List.range 4).any fun m => bits y (56 * m + 52) 2 == rt.arb
    else h.portFor g key false j q == some d
  (a.kind == 1 && b.kind == 1 && c == c2 && u2 == u + 1 && h.srcFor g key j q == some 0) ||
  (a.kind == 0x0D && t < 64 && c == c2 && sl == 0 && h.portFor g key false j q == some t) ||
  from_.any fun (r, d, n) => n == sl && ends r d && nums.any fun y => y.1.1 == r && y.2 == k

/-- The valid ratio checks of a cell (R413). -/
def Holder.checkEntries (h : Holder) (c : Nat) : List Nat :=
  ((List.range 16).map fun e => bits (h.pay c 2 11 (e / 8)) (28 * (e % 8)) 28).filter fun v => bitAt v 0

/-- A ratio check is that of a ratio record (R112, R413). -/
def Holder.checkOf (h : Holder) (g : Graph) (key x v : Nat) : Bool :=
  let i := bits x 0 16
  h.portFor g key false i (bits x 16 8) == some (bits v 1 7) && h.portFor g key true i (bits x 24 8) == some (bits v 8 7) &&
  bits v 15 6 + 1 == bits x 32 8 && bits v 21 6 + 1 == bits x 40 8

/-- A frame of the image configures part of the graph. -/
def Holder.ownedFrame (h : Holder) (g : Graph) (key : Nat) (f : Frame) : Bool :=
  let c := f.col * h.id.h + f.row
  f.pay == 0 || (f.kind == 2 && f.target < 4) ||
  (if f.kind == 2 && f.target == 11 then
    (h.checkEntries c).all fun v => g.ratios.any fun x => (Config.mapSite key (bits x 0 16)).1 == c && h.checkOf g key x v
   else (List.range g.elems.length).any fun i =>
     let e := g.elems.getD i {}
     let (d, u) := Config.mapSite key i
     (d == c && e.kind != 0x0D && (unitWord u == (f.kind, f.target) || (e.kind == 0x0C && f.kind == 2 && f.target ≤ 10))) ||
     ((d == c || f.target == 8) && (e.pays.drop 1).contains f.pay.toNat && unitWord u != (2, 8)))

/-- An endpoint stands at its element. -/
def Holder.holdsEndp (h : Holder) (g : Graph) (key x k : Nat) : Bool :=
  let i := bits x 0 16
  let (c, pl, pt) := Config.mapEndpoint key k
  let (d, u) := Config.mapSite key i
  let id := pl * 16 + pt
  c == d &&
  if bits x 16 8 == 0xFF then
    if (g.elems.getD i {}).kind == 0x0A then pt == u - 13
    else h.owner c true id == some (c * 32 + u) || h.owner c false id == some (c * 32 + u)
  else (g.elems.getD i {}).kind == 0x0D || h.portFor g key (bits x 24 8 == 1) i (bits x 16 8) == some id

/-- A region holds a graph: its elements, each at a unit of its own, its edges, ratios and endpoints, and nothing else. -/
def Holder.holdsGraph (h : Holder) (g : Graph) (key : Nat) (edges : List Nat) : Bool :=
  let n := g.elems.length
  let nums := (h.imageDsts h.dp.image).zip edges
  ((List.range n).map fun i => Config.mapSite key i).Nodup &&
  (List.range n).all (fun i => h.holdsElem g key i (Config.mapSite key i).1 (Config.mapSite key i).2) &&
  g.edges.zipIdx.all (fun (x, k) => h.holdsEdge g key nums x k) && edges.all (fun k => k < g.edges.length) &&
  g.ratios.all (fun x => (h.checkEntries (Config.mapSite key (bits x 0 16)).1).any fun v => h.checkOf g key x v) &&
  g.endps.zipIdx.all (fun (x, k) => h.holdsEndp g key x k) && h.dp.image.all (h.ownedFrame g key)

/-- The placement of a graph: its frames, when they are a valid image of the declared shape and class that holds the graph (R105, R113
step 5). Which placement the engine finds, or that it finds none, is free (log 7). -/
def mapPlacement (e : FnEntry) (g : Graph) (eps : List EpRec) (key : Nat) : Option (List Nat × List Nat) :=
  (Config.mapFrames key).bind fun l =>
    let raw := l.map BitVec.toNat
    let h := mapRegion e eps (raw.map frameOf)
    let ed := mapEdges h key
    if 1 ≤ raw.length && raw.length ≤ 65535 && (loadCheck h raw ed).isNone && h.holdsGraph g key ed then some (raw, ed) else none

/-- The bytes of a placed image (R103): header, frames, the function's code padded to 32 bytes, and the edge map. -/
def imageOf (e : FnEntry) (raw code edges : List Nat) : List Byte :=
  [0x5A, 0x50, 0x49, 0x4D] ++ leBytes 1 e.w ++ leBytes 1 e.h ++ leBytes 1 e.cls ++ leBytes 1 0 ++ leBytes 4 raw.length ++
  leBytes 2 code.length ++ leBytes 2 edges.length ++ leBytes 48 e.digest ++ raw.flatMap (leBytes 32) ++
  code.flatMap (leBytes 4) ++ List.replicate (ceilDiv code.length 8 * 32 - 4 * code.length) 0xFF ++ edges.flatMap (leBytes 4)

/-- Fill an entry (R336): an invalid one, or else the one with the smallest LAST among those with USE = 0; none while every entry is
in use. LAST and USE stay: only a hit changes the one, and loads the other, such as one that still streams from the entry's old image. -/
def shapeFill (l : List ShapeEnt) (e : ShapeEnt) : Option (List ShapeEnt) :=
  let putAt (i : Nat) : List ShapeEnt := listMod l i fun x => { e with last := x.last, use := x.use }
  match indexOf l fun x => !x.valid with
  | some i => some (putAt i)
  | none =>
    if l.length < 1024 then some (l ++ [e])
    else
      let best := l.zipIdx.foldl (fun (b : Option (ShapeEnt × Nat)) x =>
        if x.1.use != 0 then b else match b with
          | some y => if x.1.last < y.1.last then some x else b
          | none => some x) none
      best.map fun b => putAt b.2

/-- MAPPING_COMPLETE (R336): the request at the head of a die's mapping engine is done: GRAPH and CODE are read, the graph is mapped,
the image written and an entry filled, or its failure is reported to those that wait for it. DESIGN CHOICE (log 42): an entry that is
malformed, cannot be read or no longer has the key that was requested (after a change of FTAB), and sections that cannot be read, are
reported as cause 9 with 0xFFFF. -/
def execMappingComplete (d : Nat) (s : State) : Out :=
  .next (match (s.die d).p.maps.find? fun m => m.fail.isNone with
    | none => s
    | some m =>
      let done (f : Option (Nat × Nat)) (s : State) : State := s.modMaps d fun l => match f with
        | some c => l.map fun x => if x == m then { x with fail := some c } else x
        | none => l.filter (· != m)
      if ftWaits s m.pid d m.fidx then s else
      match readFt s m.pid d m.fidx with
      | .error _ => done (some (9, 0xFFFF)) s
      | .ok e =>
        if BitVec.ofNat 384 e.digest != m.digest || e.cls != m.cls then done (some (9, 0xFFFF)) s else
        if vaWaits s m.pid d e.graph e.gsize || vaWaits s m.pid d e.code (4 * e.ncode) then s else
        match readBytes s m.pid d e.graph e.gsize, readItems s m.pid d e.code 4 e.ncode with
        | some l, some code =>
          let key := mapKey m e d
          match graphFail e l key with
          | some c => done (some c) s
          | none =>
            let eps := graphEps e.cls l key
            match mapPlacement e (graphOf e.cls l) eps key with
            | none => done (some (13, 0xFFFF)) s
            | some (raw, edges) =>
              let img := e.image + d * 2 ^ 22
              let ent : ShapeEnt := { pid := m.pid, cls := m.cls, digest := m.digest, img := img
                                      sptop := ((raw.map frameOf).map frameTop).foldl max 0, eps := eps }
              match shapeFill (s.die d).p.shapes ent with
              | none => s
              | some t => done none ((writeBytes s m.pid img (imageOf e raw code edges)).modP d fun p => { p with shapes := t })
        | _, _ => done (some (9, 0xFFFF)) s)

end Sys2Proof.Machine
end

