-- ==== Sys2Proof/Machine/Place.lean ====
section
/-! DEFINITION. Finding a region for a CALL (R338, R339), fold (R341), spill (R342), and the placement queue's requests (R343). -/

namespace Sys2Proof.Machine

/-! ## The search of R338 -/

/-- What a search places: shape and class, the die and region it starts from, and the steps it may take. -/
structure Want where
  die : Nat := 0
  cx : Nat := 0
  cy : Nat := 0
  wc : Nat := 1
  hc : Nat := 1
  w : Nat := 1
  h : Nat := 1
  cls : Nat := 0
  mask : Nat := 15
  rad1 : Bool := false
  p2 : Bool := true
  p3 : Bool := true
deriving DecidableEq, Repr

/-- The candidate origins of step 1, in the order of R338's table. -/
def Want.ring (q : Want) : List (Int × Int) :=
  let cx : Int := q.cx
  let cy : Int := q.cy
  let w : Int := q.w
  let h : Int := q.h
  let e : Int := cx + q.wc
  let n : Int := cy + q.hc
  [(e, cy), (cx, n), (cx - w, cy), (cx, cy - h), (e, n), (cx - w, n), (cx - w, cy - h), (e, cy - h)] ++
  (if q.rad1 then [] else
    [(e + w, cy), (cx, n + h), (cx - 2 * w, cy), (cx, cy - 2 * h), (e + w, n + h), (cx - 2 * w, n + h), (cx - 2 * w, cy - 2 * h),
     (e + w, cy - 2 * h)])

/-- Step 1: the first origin of the ring whose cells are all claimable. -/
def Want.step1 (s : State) (q : Want) : Option (Nat × Nat × Nat) :=
  firstSome q.ring fun (x, y) =>
    if 0 ≤ x && 0 ≤ y && rectAll s q.die x.toNat y.toNat q.w q.h fun e => e.claimable q.cls then some (q.die, x.toNat, y.toNat) else none

/-- Step 2's scan of a die. -/
def Want.scan (s : State) (q : Want) (d : Nat) : Option (Nat × Nat × Nat) :=
  (scanDie s d q.w q.h fun e => e.claimable q.cls).map fun (c, r) => (d, c, r)

/-- The dies of step 3, in order. -/
def Want.others (q : Want) : List Nat := ([1, 2, 3].map fun k => (q.die + k) % 4).filter fun e => bitAt q.mask e

/-- Those of them that a link reaches (R444; DESIGN CHOICE, log 36). -/
def Want.near (s : State) (q : Want) : List Nat := q.others.filter fun e => reaches s q.die e

/-- Steps 1 to 3 of R338. -/
def Want.find (s : State) (q : Want) : Option (Nat × Nat × Nat) :=
  q.step1 s <|> (if q.p2 then q.scan s q.die else none) <|> (if q.p3 then firstSome (q.near s) (q.scan s) else none)

/-- R339: a region of the shape and class could exist on a die that the search reaches; steps 1 and 5 reach the caller's die. -/
def Want.possible (s : State) (q : Want) : Bool :=
  couldExist s q.die q.w q.h q.cls || (q.p3 && q.others.any fun e => couldExist s e q.w q.h q.cls)

/-- The search of a CALL for a callee, from the caller's region, with its MODE and DIEMASK (R125, R338). -/
def wantOf (caller : Holder) (w h cls : Nat) : Want :=
  let i := caller.id
  { die := i.die, cx := i.col, cy := i.row, wc := i.w, hc := i.h, w := w, h := h, cls := cls, mask := i.dieMask
    rad1 := modeBit i.mode 4, p2 := modeBit i.mode 1, p3 := modeBit i.mode 2 }

/-! ## Claims -/

/-- A holder's load starts on a region: the cells are claimed, MODE is captured, an instance takes the next PSEQ, and USE of its Shape
Cache entry gains 1 (R32, R334, R336, R342). -/
def startLoad (s : State) (inst d c r : Nat) : State :=
  match s.h? inst with
  | none => s
  | some h =>
    let s := claimRect s d c r h.id.w h.id.h h.id.pid inst
    let numbered : Bool := h.id.kind == .callee || h.id.kind == .member
    let n := s.pkg.pseq
    let mode := match s.ctx? h.id.pid with | some x => x.mode | none => h.id.mode
    let s := s.modH inst fun h => { h with id := { h.id with
      die := d, col := c, row := r, life := .loading, mode := mode, pseq := if numbered then n else h.id.pseq } }
    let s := if numbered then s.modPkg fun p => { p with pseq := n + 1 } else s
    shapeUse s h true

/-! ## Blocked instances and racking (R342) -/

/-- Blocked (R342): an instance started by CALL that waits, with RUN = 0, no copy busy and no fold in its region. One whose requests are not yet
answered, or whose rollback is due, is not yet taken (R421, R426). -/
def Holder.blocked (h : Holder) : Bool :=
  h.id.kind == .callee && h.runs && !h.th.sys.run && !(h.th.copies.any fun c => c.st == .busy) && h.fn.foldedOn.isNone && h.waitsNow && h.settled

/-- The youngest of some holders. -/
def youngest (l : List Holder) : Option Holder :=
  l.foldl (fun b h => match b with
    | some y => if y.id.pseq < h.id.pseq then some h else b
    | none => some h) none

/-- The blocked instances on a die that meet a condition. -/
def blockedOn (s : State) (d : Nat) (p : Holder → Bool) : List Holder :=
  (s.hold.map (·.2)).filter fun h => h.id.die == d && h.blocked && p h

/-- Rack a holder (R342); when its frames cannot be had, RACKFAIL is posted and it stays. -/
def rackOr (s : State) (h : Holder) (life : Life) : State × Bool :=
  match rack s h 0 life with
  | some s => (s, true)
  | none => (postFault s h.id.pid (h.id.record cRACKFAIL 0 0 0), false)

/-! ## Fold (R341) -/

/-- The conditions of a fold. -/
def foldOk (s : State) (caller callee : Holder) (sptop : Nat) : Bool :=
  let i := caller.id
  modeBit i.mode 3 && i.kind != .named && caller.fn.foldedOn.isNone && !caller.fn.keepsp &&
  callee.id.w ≤ i.w && callee.id.h ≤ i.h && rectAll s i.die i.col i.row callee.id.w callee.id.h (fun e => e.meets callee.id.cls) &&
  sptop ≤ 0xE0000

/-- The frames for the shares that do not fit their save areas, for each holder that is frozen. -/
def foldTake : State → List Holder → Option (List (Holder × List Nat) × State)
  | s, [] => some ([], s)
  | s, h :: t =>
    match poolTakeN s h.id.pid (foldPlan h).length with
    | none => none
    | some (fs, s) => match foldTake s t with
      | none => none
      | some (l, s) => some ((h, fs) :: l, s)

/-- Tokens that a freeze scans out are withheld no more. -/
def dropTokens (s : State) (inst : Nat) : State :=
  s.modPkg fun p => { p with withheld := p.withheld.filter fun x => x.who != .holder inst || x.copy.isSome }

/-- Freeze one holder into its save areas. -/
def foldOne (s : State) (h : Holder) (fs : List Nat) : State :=
  let cells := rect h.id.col h.id.row h.id.w h.id.h
  let s := (s.modMem (foldWrite { h with th := h.th.saved } fs)).spoil s (frameLines fs)
  let s := cells.foldl (fun s c => s.setArea h.id.die c { s.area h.id.die c with fold := true }) s
  let s := dropTokens (releaseAllCharges s h) h.id.inst
  s.modH h.id.inst fun h => { h with id := { h.id with life := .folded }, th := h.th.saved, saved := { h.saved with foldFrames := fs } }

/-- Step 4 of R338: the caller is frozen, with its gang if it is a member (R418), and the callee claimed on its cells; none when a
condition fails or the frames cannot be had. -/
def tryFold (s : State) (caller callee : Holder) (sptop : Nat) : Option State :=
  if !foldOk s caller callee sptop then none
  else match foldTake s (foldGroup s caller) with
    | none => none
    | some (l, s) =>
      let s := l.foldl (fun s (h, fs) => foldOne s h fs) s
      let i := caller.id
      let s := (rect i.col i.row callee.id.w callee.id.h).foldl (fun s c => s.setArea i.die c { s.area i.die c with owner := callee.id.inst }) s
      let n := s.pkg.pseq
      let mode := match s.ctx? callee.id.pid with | some x => x.mode | none => callee.id.mode
      let s := s.modH callee.id.inst fun h => { h with
        id := { h.id with die := i.die, col := i.col, row := i.row, life := .loading, mode := mode, pseq := n }
        fn := { h.fn with foldedOn := some i.inst } }
      some (shapeUse (s.modPkg fun p => { p with pseq := n + 1 }) callee true)

/-! ## Placing a callee -/

/-- A new INST (R123): one that no live instance or residency has. -/
def State.newInst (s : State) : Nat × State :=
  let i := freeNumber s.pkg.nextInst s.hold.length fun k => (s.h? k).isSome
  (i, s.modPkg fun p => { p with nextInst := i + 1 })

/-- A request joins the placement queue of a die (R343). -/
def enqueue (s : State) (d : Nat) (r : PlaceReq) : State := s.modP d fun p => { p with queue := p.queue ++ [r] }

/-- Rack one blocked instance of a die that meets a condition, youngest first; one whose racking fails is passed over (R342). -/
def rackYoungest (s : State) (cand : State → List Holder) : Nat → List Nat → State
  | 0, _ => s
  | fuel + 1, tried =>
    match youngest ((cand s).filter fun h => !tried.contains h.id.inst) with
    | none => s
    | some h => match rackOr s h .racked with
      | (s, true) => s
      | (s, false) => rackYoungest s cand fuel (h.id.inst :: tried)

/-! ## What the placement queue leaves (R343) -/

/-- The search of a CALL's request: the ring at the caller's origin, its die, and other dies under P3EN. -/
def serveWhere (s : State) (d : Nat) (c k : Holder) : Option (Nat × Nat × Nat) :=
  let q : Want := { wantOf c k.id.w k.id.h k.id.cls with die := d, p2 := true }
  if c.id.die == d then q.find s else q.scan s d <|> (if q.p3 then firstSome (q.near s) (q.scan s) else none)

/-- Where a saved image fits (R425): its old origin, its die, then other dies of DIEMASK. -/
def imageWhere (s : State) (b : HolderId) : Option (Nat × Nat × Nat) :=
  let q : Want := { die := b.die, w := b.w, h := b.h, cls := b.cls, mask := b.dieMask }
  (if rectAll s b.die b.col b.row b.w b.h fun e => e.claimable b.cls then some (b.die, b.col, b.row) else none) <|>
    q.scan s b.die <|> firstSome q.others (q.scan s)

/-- The holder whose region a saved image takes: a folded callee is restored with its frozen caller (R342). -/
def imageBase (s : State) (h : Holder) : Holder := (h.fn.foldedOn.bind s.h?).getD h

/-- A racked caller's image waits while its CALL does: it continues after the CALL, and no waiting request holds cells (R342, R344,
log 26). -/
def Holder.calling (h : Holder) : Bool := match h.th.wait with | .call _ _ _ => true | _ => false

/-- The requests of a queue that may be placed now: once its head has been passed over by 64 later requests, only the head (R343). -/
def DiePlace.open_ (p : DiePlace) : List PlaceReq := if p.headBlock || 64 ≤ p.passed then p.queue.take 1 else p.queue

end Sys2Proof.Machine
end

