-- ==== Sys2Proof/Machine/Tasks.lean ====
section
/-! DEFINITION. Task control blocks, the ready pool, its overflow (R376 to R389), dispatch (R382 to R386) and task ends (R385). -/

namespace Sys2Proof.Machine

/-! ## Task control blocks (R376, R377) -/

/-- Fields of a TCB's 512 bits. -/
def tcbPred (v : Nat) : Nat := bits v 0 16
def tcbPrio (v : Nat) : Nat := bits v 16 3
def tcbKind (v : Nat) : Nat := bits v 24 2
def tcbSt (v : Nat) : Nat := bits v 32 3
def tcbDie (v : Nat) : Nat := bits v 37 2
def tcbPend (v : Nat) : Bool := bitAt v 39
def tcbNb (v : Nat) : Nat := bits v 40 8
def tcbCfgEp (v : Nat) : Nat := bits v 48 8
def tcbSucc (v : Nat) : Nat := bits v 64 64
def tcbNsucc (v : Nat) : Nat := bits v 128 16
def tcbNcfg (v : Nat) : Nat := bits v 144 16
def tcbFidx (v : Nat) : Nat := bits v 160 32
def tcbBtab (v : Nat) : Nat := bits v 192 64
def tcbCfgAddr (v : Nat) : Nat := bits v 256 64
def tcbCond (v : Nat) : Nat := bits v 320 64
def tcbLoopN (v : Nat) : Nat := bits v 384 32
def tcbPinit (v : Nat) : Nat := bits v 416 16

/-- A TCB at its home: its storage address and the state with any page copy made; none when it cannot be read and written there
(R302, R376). -/
def tcbHome (s : State) (pid t : Nat) : Option (Nat × State) :=
  match resolveVa s pid t true true with
  | .ok (p, s) => if (p.kind == 1 || p.kind == 2) && p.addr % 64 == 0 then some (p.addr, s) else none
  | .error _ => none

/-- A TCB's contents: none when unreachable or poisoned. -/
def tcbRead (s : State) (pid t : Nat) : Option (Nat × Nat × State) :=
  match tcbHome s pid t with
  | some (pa, s) => if s.physPoison pa == 0 then some (pa, (s.plainLine pa).toNat, s) else none
  | none => none

/-- The byte at 4 with a new STATE. -/
def stByte (v st : Nat) : Nat := bits v 35 5 * 8 + st

/-- Write STATE. -/
def tcbSetSt (s : State) (pa st : Nat) : State := s.physSetN (pa + 4) 1 (stByte (s.plainLine pa).toNat st)

/-- A TASKF record of a task with no region (R396). -/
def taskf (s : State) (pid d info addr : Nat) : State := postFault s pid ⟨cTASKF, info, d, 2, 0, addr, 0⟩

/-- A TCB is well formed (R377). -/
def tcbOk (s : State) (pid d v : Nat) : Bool :=
  let none_ : Bool := tcbFidx v == 0 && tcbNb v == 0 && tcbNcfg v == 0 && tcbCfgEp v == 0 && tcbBtab v == 0 && tcbCfgAddr v == 0
  bits v 19 5 == 0 && bits v 26 6 == 0 && bits v 35 2 == 0 && bits v 56 8 == 0 && bits v 432 16 == 0 &&
  tcbNb v ≤ 16 && tcbNsucc v ≤ 4096 && tcbNcfg v ≤ 4096 &&
  tcbSucc v % 8 == 0 && tcbBtab v % 32 == 0 && tcbCfgAddr v % 32 == 0 && tcbCond v % 8 == 0 &&
  (tcbNsucc v == 0 || tcbSucc v != 0) && (tcbNb v == 0 || tcbBtab v != 0) && (tcbNcfg v == 0 || tcbCfgAddr v != 0) &&
  (match tcbKind v with
   | 0 => (match readFt s pid d (tcbFidx v) with
      | .ok e => e.nargs == 0 || tcbBtab v != 0
      | .error _ => false) && tcbCond v == 0 && tcbLoopN v == 0
   | 1 => tcbNsucc v == 2 && tcbCond v != 0 && none_ && tcbLoopN v == 0
   | 2 => tcbNsucc v == 2 && none_
   | _ => 1 ≤ tcbNsucc v && tcbCond v != 0 && none_ && tcbLoopN v == 0)

/-! ## Enqueueing (R388, R389) -/

/-- PHEAD and PTAIL, 0 when the descriptor cannot be read. -/
def ovPhead (s : State) (pid d : Nat) : Nat := (word64 s pid (ovDesc d + 32)).getD 0
def ovPtail (s : State) (pid d : Nat) : Nat := (word64 s pid (ovDesc d + 40)).getD 0

/-- Write a word of the descriptor. -/
def ovSet (s : State) (pid d off v : Nat) : State :=
  hbmPut s pid (ovDesc d + off) v

/-- Entries in a ring. -/
def ovCount (r : Nat × Nat × Nat × Nat) : Nat := (r.2.2.2 + 2 ^ 64 - r.2.2.1) % 2 ^ 64

/-- The process's ring on a die holds records; of one that cannot be read, as HEAD and TAIL say, or as the device last left it where not
even those can be read (R389). -/
def ringHolds (s : State) (pid d : Nat) : Bool :=
  match ovRing s pid d with
  | some r => ovCount r != 0
  | none => match word64 s pid (ovDesc d + 16), word64 s pid (ovDesc d + 24) with
    | some hd, some tl => hd != tl
    | _, _ => (s.die d).p.ringed.contains pid

/-- Add a record to a ring (R388). -/
def ovPush (s : State) (pid d : Nat) (r : Nat × Nat × Nat × Nat) (t prio : Nat) : State :=
  let (b, l, _, tl) := r
  if hbmMay s pid (b + 8 * (tl % 2 ^ l)) then
    (ovSet (hbmPut s pid (b + 8 * (tl % 2 ^ l)) (t / 64 * 64 + prio)) pid d 24 ((tl + 1) % 2 ^ 64)).modP d fun p =>
      { p with ringed := p.ringed.filter (· != pid) ++ [pid] }
  else s

/-- Put a record in the pool (R381). -/
def poolPut (s : State) (pid d t prio : Nat) : State :=
  s.modP d fun p => { p with poolSeq := p.poolSeq + 1, pool := p.pool ++ [{ tcb := t, pid := pid, prio := prio, seq := (p.poolSeq + 1).toNat }] }

/-- Records of a process in the holding buffer of a die. -/
def inHolding (s : State) (pid d : Nat) : Bool := (s.die d).p.holding.any fun x => x.2.1 == pid

/-- Put a record in the holding buffer; the first time a process needs it while its ring is unusable, TASKF is posted (R389). -/
def holdingPut (s : State) (pid d t prio : Nat) : State :=
  let s := s.modP d fun p => { p with holding := p.holding ++ [(t, pid, prio)] }
  if (s.die d).p.badRings.any fun x => x.1 == pid then s
  else
    let s := s.modP d fun p => { p with badRings := p.badRings ++ [(pid, s.now d + usCycles)] }
    taskf s pid d 5 ((word64 s pid (ovDesc d)).getD 0)

/-- Hold a TCB in the hold chain (R389 step 4). A record whose TCB, or the last one of the chain, cannot be reached goes to the holding
buffer instead: no readiness is lost (log 17). -/
def holdChain (s : State) (pid d t prio : Nat) : State :=
  let lost := holdingPut s pid d t prio
  match tcbHome s pid t with
  | none => lost
  | some (pa, s) =>
    let s := (s.physSetN (pa + 4) 1 (bits (s.plainLine pa).toNat 32 7 + 128)).physSetN (pa + 56) 8 0
    if ovPhead s pid d == 0 then ovSet (ovSet s pid d 32 t) pid d 40 t
    else match tcbHome s pid (ovPtail s pid d) with
      | some (q, s) => ovSet (s.physSetN (q + 56) 8 t) pid d 40 t
      | none => lost

/-- Enqueue a ready TCB of a process on a die (R389): the pool, the ring, the holding buffer while the ring is unusable, the hold
chain; an earlier place is passed over while a later one holds a record of the process (log 17). -/
def enqueueTask (s : State) (pid d t prio : Nat) : State :=
  let chained : Bool := ovPhead s pid d != 0
  match ovRing s pid d with
  | some r =>
    if !chained && !inHolding s pid d && ovCount r == 0 && (s.die d).p.pool.length < 4096 then poolPut s pid d t prio
    else if !chained && !inHolding s pid d && ovCount r < 2 ^ r.2.1 then ovPush s pid d r t prio
    else holdChain s pid d t prio
  | none =>
    if !chained && !inHolding s pid d && !ringHolds s pid d && (s.die d).p.pool.length < 4096 then poolPut s pid d t prio
    else if (!chained && (s.die d).p.holding.length < 64) || !hbmMay s pid (ovDesc d + 40) then holdingPut s pid d t prio
    else holdChain s pid d t prio

/-- Processes whose rings on a die hold records. -/
def ringPids (s : State) (d : Nat) : List Nat :=
  (s.pkg.ctxs.map (·.1)).filter fun p => match ovRing s p d with | some r => ovCount r != 0 | none => false

/-- The ring to be served next, round-robin. -/
def ringNext (s : State) (d : Nat) : Option Nat :=
  let l := ringPids s d
  (l.find? fun p => (s.die d).p.ringTurn < p) <|> l.head?

/-- OVERFLOW_ADVANCE (R389): a record of a process moves forward one place: from its ring's head to the pool, from the holding
buffer or the hold chain's head to the ring. -/
def execOverflowAdvance (d pid : Nat) (s : State) : Out :=
  .next (match ovRing s pid d with
    | none => s
    | some r =>
      let (b, l, hd, _) := r
      if (s.die d).p.pool.length < 4096 && ringNext s d == some pid then
        match word64 s pid (b + 8 * (hd % 2 ^ l)) with
        | some e =>
          let s := ovSet s pid d 16 ((hd + 1) % 2 ^ 64)
          (poolPut s pid d (bits e 6 42 * 64) (bits e 0 3)).modP d fun p => { p with
            ringTurn := pid, ringed := if ovCount r == 1 then p.ringed.filter (· != pid) else p.ringed }
        | none => s
      else if ovCount r < 2 ^ l then
        match (s.die d).p.holding.find? fun x => x.2.1 == pid with
        | some x => ovPush (s.modP d fun p => { p with holding := p.holding.erase x }) pid d r x.1 x.2.2
        | none =>
          let t := ovPhead s pid d
          if t == 0 then s
          else match tcbHome s pid t with
            | none => s
            | some (pa, s) =>
              let v := (s.plainLine pa).toNat
              let next := bits v 448 64
              let s := s.physSetN (pa + 4) 1 (bits v 32 7)
              let s := ovSet s pid d 32 next
              let s := if next == 0 then ovSet s pid d 40 0 else s
              ovPush s pid d r t (tcbPrio v)
      else s)

/-- OVERFLOW_RING_RETRY (R389): an unusable ring is tried again every µs. -/
def execOverflowRingRetry (d pid : Nat) (s : State) : Out :=
  .next (match (s.die d).p.badRings.find? fun x => x.1 == pid with
    | none => s
    | some x =>
      if s.now d < x.2 then s
      else if (ovRing s pid d).isSome then s.modP d fun p => { p with badRings := p.badRings.erase x }
      else s.modP d fun p => { p with badRings := (p.badRings.erase x) ++ [(pid, s.now d + usCycles)] })

/-! ## Decrements and admission (R379, R380) -/

/-- What a decrement did: underflow, or whether it enqueued the TCB and its new PRED. -/
abbrev DecRes := Option (Bool × Nat)

/-- A decrement at the TCB's home (R379); none when it cannot be reached. -/
def tcbDec (s : State) (pid t : Nat) : Option (DecRes × State) :=
  match tcbHome s pid t with
  | none => none
  | some (pa, s) =>
    let v := (s.plainLine pa).toNat
    let n := tcbPred v
    if n == 0 then some (none, s)
    else
      let s := s.physSetN pa 2 (n - 1)
      if n == 1 && tcbSt v == 1 then some (some (true, 0), enqueueTask (tcbSetSt s pa 2) pid (tcbDie v) t (tcbPrio v))
      else some (some (false, n - 1), s)

/-- Admit one TCB (R380). -/
def admitOne (s : State) (pid d t : Nat) : State :=
  match tcbHome s pid t with
  | none => taskf s pid d 2 t
  | some (pa, s) =>
    let v := (s.plainLine pa).toNat
    if (tcbSt v != 0 && tcbSt v != 4) || !tcbOk s pid d v then taskf (tcbSetSt s pa 5) pid d 2 t
    else
      let put (s : State) (st : Nat) : State := s.physSetN (pa + 4) 1 (d * 32 + st)
      if tcbPred v == 0 then enqueueTask (put s 2) pid d t (tcbPrio v) else put s 1

/-- The check of every page of a run, in address order (R279, R390): the state with the copies that its copy-on-write pages need (R367), or
the first TCB that stands on a page admission may not use, or for which no frame is left. -/
def runPages (pid base : Nat) : Nat → State → Except Nat State
  | 0, s => .ok s
  | n + 1, s => match runPages pid base n s with
    | .error t => .error t
    | .ok s => match tcbHome s pid (base + 64 * n) with
      | none => .error (base + 64 * n)
      | some (_, s) => .ok s

/-- A Function Table entry that the check of a TCB of the run reads must only be waited for (R315, R377). -/
def runWaits (s : State) (pid d base n : Nat) : Bool :=
  ((List.range n).map fun i => base + 64 * i).any fun t => match tcbHome s pid t with
    | some (pa, s) => tcbKind (s.plainLine pa).toNat == 0 && ftWaits s pid d (tcbFidx (s.plainLine pa).toNat)
    | none => false

/-- Admit a run in address order (R380). -/
def admitRun (s : State) (pid d base : Nat) : Nat → State
  | 0 => s
  | n + 1 => admitRun (admitOne s pid d base) pid d (base + 64) n

/-! ## Signals at their home (R391) -/

/-- What an atomic on a signal word did: a chain word's is made once the store that was issued for it is done. -/
inductive SigRes where
  | done (s : State)
  | issued (id : Nat) (s : State)
  | unreachable
  | poisoned
  | busy

/-- Add to, or store, a 64-bit signal word at its home (R274, R378, R391); a chain word is changed at its head when the store path
reaches it. `chain` says whether a chain page is allowed. -/
def signalOp (s : State) (pid d : Nat) (a : Agent) (va v : Nat) (store chain : Bool) : SigRes :=
  match resolveVa s pid va true true with
  | .error _ => .unreachable
  | .ok (p, s) =>
    if va % 8 != 0 || (p.kind != 1 && p.kind != 2 && !(chain && p.kind == 4)) then .unreachable
    else if p.kind == 4 then
      let epoch := match a with
        | .holder i => (s.h? i).elim 0 (·.th.sys.pepoch.toNat)
        | _ => 0
      match issueStore s pid d { p.pending a .ct epoch 8 v with op := if store then .store else .add, va := va / 64 * 64 } with
      | some (id, s) => .issued id s
      | none => .busy
    else if poisonedAt (s.physPoison p.addr) (p.addr % 64) 8 then .poisoned
    else .done (wakeChanged s (s.physSetN p.addr 8 (if store then v % 2 ^ 64 else (s.physN p.addr 8 + v) % 2 ^ 64)) p)

/-! ## Successors (R378) -/

/-- Release entry `k` of a successor list (R378): a decrement, or a subtraction of 1 from a signal, with the number of the store of one that
has only issued; none while its store waits at its source (R313, R322), or its entry's line only waits (R315). -/
def releaseEntry (s : State) (pid d : Nat) (a : Agent) (succ k : Nat) : Option (Option Nat × State) :=
  let at_ := succ + 8 * k
  let bad := some (none, taskf s pid d 6 at_)
  if vaWaits s pid d at_ 8 then none
  else match readVa s pid d at_ 8 with
  | none => bad
  | some e =>
    if bits e 48 15 != 0 then bad
    else if bitAt e 63 then
      if bits e 0 3 != 0 then bad
      else match signalOp s pid d a (bits e 0 48) (2 ^ 64 - 1) false true with
        | .done s => some (none, s)
        | .issued id s => some (some id, s)
        | .busy => none
        | _ => bad
    else if bits e 0 6 != 0 then bad
    else some (none, match tcbDec s pid (bits e 0 48) with
      | none => taskf s pid d 6 at_
      | some (none, s) => taskf s pid d 1 (bits e 0 48)
      | some (some _, s) => s)

/-- A store of an agent is still to be done. -/
def State.storeOpen (s : State) (a : Agent) : Bool := s.pendings.any fun x => x.agent == a

/-- Release the first `n` entries of a list from `k` on, in order (R378), up to one that waits, or that waits for the subtraction before it:
the entry reached. -/
def releaseFrom (pid d : Nat) (a : Agent) (succ : Nat) : Nat → Nat → State → Nat × State
  | 0, k, s => (k, s)
  | n + 1, k, s =>
    if s.storeOpen a then (k, s)
    else match releaseEntry s pid d a succ k with
    | some (_, s) => releaseFrom pid d a succ n (k + 1) s
    | none => (k, s)

/-- The state of a task after its releases (R385 step 3). -/
def rearm (s : State) (pid t : Nat) : State :=
  match tcbHome s pid t with
  | none => s
  | some (pa, s) =>
    let v := (s.plainLine pa).toNat
    if tcbPinit v == 0 then tcbSetSt s pa 4
    else if tcbPred v == 0 then enqueueTask (tcbSetSt s pa 2) pid (tcbDie v) t (tcbPrio v)
    else tcbSetSt s pa 1

/-! ## Dispatch (R383, R384, R386) -/

/-- PRED = PINIT and STATE = RUN, in one step (R384). -/
def takeRun (s : State) (pa v : Nat) : State := tcbSetSt (s.physSetN pa 2 (tcbPinit v)) pa 3

/-- The next state of a control node that has released entry `k` (R385, R386). A loop that takes its exit is done. -/
def nodeEnd (s : State) (pid t pa v k : Nat) : State :=
  if tcbKind v == 2 && k == 1 then tcbSetSt (s.physSetN pa 2 0) pa 4 else rearm s pid t

/-- A control node goes on from entry `k` (R386): its release, unless that waits at its source, and, once it is made, its next state. -/
def nodeOn (s : State) (pid d t pa v k : Nat) : State :=
  match releaseEntry s pid d .host (tcbSucc v) k with
  | none => s.modP d fun p => { p with nodes := p.nodes ++ [{ pid := pid, tcb := t, entry := some k }] }
  | some (some id, s) => s.modP d fun p => { p with nodes := p.nodes ++ [{ pid := pid, tcb := t, entry := some k, store := some id }] }
  | some (none, s) => nodeEnd s pid t pa v k

/-- The entry a control node chooses for its word (R386). -/
def nodeEntry (v w : Nat) : Nat :=
  match tcbKind v with
  | 1 => if w != 0 then 0 else 1
  | 2 => if tcbLoopN v != 0 && w != 0 then 0 else 1
  | _ => min w (tcbNsucc v - 1)

/-- The evaluation of a control node that has been dispatched (R386). -/
def nodeEval (s : State) (pid d t pa v : Nat) : State :=
  if tcbCond v != 0 && vaWaits s pid d (tcbCond v) 8 then s.modP d fun p => { p with nodes := p.nodes ++ [{ pid := pid, tcb := t }] }
  else match (if tcbCond v == 0 then some 1 else readVa s pid d (tcbCond v) 8) with
    | none => taskf (tcbSetSt s pa 5) pid d 4 t
    | some w =>
      let k := nodeEntry v w
      nodeOn (if tcbKind v == 2 && k == 0 then s.physSetN (pa + 48) 4 (tcbLoopN v - 1) else s) pid d t pa v k

/-- Dispatch a control node: PRED is reloaded, and it is evaluated (R384, R386). -/
def evalNode (s : State) (pid d t pa v : Nat) : State := nodeEval (takeRun s pa v) pid d t pa v

/-- The control nodes of a die whose releases wait, or are not yet made, go on. -/
def nodesOn (s : State) (d : Nat) : State :=
  let l := (s.die d).p.nodes
  l.foldl (fun s x => match tcbHome s x.pid x.tcb with
    | none => taskf s x.pid d 8 x.tcb
    | some (pa, s) =>
      let v := (s.plainLine pa).toNat
      match x.entry, x.store with
      | some k, some id =>
        if s.pendings.any fun y => y.id == id then s.modP d fun p => { p with nodes := p.nodes ++ [x] } else nodeEnd s x.pid x.tcb pa v k
      | some k, none => nodeOn s x.pid d x.tcb pa v k
      | none, _ => nodeEval s x.pid d x.tcb pa v) (s.modP d fun p => { p with nodes := [] })

/-- The registers of a thread that starts at word 0 (R115). -/
def argRegs (args : List W64) : Regs :=
  { a := args.zipIdx.foldl (fun f (v, i) => f.setIfInBounds (i + 1) v) (Vector.replicate 32 0) }

/-- A thread at word 0 with its arguments (R42, R115). -/
def threadOf (code : List W32) (args : List W64) : Thread := { code := code, regs := argRegs args }

/-- Binding record `j` of a table: four words; none when unreadable or poisoned. -/
def bindRec (s : State) (pid d btab j : Nat) : Option (List Nat) :=
  (List.range 4).mapM fun k => readVa s pid d (btab + 32 * j + 8 * k) 8

/-- A binding record that BIND rejects (R278). -/
def badRec (r : List Nat) : Bool :=
  let w := r.getD 0 0
  1 < bits w 16 8 || bits w 24 8 != 0 || r.getD 3 0 != 0 || (bits w 16 8 == 0 && bits w 32 32 != 0)

/-- Read and check the binding records of a task from record `j` on, in order (R384): the records, or the status of the first that is
malformed (10) or cannot be read (11). -/
def taskRecs (s : State) (pid d btab : Nat) : Nat → Nat → Except Nat (List (List Nat))
  | 0, _ => .ok []
  | n + 1, j => match bindRec s pid d btab j with
    | none => .error 11
    | some r => if badRec r then .error 10 else (taskRecs s pid d btab n (j + 1)).map (r :: ·)

/-- Bind records one after another (R278): the first that is refused, with its status and number. -/
def bindAll (i : Nat) : State → Nat → List (List Nat) → Option (Nat × Nat) × State
  | s, _, [] => (none, s)
  | s, j, r :: t =>
    match s.h? i with
    | none => (none, s)
    | some h =>
      let w := r.getD 0 0
      match sbind s h (bits w 0 16) (r.getD 1 0) (r.getD 2 0) (bits w 16 8 == 1) (bits w 32 32) with
      | (0, s) => bindAll i s (j + 1) t
      | (e, s) => (some (e, j), s)

/-- Drop the bindings and queued frames of a holder that no phase has taken up (R278, R384). -/
def dropBindings (s : State) (i : Nat) : State :=
  match s.h? i with
  | none => s
  | some h => (releaseAllCharges s h).modH i fun h => { h with
      eps := h.eps.map fun e => { e with bind := none, scfg := [] }
      th := { h.th with sys := { h.th.sys with nbound := 0 } } }

/-- Queue frames at an endpoint as SCFG does; none where SCFG would trap (R233, R278). -/
def scfgAt (s : State) (i ep va n : Nat) : Option State :=
  match s.h? i with
  | none => none
  | some h =>
    if va % 32 != 0 || h.eps.length ≤ ep || (h.ep ep).gr.out || 4096 < (h.ep ep).queued + n || h.th.sys.run then none
    else some (s.modH i fun h => h.modEp ep fun x => { x with scfg := x.scfg ++ [(va, n)] })

/-- A task's region stays resident and idle (R24, R333), or is released where a waiting gang's plan takes a cell of it (R345). -/
def idleTask (s : State) (h : Holder) : State :=
  let s := releaseRegions s h
  let s := dropRefs (dropBindings s h.id.inst) h.id.inst
  let s := recovEnd s h
  let cells := rect h.id.col h.id.row h.id.w h.id.h
  if cells.any fun c => (wantedBy s h.id.die c).isSome then
    { releaseRect s h.id.die h.id.col h.id.row h.id.w h.id.h with hold := s.hold.del h.id.inst }
  else
    let s := cells.foldl (fun s c => s.setArea h.id.die c { s.area h.id.die c with st := 2, org := false }) s
    s.modH h.id.inst fun h => { h with
      id := { h.id with life := .resident }, regions := [], recvs := [], oflow := [], ports := List.replicate 16 {}, ev := {} }

/-- A task fails with its region idle (R384). -/
def failTask (s : State) (h : Holder) (info : Nat) : State :=
  let s := match tcbHome s h.id.pid h.fn.tcb with | some (pa, s) => tcbSetSt s pa 5 | none => s
  let s := postFault s h.id.pid (h.id.record cTASKF info h.fn.tcb 0)
  match s.h? h.id.inst with
  | some h => idleTask s h
  | none => s

/-- The reads at a task's start must only wait (R315). -/
def taskWaits (s : State) (pid d t nargs : Nat) : Bool :=
  match tcbRead s pid t with
  | some (_, v, s) => vaWaits s pid d (tcbBtab v) (32 * tcbNb v + 8 * nargs)
  | none => false

/-- A task whose image is on its region starts (R384): arguments, binding records, frames, the phase, the thread. -/
def startTask (s : State) (i : Nat) : State :=
  match s.h? i with
  | none => s
  | some h =>
    match tcbRead s h.id.pid h.fn.tcb with
    | none => failTask s h (3 + 11 * 16)
    | some (_, v, s) =>
      let pid := h.id.pid
      let d := h.id.die
      match (List.range h.fn.nargs).mapM fun k => readVa s pid d (tcbBtab v + 32 * tcbNb v + 8 * k) 8 with
      | none => failTask s h (3 + 11 * 16)
      | some args => match taskRecs s pid d (tcbBtab v) (tcbNb v) 0 with
        | .error e => failTask s h (3 + e * 16)
        | .ok rs =>
            let mode := match s.ctx? pid with | some c => c.mode | none => h.id.mode
            let s := s.modH i fun h => { h with
              id := { h.id with life := .placed, mode := mode }
              th := threadOf h.th.code (args.map (BitVec.ofNat 64 ·)) }
            match bindAll i s 0 rs with
            | (some (e, _), s) => failTask s h (3 + e * 16)
            | (none, s) =>
              match (if tcbNcfg v == 0 then some s else scfgAt s i (tcbCfgEp v) (tcbCfgAddr v) (tcbNcfg v)) with
              | none => failTask s h (3 + 9 * 16)
              | some s => if tcbNb v == 0 then s else s.modH i Holder.startPhase

/-- The holder of a task before it has a region. -/
def newTask (inst pid t d f : Nat) (e : FnEntry) : Holder :=
  { id := { inst := inst, pid := pid, kind := .task, die := d, w := e.w, h := e.h, cls := e.cls, life := .queued }
    fn := { fidx := f, nargs := e.nargs, nres := e.nres, keepsp := e.keepsp, digest := BitVec.ofNat 384 e.digest, cacheDie := d, tcb := t } }

/-- The idle residency that R383 step 1 offers. -/
def idleMatch (s : State) (d pid : Nat) (e : FnEntry) : Option Holder :=
  let l := (s.hold.map (·.2)).filter fun h => h.id.life == .resident && h.id.die == d && h.id.pid == pid && h.id.cls == e.cls &&
    h.fn.digest.toNat == e.digest
  l.foldl (fun b h => match b with
    | some y => if cellIndex h.id.col h.id.row < cellIndex y.id.col y.id.row then some h else b
    | none => some h) none

/-- Offer a normal task a region of its die in the order of R383; none when there is none. -/
def placeTask (s : State) (pid t d pa v : Nat) : Option State :=
  if ftWaits s pid d (tcbFidx v) then none else
  match readFt s pid d (tcbFidx v) with
  | .error _ => some (taskf (tcbSetSt (takeRun s pa v) pa 5) pid d 7 t)
  | .ok e =>
    match idleMatch s d pid e with
    | some r =>
      -- an idle region is taken in the step that reads the task's arguments and records
      if taskWaits s pid d t e.nargs then none else
      let (i, s) := (takeRun s pa v).newInst
      let n := newTask i pid t d (tcbFidx v) e
      let n : Holder := { n with
        id := { n.id with col := r.id.col, row := r.id.row, life := .placed }
        th := threadOf r.th.code [], eps := r.eps.map fun x => { gr := x.gr }, dp := r.dp }
      let s : State := { s with hold := (s.hold.del r.id.inst).put i n }
      let s := (rect r.id.col r.id.row r.id.w r.id.h).foldl (fun s c => s.setArea d c { s.area d c with
        st := 1, owner := i, org := c == cellIndex r.id.col r.id.row }) s
      some (startTask s i)
    | none =>
      let free := scanDie s d e.w e.h fun a => a.state == 0 && a.meets e.cls
      match free <|> (scanDie s d e.w e.h fun a => a.claimable e.cls) with
      | none => none
      | some (x, y) =>
        let (i, s) := (takeRun s pa v).newInst
        let s : State := { s with hold := s.hold.put i (newTask i pid t d (tcbFidx v) e) }
        some (startLoad s i d x y)

/-- Dispatch a TCB, if it can start now (R382 to R386). -/
def dispatch (s : State) (pid t d : Nat) : Option State :=
  match tcbRead s pid t with
  | none => some (taskf s pid d 8 t)
  | some (pa, v, s) => if tcbKind v == 0 then placeTask s pid t d pa v else some (evalNode s pid d t pa v)

/-- A request of a placement queue can be served now (R343). -/
def reqFits (s : State) (d : Nat) (r : PlaceReq) : Bool :=
  match r with
  | .call i => match s.h? i with
    | none => true
    | some k => match s.h? k.id.parent with
      | none => true
      | some c => (serveWhere s d c k).isSome
  | .image i => match s.h? i with
    | none => true
    | some h => !h.calling && ((imageBase s h).id.kind == .member || (imageWhere s (imageBase s h).id).isSome)
  | .task pid t _ _ => (dispatch s pid t d).isSome

/-- New CALLs and task dispatch are offered area of a die only when its queue leaves some: no request of it fits, and none is held back
behind its head (R343). -/
def queueLeaves (s : State) (d : Nat) : Bool :=
  let p := (s.die d).p
  p.queue.isEmpty || (!p.headBlock && p.passed < 64 && !p.queue.any (reqFits s d))

/-- Dispatch a TCB from the pool: a normal task is offered only what the placement queue leaves (R343). -/
def dispatchFresh (s : State) (pid t d : Nat) : Option State :=
  match tcbRead s pid t with
  | some (_, v, _) => if tcbKind v == 0 && !queueLeaves s d then none else dispatch s pid t d
  | none => dispatch s pid t d

/-- One entry comes before another: higher priority, then lower SEQ (R382). -/
def PoolEnt.before (a b : PoolEnt) : Bool := b.prio < a.prio || (a.prio == b.prio && a.seq < b.seq)

/-- Insert an entry in dispatch order. -/
def insertEnt (x : PoolEnt) : List PoolEnt → List PoolEnt
  | [] => [x]
  | y :: t => if x.before y then x :: y :: t else y :: insertEnt x t

/-- DISPATCH_DECISION (R382): control nodes whose releases waited go on; the first entry that can start is dispatched; every entry left behind gains 1 in AGE. -/
def execDispatchDecision (d : Nat) (s : State) : Out :=
  let s := nodesOn s d
  let order := (s.die d).p.pool.foldl (fun l x => insertEnt x l) []
  let older (l : List PoolEnt) : List PoolEnt := l.map fun x => { x with age := min (x.age + 1) 4096 }
  .next (match order.find? fun x => (dispatchFresh s x.pid x.tcb d).isSome with
    | none => s.modP d fun p => { p with pool := older p.pool }
    | some x =>
      let s1 := s.modP d fun p => { p with pool := older (p.pool.erase x) }
      (dispatchFresh s1 x.pid x.tcb d).getD s1)

/-- TASK_AGEING (R382): an entry whose AGE has reached 4,096 rises one level, or from priority 7 joins the placement queue. -/
def execTaskAgeing (d i : Nat) (s : State) : Out :=
  .next (match (s.die d).p.pool.drop i with
    | [] => s
    | x :: _ =>
      if x.age < 4096 then s
      else if x.prio < 7 then
        s.modP d fun p => { p with
          poolSeq := p.poolSeq + 1
          pool := p.pool.erase x ++ [{ x with prio := x.prio + 1, age := 0, seq := (p.poolSeq + 1).toNat }] }
      else s.modP d fun p => { p with pool := p.pool.erase x, queue := p.queue ++ [.task x.pid x.tcb x.prio x.seq] })

/-- Every write of a holder has been accepted by its path. -/
def allAccepted (s : State) (h : Holder) : Bool :=
  !(s.pendings.any fun x => x.agent == h.agent) && !(h.th.copies.any fun c => c.st == .busy)

/-- TASK_END (R385): its thread has halted and RUN = 0; its writes are accepted, its successors released, one after another, and once the
last release is made it is re-armed or done. -/
def execTaskEnd (i : Nat) (s : State) : Out :=
  .next (match s.h? i with
    | none => s
    | some h =>
      let d := h.id.die
      if h.id.kind != .task || h.id.life != .placed || !h.th.halted || h.th.sys.run || h.ev.draining || h.ev.rackBy.isSome ||
          (h.ev.released == 0 && !allAccepted s h) then s
      else match tcbRead s h.id.pid h.fn.tcb with
        | none =>
          let s := postFault s h.id.pid (h.id.record cTASKF 8 h.fn.tcb 0)
          idleTask s h
        | some (_, v, s') =>
          let (k, s) := releaseFrom h.id.pid d h.agent (tcbSucc v) (tcbNsucc v - h.ev.released) h.ev.released s'
          if k < tcbNsucc v || (0 < k && s.storeOpen h.agent) then s.modH i fun h => { h with ev := { h.ev with released := k } }
          else
            let s := rearm s h.id.pid h.fn.tcb
            match s.h? i with
            | some h => idleTask s h
            | none => s)

end Sys2Proof.Machine
end

