-- ==== Sys2Proof/Machine/Gangs.lean ====
section
/-! DEFINITION. Gang plans and reservations (R345, R346), placing a gang, and putting a saved image onto a region (R425). -/

namespace Sys2Proof.Machine

/-! ## Plans (R345) -/

/-- The first rectangle, in the order of claim step 2 over some dies, whose cells meet a condition and are not yet used. -/
def planOne (s : State) (dies : List Nat) (w h : Nat) (p : AreaEnt → Bool) (used : List Nat) : Option (Nat × Nat × Nat) :=
  if 32 < w || 16 < h || w == 0 || h == 0 then none else
  firstSome dies fun d => firstSome (List.range (33 - w)) fun c =>
    (firstBelow (17 - h) fun r => (rect c r w h).all fun x => p (s.area d x) && !used.contains (d * 512 + x)).map fun r => (d, c, r)

/-- Regions for `n` members, in member order. -/
def planAll (s : State) (dies : List Nat) (w h : Nat) (p : AreaEnt → Bool) : Nat → List Nat → Option (List (Nat × Nat × Nat))
  | 0, _ => some []
  | n + 1, used =>
    match planOne s dies w h p used with
    | none => none
    | some (d, c, r) => match planAll s dies w h p n (used ++ (rect c r w h).map fun x => d * 512 + x) with
      | none => none
      | some l => some ((d, c, r) :: l)

/-- The dies a gang may use, from a die on. -/
def gangDies (mask d : Nat) : List Nat :=
  if mask == 0 then [d] else ((List.range 4).map fun k => (d + k) % 4).filter fun e => bitAt mask e

/-- A cell of the first scan: not held by a placed gang member, not reserved by an older gang. -/
def planFree (s : State) (age cls : Nat) (e : AreaEnt) : Bool :=
  e.meets cls &&
  (match e.state with
   | 1 => match s.h? e.owner with | some h => h.id.kind != .member | none => true
   | 3 => match s.pkg.gangs.find e.owner with | some g => age ≤ g.age | none => true
   | 4 => false
   | _ => true)

/-- A gang's plan (R345): the first scan, or the second with every non-retired cell usable. -/
def planGang (s : State) (age mask d w h cls n : Nat) : Option (List (Nat × Nat × Nat)) :=
  planAll s (gangDies mask d) w h (planFree s age cls) n [] <|> planAll s (gangDies mask d) w h (fun e => e.meets cls) n []

/-- The next age of the package-wide counter. -/
def State.newAge (s : State) : Nat × State := (s.pkg.age, s.modPkg fun p => { p with age := p.age + 1 })

/-- A cell that an oldest waiting gang plans becomes RESERVED for it, when it is FREE or RESIDENT or reserved by a younger gang
(R345). -/
def reserveCell (s : State) (d c : Nat) : State :=
  match wantedBy s d c with
  | none => s
  | some (n, g) =>
    let e := s.area d c
    let put (s : State) : State := s.setArea d c { s.area d c with st := 3, pid := g.pid, owner := n, org := false }
    match e.state with
    | 0 => put s
    | 2 => put (evictAt s d c)
    | 3 => if e.owner == n then s else match s.pkg.gangs.find e.owner with
      | some y => if g.age < y.age then put s else s
      | none => put s
    | _ => s

/-- GANG_RESERVE (R345). -/
def execGangReserve (d cell : Nat) (s : State) : Out := .next (if cell < 512 then reserveCell s d cell else s)

/-- Every cell of a gang's plan, as (die, cell). -/
def planCells (s : State) (g : Gang) : List (Nat × Nat) := (List.range 4).flatMap fun d => (g.plannedOn s d).map fun c => (d, c)

/-- Reserve what a plan's cells offer. -/
def reservePlan (s : State) (n : Nat) : State :=
  match s.pkg.gangs.find n with
  | some g => (planCells s g).foldl (fun s (d, c) => reserveCell s d c) s
  | none => s

/-! ## Saved images onto regions (R425) -/

/-- The holder folded onto another. -/
def foldedOnto (s : State) (i : Nat) : Option Holder := ((s.hold.map (·.2)).find? fun h => h.fn.foldedOn == some i)

/-- Put a holder with a saved image onto a claimed region: it is restored, or stays frozen there under a folded callee, which is
restored with it (R342, R425). -/
def restoreOn (s : State) (i d c r : Nat) : State :=
  match s.h? i with
  | none => s
  | some h =>
    let s := claimRect s d c r h.id.w h.id.h h.id.pid i
    let frozen : Bool := h.id.life == .folded
    let s := s.modH i fun h => { h with id := { h.id with die := d, col := c, row := r, life := if frozen then .folded else .restoring } }
    if !frozen then s
    else
      let s := (rect c r h.id.w h.id.h).foldl (fun s x => s.setArea d x { s.area d x with fold := true }) s
      let s := match s.h? i with | some h => scratchBack s h.id h.saved | none => s
      let s := (returnFrames s h.id h.saved.frames).modH i fun h => { h with saved := { h.saved with frames := [], scratch := [], poison := [] } }
      match foldedOnto s i with
      | none => s
      | some k =>
        let s := (rect c r k.id.w k.id.h).foldl (fun s x => s.setArea d x { s.area d x with owner := k.id.inst }) s
        s.modH k.id.inst fun k => { k with id := { k.id with die := d, col := c, row := r, life := .restoring } }

/-- The restore of a racked gang first tries to place: it receives an age and a plan (R345). -/
def gangRestore (s : State) (n : Nat) : State :=
  match s.pkg.gangs.find n with
  | none => s
  | some g =>
    let ms := gangLive s g
    match ms.head?.bind s.h? with
    | none => s
    | some h =>
      let (age, s) := s.newAge
      let d := match g.packet with | some (d, _, _) => d | none => h.id.die
      match planGang s age g.dieMask d h.id.w h.id.h h.id.cls ms.length with
      | none => s
      | some plan =>
        let g : Gang := { g with members := ms, age := age, plan := plan, placed := false, restoring := true }
        reservePlan (s.modPkg fun p => { p with gangs := p.gangs.put n g }) n

/-- Place a gang whose plan is reserved: one update makes every cell HELD, and every member loads or is restored (R346). -/
def placeGang (s : State) (n : Nat) (g : Gang) : State :=
  let s := s.modPkg fun p => { p with gangs := p.gangs.modify n fun g => { g with placed := true, restoring := false, plan := [] } }
  (g.members.zip g.plan).foldl (fun s (m, d, c, r) => if g.restoring then restoreOn s m d c r else startLoad s m d c r) s

/-- The oldest waiting gang. -/
def oldestGang (s : State) : Option Nat :=
  (s.pkg.gangs.foldl (fun (b : Option (Nat × Gang)) e =>
    if e.2.placed then b else match b with
      | some y => if e.2.age < y.2.age then some e else b
      | none => some e) none).map (·.1)

/-- GANG_PLACE (R345, R346): a gang whose every planned cell is RESERVED for it is placed; otherwise a blocked instance that holds a
cell of the oldest waiting gang's plan is racked, youngest first (R342). -/
def execGangPlace (n : Nat) (s : State) : Out :=
  .next (match s.pkg.gangs.find n with
    | none => s
    | some g =>
      let cs := planCells s g
      if g.placed then s
      else if cs.all fun (d, c) => (s.area d c).state == 3 && (s.area d c).owner == n then placeGang s n g
      else if oldestGang s == some n then
        let own := (cs.filter fun (d, c) => (s.area d c).state == 1).map fun (d, c) => (s.area d c).owner
        rackYoungest s (fun s => (s.hold.map (·.2)).filter fun h => own.contains h.id.inst && h.blocked) s.hold.length []
      else s)

end Sys2Proof.Machine
end

