-- ==== Sys2Proof/Machine/Serve.lean ====
section
/-! DEFINITION. The end of a load (R104 to R106), the restore of an image (R425), and the placement queue (R343). -/

namespace Sys2Proof.Machine

/-! ## IMAGE_LOAD -/

/-- A region armed with the image at an address, or the report of the first failed check (R105). -/
def loadHolder (s : State) (h : Holder) (img : Nat) (eps : List Ep) : Except LoadReport Holder :=
  match readImage s h.id.pid h.id.die img h.id with
  | none => .error { row := h.id.row, col := h.id.col, die := h.id.die, cause := 1 }
  | some m =>
    let fs := m.frames.map frameOf
    let g : Holder := { h with eps := eps, dp := { cfg := fs, image := fs } }
    match loadCheck { g with id := { g.id with cls := m.cls } } m.frames m.edges with
    | some r => .error r
    | none => .ok { g with dp := g.armed fs, th := { h.th with code := m.code } }

/-- A callee's load ends (R106, R347): it is armed, linked to its caller and has its arguments, or its region is released. -/
def loadCallee (s : State) (h : Holder) : State :=
  let s := shapeUse s h false
  match loadHolder s h h.fn.image h.eps with
  | .error r =>
    removeHolder (completeCall (postLoad s h.id.pid h.id r) h.id.parent h.id.inst (BitVec.ofNat 64 (6 + r.cause * 256))) h
  | .ok g =>
    let s := s.setH h.id.inst { g with
      id := { g.id with life := .placed }
      th := threadOf g.th.code h.fn.args
      ports := listMod g.ports 15 fun _ => { st := .parent, peer := h.id.parent } }
    let s := s.modPort h.id.parent h.id.callerPort fun _ => { st := .child, peer := h.id.inst }
    completeCall s h.id.parent h.id.inst (BitVec.ofNat 64 (h.id.inst * 2 ^ 32))

/-- A mapping failure's report for a holder that has its region (R107). -/
def mapReport (h : HolderId) (cause edge : Nat) : LoadReport :=
  { edge := edge, row := h.row, col := h.col, die := h.die, cause := cause }

/-- What the load of a holder comes to: it goes on, fails with a report, or is armed. -/
inductive LoadRes where
  | wait (s : State)
  | fail (r : LoadReport) (s : State)
  | armed (h : Holder) (s : State)

/-- A holder whose image is still to be found looks it up: its stream starts, and counts in USE (R336, R384). -/
def findImage (s : State) (h : Holder) : LoadRes :=
  match readFt s h.id.pid h.id.die h.fn.fidx with
  | .error _ => .fail (mapReport h.id 9 0xFFFF) s
  | .ok e => match shapeFor s h.id.die h.id.pid h.fn.fidx e (1, h.id.inst) with
    | .wait s => .wait s
    | .fail c k s => .fail (mapReport h.id c k) s
    | .hit x s =>
      let g : Holder := { h with
        eps := x.eps.map fun r => { gr := r }
        fn := { h.fn with image := x.img, cacheDie := h.id.die, digest := x.digest, found := true } }
      .wait (shapeUse (s.setH h.id.inst g) g true)

/-- One move of a holder's load: its image is found, or has streamed in and is checked. -/
def loadRes (s : State) (h : Holder) : LoadRes :=
  if !h.fn.found then findImage s h
  else
    let s := shapeUse s h false
    match loadHolder s h h.fn.image h.eps with
    | .error r => .fail r s
    | .ok g => .armed g s

/-- A task's load goes on or ends (R384). -/
def loadTask (s : State) (h : Holder) : State :=
  match loadRes s h with
  | .wait s => s
  | .fail r s =>
    let s := postLoad s h.id.pid h.id r
    let s := match tcbHome s h.id.pid h.fn.tcb with | some (pa, s) => tcbSetSt s pa 5 | none => s
    removeHolder (postFault s h.id.pid (h.id.record cTASKF 7 h.fn.tcb 0)) h
  | .armed g s => startTask (s.setH h.id.inst { g with id := { g.id with life := .placed } }) h.id.inst

/-- Forget a named residency's name (R277). -/
def dropName (s : State) (h : Holder) : State :=
  s.modQ h.id.die fun q => { q with names := q.names.filter fun n => n.2.2 != h.id.inst }

/-- A named residency's load ends (R277): its thread runs, or its CFGLOAD fails. -/
def loadNamed (s : State) (h : Holder) : State :=
  match loadRes s h with
  | .wait s => s
  | .fail r s =>
    let s := removeHolder (dropName (postLoad s h.id.pid h.id r) h) h
    match h.fn.packet with
    | some (d, q, i) => packetFault s d q i cCFGFAIL 4 none
    | none => s
  | .armed g s => s.setH h.id.inst { g with id := { g.id with life := .placed }, th := threadOf g.th.code h.fn.args }

/-- Every member of a gang whose image is still to be found looks it up, or the first failure. -/
def findMembers : State → List Holder → LoadRes
  | s, [] => .wait s
  | s, h :: t =>
    if h.fn.found then findMembers s t
    else match findImage s h with
      | .wait s => findMembers s t
      | .fail r s => .fail r (postLoad s h.id.pid h.id r)
      | .armed _ s => .wait s

/-- Load every member of a gang, whose streams have ended, or find the first failure. -/
def loadMembers : State → List Holder → LoadRes
  | s, [] => .armed {} s
  | s, h :: t =>
    match loadHolder s h h.fn.image h.eps with
    | .error r => .fail r (postLoad s h.id.pid h.id r)
    | .ok g => loadMembers (s.setH h.id.inst { g with id := { g.id with life := .placed }, th := threadOf g.th.code h.fn.args }) t

/-- A gang's load ends (R346): all its members start, or every member's cells are released and the GLAUNCH fails. -/
def loadGang (s : State) (h : Holder) : State :=
  match s.pkg.gangs.find h.id.gang with
  | none => s
  | some g =>
    let ms := g.members.filterMap fun m => s.h? m
    if !ms.all fun m => m.id.life == .loading then s
    else
      let ready := ms.all fun m => m.fn.found
      let ended (s : State) : State := (g.members.filterMap fun m => s.h? m).foldl (fun s m => shapeUse s m false) s
      match (if ready then loadMembers (ended s) ms else findMembers s ms) with
      | .wait s' => s'
      | .armed _ s' => s'
      | .fail _ s' =>
        let s' := if ready then s' else ended s'
        let s : State := { s' with hold := s.hold }
        let s := s.modPkg fun p => { p with gangs := p.gangs.del h.id.gang }
        let s := ms.foldl (fun s m => removeHolder s m) s
        match g.packet with
        | some (d, q, i) => packetFault s d q i cCFGFAIL 4 none
        | none => s

/-- A read of the load must only wait (R315). -/
def loadWaits (s : State) (h : Holder) : Bool :=
  if h.id.kind != .callee && !h.fn.found then ftWaits s h.id.pid h.id.die h.fn.fidx
  else imageWaits s h.id.pid h.id.die h.fn.image || (h.id.kind == .task && taskWaits s h.id.pid h.id.die h.fn.tcb h.fn.nargs)

/-- IMAGE_LOAD (R104, R105): the stream of a claimed region has ended. -/
def execImageLoad (i : Nat) (s : State) : Out :=
  .next (match s.h? i with
    | none => s
    | some h =>
      if h.id.life != .loading || loadWaits s h then s
      else match h.id.kind with
        | .callee => loadCallee s h
        | .task => loadTask s h
        | .named => loadNamed s h
        | .member => loadGang s h)

/-! ## RESTORE -/

/-- A G binding is admitted again on its new route, or goes on as best effort with ADMLOST posted (R404). -/
def readmit (s : State) (i e : Nat) : State :=
  match s.h? i with
  | none => s
  | some h => match (h.ep e).bind with
    | none => s
    | some b =>
      if !b.g then s
      else
        let cs := chargesOf s h e b.base b.extent b.rate
        match takeCharges s cs with
        | some s => s.modH i fun h => h.modEp e fun x => { x with bind := some { b with charges := cs }, level := if x.live then max b.rate 64 else 0 }
        | none =>
          let s := s.modH i fun h => h.modEp e fun x => { x with bind := some { b with g := false, charges := [] }, admLost := true, level := 0 }
          postFault s h.id.pid ⟨cADMLOST, e, h.id.die, 7, i, 0, 0⟩

/-- The region as a restore leaves it: no translation is held, and no DMK of the drain is left (R357, R420). -/
def Holder.restored (h : Holder) : Holder :=
  { h with
    id := { h.id with life := .placed }
    saved := {}
    ev := { h.ev with draining := false, rackBy := none, dmkAt := none }
    eps := h.eps.map fun e => { e with dmkOut := false, more := false, sinkDmk := false }
    dp := { h.dp with cells := h.dp.cells.map fun x => { x with xlat := {}, ports := x.ports.map fun p => { p with dmk := 0 } } } }

/-- The cell of a region that a load report names, by its place in column-major order (R107, R434). -/
def LoadReport.cellOf (r : LoadReport) (h : HolderId) : Nat := (r.col - h.col) * h.h + (r.row - h.row)

/-- The holder with CONFIG streamed from its stored image: the frames up to the one with LAST, and the code words behind them (R103, R423,
R425). A fold's image, which its cells keep, holds the frames in force (R341). -/
def configBack (s : State) (h : Holder) : Holder :=
  if h.saved.frames.isEmpty then h
  else
    let rd := imageByte s h.saved.frames
    let o := readLE rd 100 4
    let size := readLE rd 104 8
    let raw := (List.range (size / 32)).map fun i => readLE rd (o + 32 * i) 32
    let n := ((raw.findIdx? fun f => bitAt f 235).getD (raw.length - 1)) + 1
    { h with
      dp := { h.dp with cfg := (raw.take n).map frameOf }
      th := { h.th with code := (List.range ((size - 32 * n) / 4)).map fun i => BitVec.ofNat 32 (readLE rd (o + 32 * n + 4 * i) 4) } }

/-- RESTORE (R425, R341): CONFIG is streamed and checked, the image is put back, its frames return and its G bindings are admitted again. -/
def execRestore (i : Nat) (s : State) : Out :=
  .next (match s.h? i with
    | none => s
    | some h =>
      if h.id.life != .restoring then s
      else
        let h := configBack s h
        match loadCheck h (h.dp.cfg.map frameNum) [] with
        | some r => killRegion s h rLOAD (r.cellOf h.id)
        | none =>
        let s := s.setH i h
        let s := if h.saved.frames.isEmpty then s else
          (scratchBack s h.id h.saved).modH i fun x => { x with dp := { x.dp with cells := imageCells s h } }
        let s := returnFrames s h.id (h.saved.frames ++ h.saved.foldFrames)
        let s := s.modH i Holder.restored
        (List.range h.eps.length).foldl (fun s e => readmit s i e) s)

/-! ## The placement queue (R343) -/

/-- Serve a CALL's request. -/
def serveCall (s : State) (d i : Nat) : State :=
  match s.h? i with
  | none => s
  | some k => match s.h? k.id.parent with
    | none => s
    | some c => match serveWhere s d c k with
      | some (e, x, y) => startLoad s i e x y
      | none => s

/-- Serve a saved image (R425); a gang is restored whole under R345. -/
def serveImage (s : State) (i : Nat) : State :=
  match s.h? i with
  | none => s
  | some h =>
    let b := (imageBase s h).id
    if b.kind == .member then gangRestore s b.gang
    else match imageWhere s b with
      | some (d, x, y) => restoreOn s b.inst d x y
      | none => s

/-- Serve a request that fits. -/
def serveReq (s : State) (d : Nat) (r : PlaceReq) : State :=
  match r with
  | .call i => serveCall s d i
  | .image i => serveImage s i
  | .task pid t _ _ => (dispatch s pid t d).getD s

/-- The head of a queue is the image of a caller whose CALL still waits, and a region for it exists: nothing is racked for it (R343, log
26). -/
def headFits (s : State) (r : PlaceReq) : Bool :=
  match r with
  | .image i => match s.h? i with
    | some h => h.calling && (imageBase s h).id.kind != .member && (imageWhere s (imageBase s h).id).isSome
    | none => false
  | _ => false

/-- PLACEMENT_QUEUE_SERVE (R343): the first request that fits is placed, counting a pass over the head; with none, a blocked
instance of the die is racked. -/
def execPlacementQueueServe (d : Nat) (s : State) : Out :=
  let p := (s.die d).p
  .next (match p.open_.findIdx? (reqFits s d) with
    | some k =>
      let s' := s.modP d fun p => { p with
        queue := listDel p.queue k, passed := if k == 0 then 0 else p.passed + 1, headBlock := if k == 0 then false else p.headBlock }
      match p.queue.drop k with
      | r :: _ => serveReq s' d r
      | [] => s
    | none => if p.queue.isEmpty || p.queue.head?.any (headFits s) then s else rackYoungest s (fun s => blockedOn s d fun _ => true) s.hold.length [])

/-- PLACEMENT_HEAD_BLOCK (R343): once the head has been passed over by 64 later requests, later requests wait. -/
def execPlacementHeadBlock (d : Nat) (s : State) : Out :=
  .next (if 64 ≤ (s.die d).p.passed && !(s.die d).p.queue.isEmpty then s.modP d fun p => { p with headBlock := true } else s)

end Sys2Proof.Machine
end

