-- ==== Sys2Proof/Machine/Order.lean ====
section
/-! DEFINITION. XFENCE (R299), ACQ and REL of sync objects (R303 to R305), PBAR and PSYNC (R327). -/

namespace Sys2Proof.Machine

/-- A store of a class that a mask names (R86). -/
def Pending.named (mask : BitVec 6) (x : Pending) : Bool := maskHas mask x.cls

/-- XFENCE (R299): waits until every access on a named class that precedes it is accepted: CT stores, and those that a copy left when
it failed. Accesses of an ended phase and of a finished copy have been (R232, R259). Reads of the named classes that follow miss no write of a named class that precedes, and none at all under HX, whose host
writes they must find (R295); OPEN is cleared in every router entry (R258). -/
def execXfence (mask : BitVec 6) (s : State) : Out :=
  withMe s fun h =>
    if (writesOpen s h.agent).any (Pending.named mask) then s
    else (clearOpen (s.order h (readers.filter (maskHas mask)) fun x => x.before && (maskHas mask x.cls || mask.getLsbD 4)) fun _ => true).retire id

/-- The fields of a sync object are well formed (R303). -/
def syncOk (l : Nat) : Bool :=
  let ctrl := bits l 64 64
  let nr := bits ctrl 3 3
  bits ctrl 0 3 ≤ 4 && nr ≤ 4 && bits ctrl 6 58 == 0 &&
  (List.range 4).all fun i =>
    let r := bits l (128 + 64 * i) 64
    if i < nr then bits r 48 16 == 0 && bits r 0 16 != 0 else r == 0

/-- The checks of R304 on a sync object, in their order: its place, the state with any page copy made, and its line. -/
def syncObject (s : State) (h : Holder) (a : W64) (scope : Nat) (wr : Bool) : Except AccErr (Place × Nat × State) := do
  if a.toNat % 64 != 0 then .error (.trap cALIGN 0)
  else if offPage a then .error (.trap cSYNC 3)
  else
    let (p, s) ← ctPlace s h a 64 (!wr) wr
    if p.kind == 3 then .error (.trap cSYNC 3)
    else if s.ownPending h.agent p || !bestGoes s h 0 wr p then .error .wait
    else match s.lineAt h.id.die p with
      | none => .error .wait
      | some (v, psn) =>
        if poisonedAt psn 8 48 then .error (.trap cPOISON 0)
        else if !syncOk v.toNat then .error (.trap cSYNC 2)
        else if bits v.toNat 64 3 != scope then .error (.trap cSYNC 1)
        else .ok (p, v.toNat, s)

/-- The dies within a scope for an agent (R303, R304): for a gang, those where its members run. -/
def scopeDies (s : State) (h : Holder) (scope : Nat) (d : Nat) : Bool :=
  match scope with
  | 0 | 2 => d == h.id.die
  | 1 => d == h.id.die || s.hold.any fun e => h.id.gang != 0xFFFFFFFF && e.2.id.gang == h.id.gang && e.2.id.die == d
  | _ => true

/-- The virtual address `va` lies in the bound data of a sync object (R303). -/
def boundData (l va : Nat) : Bool :=
  (List.range (bits (bits l 64 64) 3 3)).any fun i =>
    let r := bits l (128 + 64 * i) 64
    bits r 16 32 * 65536 ≤ va && va < bits r 16 32 * 65536 + bits r 0 16 * 65536

/-- ACQ (R304). The holder's reads of bound data that follow miss no write of its own that stands there (R305). -/
def execAcq (a : Reg) (scope : Fin 8) (s : State) : Out :=
  withMe s fun h =>
    let addr := h.th.a a
    accEnd s addr (do
      let (p, l, s) ← syncObject s h addr scope.val false
      .ok ((clearOpen ((bestWent s h 0 false p).order h readers fun x => x.va.isNone || x.va.any (boundData l)) (scopeDies s h scope.val)).retire id))

/-- REL (R304): waits until the agent's writes to the bound data that precede it are accepted, then adds 1 to GEN at the object's
home. -/
def execRel (a : Reg) (scope : Fin 8) (s : State) : Out :=
  withMe s fun h =>
    let addr := h.th.a a
    match h.th.wait with
    | .stored _ => s.retire id
    | .store _ => s
    | .poisoned => trap s false cPOISON 0 addr
    | _ => accEnd s addr (do
      let (p, v, s') ← syncObject s h addr scope.val true
      if (writesOpen s h.agent).any fun x => boundData v x.va then .error .wait
      else if p.kind == 4 then
        let gp : Place := { p with addr := p.addr + 48 }
        match issueStore s' h.id.pid h.id.die { gp.pending h.agent .ct h.th.sys.pepoch.toNat 8 1 with
            op := .add, ret := .thread, va := addr.toNat } with
        | some (id, s) => .ok ((bestWent s h 0 true p).modThOf h.id.inst fun t => { t with wait := .store id })
        | none => .error .wait
      else
        let gen := (bits v 384 64 + 1) % 2 ^ 64
        .ok ((bestWent (s'.writeAs h .ct (some addr.toNat) none p (byteMask 48 8) (lineOf 48 gen) 0) h 0 true p).retire id))

/-- A pending durable store comes to belong to the epoch after a PBAR unless the PBAR names its class and the store precedes it
(R324). Stores of a running phase or of a busy copy do not precede it (R298). -/
def afterPbar (a : Agent) (mask : BitVec 6) (x : Pending) : Pending :=
  if x.agent == a && !(x.before && x.named mask) then { x with epoch := x.epoch + 1 } else x

/-- PBAR (R327): PEPOCH gains 1; under PERSIST strict later CT loads wait. -/
def execPbar (mask : BitVec 6) (s : State) : Out :=
  withMe s fun h =>
    let s : State := { s with dies := s.dies.map fun (d : Die) => { d with m := { d.m with pend := d.m.pend.map (afterPbar h.agent mask) } } }
    let s := s.retire fun t => { t with
      sys := { t.sys with pepoch := t.sys.pepoch + 1 }
      loadBar := if modeBit h.id.mode 21 then t.loadBar else t.sys.pepoch.toNat + 1 }
    recovUpdate s h.id.inst

/-- PSYNC (R327): waits until the durable stores that precede it on the named classes are durable. -/
def execPsync (mask : BitVec 6) (s : State) : Out :=
  withMe s fun h =>
    if (durablePending s h.agent).any fun x => x.before && x.named mask then s
    else s.retire id

end Sys2Proof.Machine
end

