-- ==== Sys2Proof/Machine/Signals.lean ====
section
/-! DEFINITION. TSUB and TDEC (R390), SIGADD (R392) and SIGWAIT (R393). -/

namespace Sys2Proof.Machine

/-- TSUB (R390): it waits for its writes and while the process holds a TCB on the die. -/
def execTsub (f : S2) (s : State) : Out :=
  withMe s fun h =>
    let a := (h.th.a f.a).toNat
    let done (s : State) (v : Nat) : State := s.retire fun t => t.setA f.d (BitVec.ofNat 64 v)
    let base := bits a 6 42 * 64
    let n := bits a 48 12 + 1
    if bits a 60 4 != 0 || bits a 0 6 != 0 then done s 1
    else if !writesAccepted s h then s
    else match runPages h.id.pid base n s with
    | .error _ => done s 2
    | .ok s' =>
      if runWaits s h.id.pid h.id.die base n then s
      else if ovPhead s h.id.pid h.id.die != 0 then s
      else done (admitRun s' h.id.pid h.id.die base n) (n * 2 ^ 32)

/-- TDEC (R390). -/
def execTdec (f : S2) (s : State) : Out :=
  withMe s fun h =>
    let a := (h.th.a f.a).toNat
    let done (s : State) (v : Nat) : State := s.retire fun t => t.setA f.d (BitVec.ofNat 64 v)
    if bits a 48 16 != 0 || bits a 0 6 != 0 then done s 1
    else if !writesAccepted s h then s
    else match tcbDec s h.id.pid a with
      | none => done s 2
      | some (none, s) => done s 3
      | some (some (q, n), s) => done s (b2n q * 2 ^ 8 + n * 2 ^ 32)

/-- The checks of SIGADD and SIGWAIT on an address, in their order, and the signal's place (R392, R393). -/
def sigPlace (s : State) (h : Holder) (a : W64) (wr : Bool) : Except AccErr (Place × State) :=
  if a.toNat % 8 != 0 then .error (.trap cALIGN 0)
  else if offPage a then .error (.trap cSIGNAL 3)
  else match ctPlace s h a 8 (!wr) wr with
    | .error e => .error e
    | .ok (p, s) => if p.kind == 3 then .error (.trap cSIGNAL 3) else .ok (p, s)

/-- The die at which a signal word is read: its home, which is the head's for a word of a chain (R302, R314). -/
def sigHome (s : State) (h : Holder) (p : Place) : Nat := if p.kind == 4 then ((s.chain p.ch).link 0).die else h.id.die

/-- The signal word at its home; it waits or traps POISON otherwise. -/
def sigWord (s : State) (h : Holder) (p : Place) : Except AccErr Nat :=
  if s.ownPending h.agent p then .error .wait
  else match s.lineAt (sigHome s h p) p with
    | none => .error .wait
    | some (v, psn) =>
      if poisonedAt psn (p.addr % 64) 8 then .error (.trap cPOISON 0) else .ok (bits v.toNat (8 * (p.addr % 64)) 64)

/-- SIGADD (R392): a release; the add is made at the word's home. -/
def execSigadd (a b : Reg) (scope : Fin 8) (s : State) : Out :=
  let _ := scope
  withMe s fun h =>
    let addr := h.th.a a
    match h.th.wait with
    | .stored _ => s.retire id
    | .store _ => s
    | .poisoned => trap s false cPOISON 0 addr
    | _ => accEnd s addr (do
      let (p, s') ← sigPlace s h addr true
      if !writesAccepted s h || !bestGoes s' h 0 true p then .error .wait
      else
        let v := (h.th.a b).toNat
        if p.kind == 4 then
          match issueStore s' h.id.pid h.id.die { p.pending h.agent .ct h.th.sys.pepoch.toNat 8 v with
              op := .add, ret := .thread, va := addr.toNat / 64 * 64 } with
          | some (id, s) => .ok ((bestWent s h 0 true p).modThOf h.id.inst fun t => { t with wait := .store id })
          | none => .error .wait
        else
          let w ← sigWord s' h p
          let t := wakeChanged s' (s'.writeAs h .ct (some (addr.toNat / 64 * 64)) none p (byteMask (p.addr % 64) 8)
            (lineOf (p.addr % 64) ((w + v) % 2 ^ 64)) 0) p
          .ok ((bestWent t h 0 true p).retire id))

/-- SIGWAIT (R393): an acquire. Until the condition holds it waits; its word becomes the thread's wake signal. -/
def execSigwait (f : S3) (scope : Fin 8) (s : State) : Out :=
  withMe s fun h =>
    let addr := h.th.a f.a
    let c := (h.th.a f.d).toNat
    if bits c 3 61 != 0 then trap s false cSIGNAL 1 addr
    else accEnd s addr (do
      let (p, s) ← sigPlace s h addr false
      let w ← sigWord s h p
      let v := BitVec.ofNat 64 w
      if !bestGoes s h 0 false p then .error .wait
      else if condHolds (bits c 0 2) v (h.th.a f.b) || bitAt c 2 then
        .ok ((clearOpen ((bestWent s h 0 false p).order h readers fun _ => true) (scopeDies s h scope.val)).retire fun t => { t.setA f.d v with wakeSig := some p.key })
      else .error .wait)

end Sys2Proof.Machine
end

