-- ==== Sys2Proof/Machine/Queues.lean ====
section
/-! DEFINITION. User-mode command queues: notify pages (R268, R269), packet starts and completions (R266 to R281), and the slots of the
Queue Sequencer (R282). -/

namespace Sys2Proof.Machine

/-! ## Queues and their gangs -/

/-- The queues of a die that have not been destroyed. -/
def liveQueues (s : State) (d : Nat) : List Queue := ((s.die d).q.queues.map (·.2)).filter fun q => !q.dead

/-- The gang a queue belongs to (R282): one of its process, or a gang of its own. -/
def Queue.key (q : Queue) : Nat × Nat := if q.gang == 0 then (0, q.qid) else (q.pid, q.gang)

/-- The members of a gang, in ascending QID. -/
def gangQueues (s : State) (d : Nat) (k : Nat × Nat) : List Queue := (liveQueues s d).filter fun q => q.key == k

/-- The record of a gang. -/
def gangRec (s : State) (d : Nat) (k : Nat × Nat) : QGang := (((s.die d).q.gangs.find? fun g => g.key == k)).getD { key := k }

/-- Replace the record of a gang; a gang that is unmapped and wants nothing keeps its times too. -/
def State.modGang (s : State) (d : Nat) (k : Nat × Nat) (f : QGang → QGang) : State :=
  s.modQ d fun q =>
    if q.gangs.any fun g => g.key == k then { q with gangs := q.gangs.map fun g => if g.key == k then f g else g }
    else { q with gangs := q.gangs ++ [f { key := k }] }

/-- Started packets of a queue that have neither completed nor failed. -/
def Queue.live (q : Queue) : List RunPkt := q.running.filter fun p => p.st != .faulted

/-- A queue has a packet running, a WAIT apart. -/
def Queue.busy (q : Queue) : Bool := q.live.any fun p => p.st != .waits

/-- A queue wants service (R282). -/
def Queue.wants (q : Queue) : Bool := q.st != .stopped && (q.w != q.rd || !q.live.isEmpty)

/-- A queue is idle (R282): a stopped one counts so whatever its indices hold. -/
def Queue.idle (q : Queue) : Bool := q.live.isEmpty && (q.st == .stopped || q.w == q.rd)

/-- Unmap a gang, every member in one step (R282). -/
def unmapGang (s : State) (d : Nat) (k : Nat × Nat) : State :=
  let s := (gangQueues s d k).foldl (fun s q => s.modQueue d q.qid fun q => { q with st := if q.st == .mapped then .unmapped else q.st }) s
  let s := (gangQueues s d k).foldl (fun s q => dropAhead s d q.qid) s
  s.modGang d k fun g => { g with mapped := false, idleAt := none }

/-- Slots taken on a die. -/
def slotsUsed (s : State) (d : Nat) : Nat :=
  (((s.die d).q.gangs.filter (·.mapped)).map fun g => (gangQueues s d g.key).length).sum

/-- GANG_MAP (R282): the gang of a queue takes a slot for every member in one step, or waits for slots. -/
def execGangMap (d qid : Nat) (s : State) : Out :=
  .next (match (s.die d).q.queues.find qid with
    | none => s
    | some q =>
      let k := q.key
      let ms := gangQueues s d k
      if q.dead || (gangRec s d k).mapped then s
      else if !ms.any Queue.wants then s.modGang d k fun g => { g with wantAt := none }
      else if slotsUsed s d + ms.length ≤ 128 then
        let s := ms.foldl (fun s q => s.modQueue d q.qid fun q => { q with st := if q.st == .stopped then .stopped else .mapped }) s
        s.modGang d k fun g => { g with mapped := true, wantAt := none, idleAt := none }
      else s.modGang d k fun g => { g with wantAt := some (g.wantAt.getD (s.now d)) })

/-- GANG_IDLE_UNMAP (R282): a gang whose members have all been idle for 100 µs is unmapped. -/
def execGangIdleUnmap (d qid : Nat) (s : State) : Out :=
  .next (match (s.die d).q.queues.find qid with
    | none => s
    | some q =>
      let k := q.key
      let g := gangRec s d k
      if q.dead || !g.mapped then s
      else if !(gangQueues s d k).all Queue.idle then s.modGang d k fun g => { g with idleAt := none }
      else match g.idleAt with
        | none => s.modGang d k fun g => { g with idleAt := some (s.now d) }
        | some t => if t + 100 * usCycles ≤ s.now d then unmapGang s d k else s)

/-- The mapped gang that has gone longest without starting a packet. DESIGN CHOICE (log 25): of two that have gone equally long, the one
whose record is older. -/
def longestMapped (s : State) (d : Nat) : Option QGang :=
  ((s.die d).q.gangs.filter (·.mapped)).foldl (fun b g => match b with
    | some y => if g.lastStart < y.lastStart then some g else b
    | none => some g) none

/-- A gang waits for slots: unmapped, with work, and too few of them free (R282). -/
def waitsForSlots (s : State) (d : Nat) (g : QGang) : Bool :=
  let ms := gangQueues s d g.key
  !g.mapped && ms.any Queue.wants && 128 < slotsUsed s d + ms.length

/-- A gang that wants nothing waits for no slots: its wait counts anew when work comes (R282). -/
def stir (s : State) (d : Nat) (k : Nat × Nat) : State :=
  if (gangQueues s d k).any Queue.wants then s else s.modGang d k fun g => { g with wantAt := none }

/-- SLOT_STARVATION_UNMAP (R282): while a gang has waited 250 µs for slots, the mapped gang that has gone longest without starting a
packet is unmapped every 250 µs, if it has no packet running. -/
def execSlotStarvationUnmap (d : Nat) (s : State) : Out :=
  let n := s.now d
  let due (t : Nat) : Bool := t + 250 * usCycles ≤ n
  .next (if !((s.die d).q.gangs.any fun g => waitsForSlots s d g && g.wantAt.any due) || !due (s.die d).q.starveAt then s
    else match longestMapped s d with
      | none => s
      | some g => if (gangQueues s d g.key).any Queue.busy then s
        else (unmapGang s d g.key).modQ d fun q => { q with starveAt := n })

/-! ## Notify pages -/

/-- The physical address of a notify page (R437). -/
def notifyPage (d page : Nat) : Nat := 0x400_0000_0000 + d * 2 ^ 24 + page * 4096

/-- The queue that a notify page serves. -/
def pageQueue (s : State) (d page : Nat) : Option Queue := (liveQueues s d).find? fun q => q.npage == notifyPage d page

/-- A write to the notify word (R269). An accepted write is an acquire for the packets it admits (R274). -/
def widxWrite (s : State) (d : Nat) (q : Queue) (v : W64) : State :=
  let n := 2 ^ q.log2s
  let delta := (v - q.w).toNat
  let span := (v - q.rd).toNat
  if 0 < delta && delta ≤ n && span ≤ n then
    let s := (stir s d q.key).modQueue d q.qid fun q => { q with w := v, admits := q.admits ++ [(v, s.now d)] }
    clearOpen (s.modGang d q.key fun g => { g with idleAt := none }) fun _ => true
  else if delta == 0 || 2 ^ 63 < delta || q.st == .stopped then s.modQueue d q.qid fun q => { q with ign := q.ign + 1 }
  else queueFault s d q.qid cQOVERRUN 0 v.toNat

/-- WIDX (R268, R269): a write into a notify page. -/
def execWidx (d page off len : Nat) (v : W64) (s : State) : Out :=
  .next (match pageQueue s d page with
    | none => s
    | some q =>
      if off == 0 && len == 8 then widxWrite s d q v
      else if off < 8 then s.modQueue d q.qid fun q => { q with ign := q.ign + 1 }
      else s)

/-- A read of a notify page's word (R268). -/
def notifyRead (q : Queue) (off : Nat) : Nat :=
  match off with
  | 0 => q.w.toNat
  | 8 => q.rd.toNat
  | 16 => q.ign.toNat
  | 24 => q.last.toNat * 2 ^ 8 + (match q.st with | .stopped => 0 | .unmapped => 1 | .mapped => 2)
  | _ => 0

/-! ## Reading packets -/

/-- Why a packet's access does not complete: its translation fails with an INFO of R364, its word is poisoned, its page is of a wrong
kind; or it waits. -/
inductive QErr where
  | held (va info : Nat)
  | poison (va : Nat)
  | kind (va : Nat)
  | wait
deriving DecidableEq, Repr

/-- Why a read of `n` bytes fails. -/
def qBad (s : State) (pid d va n : Nat) : QErr :=
  (firstSome (List.range n) fun i =>
    if (readVa s pid d (va + i) 1).isSome then none
    else match resolveVa s pid (va + i) true false with
      | .error e => some (.held (va + i) e)
      | .ok (p, _) => if (s.lineAt d p).isSome then some (.poison (va + i)) else none).getD .wait

/-- A page of local or interleaved HBM, as a ring or a signal needs it; or the error. -/
def qHbm (s : State) (pid va : Nat) (wr : Bool) : Option QErr :=
  match resolveVa s pid va true wr with
  | .error e => some (.held va e)
  | .ok (p, _) => if p.kind == 1 || p.kind == 2 then none else some (.kind va)

/-- An access of packet `i` of a queue fails (R281, R363): a translation fault is withheld, poison is INFO 4, and a wrong page has the
INFO of the access. -/
def qStop (s : State) (d : Nat) (q : Queue) (i code : Nat) (wr : Bool) (e : QErr) : State :=
  match e with
  | .held va info =>
    withhold s q.pid { who := .packet d q.qid i, va := va, read := !wr, write := wr, info := info, code := code, die := d } ⟨cXPEND, info, d, 4, q.qid, va, 0⟩
  | .poison va => packetFault s d q.qid i cQACCESS 4 (some va)
  | .kind va => packetFault s d q.qid i cQACCESS code (some va)
  | .wait => s

/-- An access of a packet is withheld. -/
def qHeld (s : State) (d qid i : Nat) : Bool := s.pkg.withheld.any fun x => x.who == .packet d qid i

/-- A packet's header fields (R265). -/
def pktType (h : Nat) : Nat := bits h 0 8
def pktV (h : Nat) : Bool := bitAt h 8
def pktBar (h : Nat) : Bool := bitAt h 9
def pktSig (h : Nat) : Bool := bitAt h 10

/-- Implicit BAR (R267). -/
def implicitBar (t : Nat) : Bool := t == 5 || t == 6

/-- The valid bit of packet `i` in its lap (R266). -/
def validBit (q : Queue) (i : Nat) : Bool := i / 2 ^ q.log2s % 2 == 0

/-- What stands at a queue's next packet. -/
inductive NextPkt where
  | none_
  | words (l : List Nat)
  | bad (e : QErr)
deriving DecidableEq, Repr

/-- The packet that a mapped queue would start, when one is admitted, valid and not held by a barrier (R266, R271, R273). -/
def nextPkt (s : State) (d : Nat) (q : Queue) : NextPkt :=
  let i := q.rd.toNat
  let a := q.packetAddr i
  if q.st != .mapped || q.w == q.rd then .none_
  else if qHeld s d q.qid i then .none_
  else match qHbm s q.pid a false with
    | some e => .bad e
    | none => match readNat s q.pid d a 8 with
      | none => match qBad s q.pid d a 8 with | .wait => .none_ | e => .bad e
      | some h =>
        if pktV h != validBit q i then .none_
        else if (pktBar h || implicitBar (pktType h)) && !q.live.isEmpty then .none_
        else match (List.range 8).mapM fun k => readNat s q.pid d (a + 8 * k) 8 with
          | some l => .words l
          | none => match qBad s q.pid d a 64 with | .wait => .none_ | e => .bad e

/-- Rotate a list to start after the elements that meet a condition. -/
def after {α : Type} (p : α → Bool) (l : List α) : List α := (l.filter fun x => !p x) ++ l.filter p

/-- The queue whose turn it is to start a packet (R282): mapped gangs round-robin, members in ascending QID; a queue that cannot start
passes. DESIGN CHOICE (log 25): the gangs take their turns in the order of process and gang number, which R282 does not name. -/
def turnOf (s : State) (d : Nat) : Option Nat :=
  let t := (s.die d).q.turn
  let le (a b : Nat × Nat) : Bool := a.1 < b.1 || (a.1 == b.1 && a.2 ≤ b.2)
  let ks := (((s.die d).q.gangs.filter (·.mapped)).map (·.key)).mergeSort le
  firstSome (after (fun k => le k t) ks) fun k =>
    let g := gangRec s d k
    ((after (fun q : Queue => q.qid ≤ g.turn) (gangQueues s d k)).find? fun q => nextPkt s d q != .none_).map (·.qid)

/-! ## Checks of packets (BADPKT of R281) -/

/-- Words `i` on to 6 of a packet are zero. -/
def zeroFrom (l : List Nat) (i : Nat) : Bool := ((l.take 7).drop i).all (· == 0)

/-- The body of a packet is well formed (R275 to R280). -/
def bodyOk (l : List Nat) : Bool :=
  let w (i : Nat) : Nat := l.getD i 0
  match pktType (w 0) with
  | 0 => zeroFrom l 1
  | 1 =>
    bits (w 3) 2 6 == 0 && bits (w 3) 24 40 == 0 && zeroFrom l 4 &&
    (if bitAt (w 3) 1 then bits (w 3) 8 8 ≤ 31 && bits (w 3) 16 8 ≤ 15 else bits (w 3) 8 16 == 0)
  | 2 =>
    1 ≤ bits (w 1) 32 8 && bits (w 1) 32 8 ≤ 16 && bits (w 1) 40 24 == 0 && w 2 % 32 == 0 && bits (w 4) 0 16 ≤ 4096 &&
    bits (w 4) 24 40 == 0 && zeroFrom l 5 && (bits (w 4) 0 16 != 0 || (w 3 == 0 && bits (w 4) 16 8 == 0))
  | 3 => w 1 % 64 == 0 && 1 ≤ bits (w 2) 0 16 && bits (w 2) 0 16 ≤ 4096 && bits (w 2) 16 48 == 0 && zeroFrom l 3
  | 4 => bits (w 3) 0 8 ≤ 1 && bits (w 3) 8 56 == 0 && zeroFrom l 4
  | 5 => bits (w 3) 0 8 ≤ 3 && bits (w 3) 8 24 == 0 && bits (w 3) 32 32 ≤ 10000000 && zeroFrom l 4
  | 6 => 1 ≤ w 1 && w 1 < 64 && zeroFrom l 2
  | 7 =>
    w 1 % 64 == 0 && w 2 % 64 == 0 && w 1 < 2 ^ 48 && w 2 < 2 ^ 48 && w 3 % 64 == 0 && 64 ≤ w 3 && w 3 ≤ 2 ^ 32 && zeroFrom l 4
  | 8 =>
    1 ≤ bits (w 1) 32 8 && bits (w 1) 32 8 ≤ 64 && bits (w 1) 44 20 == 0 && zeroFrom l 3
  | _ => false

/-- A packet is well formed (R265, R281). -/
def pktOk (l : List Nat) : Bool :=
  let h := l.getD 0 0
  bits h 32 32 == 0 && bits h 11 5 == 0 && pktSig h == (l.getD 7 0 != 0) && bodyOk l

/-! ## Packet work -/

/-- INFO of BADPKT: bits 9:0 of the slot. -/
def slotInfo (q : Queue) (i : Nat) : Nat := i % 2 ^ q.log2s % 1024

/-- Set how far a started packet has come. -/
def setPkt (s : State) (d qid i : Nat) (st : PktSt) : State := s.modPkt d qid i fun p => { p with st := st }

/-- An atomic of a packet on a signal word (R274, R275): performed, or its failure. -/
def qSignal (s : State) (d : Nat) (q : Queue) (i a v : Nat) (store : Bool) : Except QErr State :=
  match signalOp s q.pid d (.packet d q.qid i) a v store false with
  | .done s | .issued _ s => .ok s
  | .poisoned => .error (.poison a)
  | _ => .error (((if a % 8 != 0 then none else qHbm s q.pid a true)).getD (.kind a))

/-- A SIGNAL packet (R275). DESIGN CHOICE (log 42): an ADDR that is not 8-byte aligned, for which R275 names no cause, raises QACCESS, INFO 1,
as R274 gives it for SIGADDR. -/
def startSignal (s : State) (d : Nat) (q : Queue) (i : Nat) (l : List Nat) : State :=
  match qSignal s d q i (l.getD 1 0) (l.getD 2 0) (bits (l.getD 3 0) 0 8 == 1) with
  | .ok s => setPkt s d q.qid i .done
  | .error e => qStop s d q i 1 true e

/-- A queue's accesses wait for a walk of a granule that is missing (R357). -/
def Queue.miss (q : Queue) (s : State) (d : Nat) (vas : List Nat) : Option State :=
  s.missFor d q.pid q.qid missQueue (vas.map fun a => a % 2 ^ 48 / 65536)

/-- The word of a WAIT, or why it cannot be read. DESIGN CHOICE (log 42): a misaligned ADDR is a wrong page, QACCESS with INFO 1. -/
def waitWord (s : State) (q : Queue) (a : Nat) : Except QErr Nat :=
  if a % 8 != 0 then .error (.kind a)
  else match qHbm s q.pid a false with
    | some e => .error e
    | none => match word64 s q.pid a with
      | some v => .ok v
      | none => .error (.poison a)

/-- A queue's WAIT is over. -/
def endWait (s : State) (d qid : Nat) : State := s.modQueue d qid fun q => { q with wait := none }

/-- A test of a queue's WAIT (R275): it completes when its condition holds. -/
def waitTest (s : State) (d qid : Nat) : State :=
  match (s.die d).q.queues.find qid with
  | none => s
  | some q => match q.wait, q.running.find? fun p => p.st == .waits with
    | some x, some p =>
      if qHeld s d qid p.idx then s
      else match waitWord s q x.addr with
        | .ok v =>
          if x.hit || condHolds x.cond (BitVec.ofNat 64 v) x.value then clearOpen (setPkt (endWait s d qid) d qid p.idx .done) fun _ => true
          else s
        | .error (.held va e) => qStop s d q p.idx 1 false (.held va e)
        | .error e => qStop (endWait s d qid) d q p.idx 1 false e
    | _, _ => s

/-- A WAIT packet (R275). -/
def startWait (s : State) (d : Nat) (q : Queue) (i : Nat) (l : List Nat) : State :=
  let t := bits (l.getD 3 0) 32 32
  let x : WaitSt := { addr := l.getD 1 0, value := BitVec.ofNat 64 (l.getD 2 0), cond := bits (l.getD 3 0) 0 8
                      deadline := if t == 0 then none else some (s.now d + t * usCycles) }
  waitTest (setPkt (s.modQueue d q.qid fun q => { q with wait := some x }) d q.qid i .waits) d q.qid

/-- A packet's failure: an access with its code, or a cause and INFO at the packet's address. -/
inductive PktErr where
  | access (e : QErr)
  | cause (c info : Nat)
deriving DecidableEq, Repr

/-- The Function Table entry and arguments of a packet (R277, R280). -/
def pktFn (s : State) (d : Nat) (q : Queue) (f argp : Nat) (full : Bool) : Except PktErr (FnEntry × List W64) :=
  match readFt s q.pid d f with
  | .error none => .error (.cause cCFGFAIL 2)
  | .error (some a) => .error (.access (qBad s q.pid d a 96))
  | .ok e =>
    if (argp == 0) != (e.nargs == 0) then .error (.cause cCFGFAIL 3)
    else if full then .error (.cause cCFGFAIL 6)
    else match (List.range e.nargs).mapM fun k => readNat s q.pid d (argp + 8 * k) 8 with
      | some l => .ok (e, l.map (BitVec.ofNat 64))
      | none => .error (.access (qBad s q.pid d argp (8 * e.nargs)))

/-- A started packet cannot go on for now, or fails. -/
def pktStop (s : State) (d : Nat) (q : Queue) (i : Nat) (x : PktErr) : State :=
  match x with
  | .access e => qStop s d q i 2 false e
  | .cause c k => packetFault s d q.qid i c k none

/-- No region of the shape could ever be had (R277, R345): CFGFAIL 4, with a report of cause 13. -/
def pktNoArea (s : State) (d : Nat) (q : Queue) (i : Nat) : State :=
  let r : LoadReport := { cause := 13 }
  packetFault (postFault s q.pid ⟨cLOADCHK, 0, d, 4, q.qid, r.word, 0⟩) d q.qid i cCFGFAIL 4 none

/-- The residency of a name (R277). -/
def named (s : State) (d pid name : Nat) : Option Nat :=
  ((s.die d).q.names.find? fun n => n.1 == pid && n.2.1 == name).map (·.2.2)

/-- A holder that a packet launches (R115, R277, R280). -/
def launched (q : Queue) (d i inst f : Nat) (k : HolderKind) (e : FnEntry) (args : List W64) : Holder :=
  { id := { inst := inst, pid := q.pid, kind := k, die := d, w := e.w, h := e.h, cls := e.cls, life := .queued }
    fn := { fidx := f, nargs := e.nargs, nres := e.nres, keepsp := e.keepsp, digest := BitVec.ofNat 384 e.digest, args := args
            packet := some (d, q.qid, i) } }

/-- A CFGLOAD packet (R277). -/
def startCfgload (s : State) (d : Nat) (q : Queue) (i : Nat) (l : List Nat) : State :=
  let f := bits (l.getD 1 0) 0 32
  let name := bits (l.getD 1 0) 32 32
  let fl := l.getD 3 0
  if bitAt fl 0 then setPkt s d q.qid i .claim
  else if (named s d q.pid name).isSome then packetFault s d q.qid i cCFGFAIL 1 none
  else match pktFn s d q f (l.getD 2 0) (256 ≤ ((s.die d).q.names.filter fun n => n.1 == q.pid).length) with
    | .error x => pktStop s d q i x
    | .ok (e, args) =>
      let could : Bool := if bitAt fl 1 then rectAll s d (bits fl 8 8) (bits fl 16 8) e.w e.h fun x => x.meets e.cls
        else couldExist s d e.w e.h e.cls
      if !could then pktNoArea s d q i
      else
        let (inst, s) := s.newInst
        let h := launched q d i inst f .named e args
        let s : State := { s with hold := s.hold.put inst { h with fn := { h.fn with rname := name } } }
        let s := s.modQ d fun x => { x with names := x.names ++ [(q.pid, name, inst)] }
        setPkt s d q.qid i .claim

/-- A BIND packet (R278). -/
def startBind (s : State) (d : Nat) (q : Queue) (i : Nat) (l : List Nat) : State :=
  match named s d q.pid (bits (l.getD 1 0) 0 32) with
  | none => packetFault s d q.qid i cBINDFAIL 8 none
  | some inst =>
    let (t, s) := s.fresh
    setPkt s d q.qid i (.bindWait inst t)

/-- Admission of a GRAPH's run (R279, R389): it waits while the process holds a TCB on the die, or a line that its checks read only waits. -/
def graphOn (s : State) (d : Nat) (q : Queue) (i : Nat) (l : List Nat) : State :=
  let n := bits (l.getD 2 0) 0 16
  if ovPhead s q.pid d != 0 || runWaits s q.pid d (l.getD 1 0) n then setPkt s d q.qid i .admits
  else match runPages q.pid (l.getD 1 0) n s with
    | .error t => packetFault s d q.qid i cQACCESS 2 (some t)
    | .ok s => setPkt (admitRun s q.pid d (l.getD 1 0) n) d q.qid i .done

/-- A GRAPH packet (R279). -/
def startGraph (s : State) (d : Nat) (q : Queue) (i : Nat) (l : List Nat) : State :=
  match runPages q.pid (l.getD 1 0) (bits (l.getD 2 0) 0 16) s with
  | .error t => packetFault s d q.qid i cQACCESS 2 (some t)
  | .ok _ => graphOn s d q i l

/-- Create the members of a gang. -/
def newMembers (q : Queue) (d i f g mask : Nat) (e : FnEntry) (args : List W64) : Nat → Nat → State → State × List Nat
  | 0, _, s => (s, [])
  | n + 1, k, s =>
    let (inst, s) := s.newInst
    let h := launched q d i inst f .member e args
    let s : State := { s with hold := s.hold.put inst { h with id := { h.id with gang := g, mem := k, dieMask := mask } } }
    let (s, l) := newMembers q d i f g mask e args n (k + 1) s
    (s, inst :: l)

/-- A GLAUNCH packet (R280, R345). -/
def startGlaunch (s : State) (d : Nat) (q : Queue) (i : Nat) (l : List Nat) : State :=
  let f := bits (l.getD 1 0) 0 32
  let n := bits (l.getD 1 0) 32 8
  let mask := bits (l.getD 1 0) 40 4
  match pktFn s d q f (l.getD 2 0) false with
  | .error x => pktStop s d q i x
  | .ok (e, args) =>
    let (age, s') := s.newAge
    match planGang s' age mask d e.w e.h e.cls n with
    | none => pktNoArea s d q i
    | some plan =>
      let g := freeNumber s'.pkg.nextGang s'.pkg.gangs.length fun k => (s'.pkg.gangs.find k).isSome
      let s := s'.modPkg fun p => { p with nextGang := g + 1 }
      let dm := if mask == 0 then 2 ^ d else mask
      let (s, ms) := newMembers q d i f g dm e args n 0 s
      let x : Gang := { pid := q.pid, members := ms, dieMask := mask, age := age, plan := plan, packet := some (d, q.qid, i) }
      reservePlan ((s.modPkg fun p => { p with gangs := p.gangs.put g x }).modPkt d q.qid i fun p => { p with st := .gang g, gang := g }) g

/-- Stores of a queue's earlier packets on the classes of a mask are still to be accepted; of packets that have faulted too (R275, R281). -/
def packetStores (s : State) (d qid mask : Nat) : Bool :=
  s.pendings.any fun x => maskHas (BitVec.ofNat 6 mask) x.cls && (match x.agent with | .packet e q _ => e == d && q == qid | _ => false)

/-- The start of a well-formed packet by its type (R267). An XFENCE stands at its start until the stores that it waits for are accepted. -/
def startBody (s : State) (d : Nat) (q : Queue) (i : Nat) (l : List Nat) : State :=
  match pktType (l.getD 0 0) with
  | 1 => startCfgload s d q i l
  | 2 => startBind s d q i l
  | 3 => startGraph s d q i l
  | 4 => startSignal s d q i l
  | 5 => startWait s d q i l
  | 6 => if packetStores s d q.qid (bits (l.getD 1 0) 0 6) then s else clearOpen (setPkt s d q.qid i .done) fun _ => true
  | 7 => setPkt s d q.qid i (.copies 0)
  | 8 => startGlaunch s d q i l
  | _ => setPkt s d q.qid i .done

/-- A packet starts: RD gains 1, and failed packets are forgotten (R270, R281). -/
def startOn (s : State) (d : Nat) (q : Queue) (i : Nat) (l : List Nat) : State :=
  let s := s.modQueue d q.qid fun q =>
    { q.pass with
      running := q.live ++ [{ idx := i, words := l.map (BitVec.ofNat 64), st := .begins }] }
  (s.modGang d q.key fun g => { g with lastStart := s.now d, idleAt := none, turn := q.qid }).modQ d fun x => { x with turn := q.key }

/-- PACKET_START (R273, R282): the queue whose turn it is starts its next packet. -/
def execPacketStart (d qid : Nat) (s : State) : Out :=
  .next (match (s.die d).q.queues.find qid with
    | none => s
    | some q =>
      let i := q.rd.toNat
      if turnOf s d != some qid then s
      else match q.miss s d [q.packetAddr i] with
      | some s => s
      | none => match nextPkt s d q with
        | .none_ => s
        | .bad (.held va e) => qStop s d q i 0 false (.held va e)
        | .bad e => qStop (startOn s d q i []) d q i 0 false e
        | .words l => match q.miss s d (if pktType (l.getD 0 0) == 4 || pktType (l.getD 0 0) == 5 then [l.getD 1 0] else []) with
        | some s => s
        | none =>
          let s' := startOn (s.forgetWalks d qid missQueue) d q i l
          if !pktOk l then packetFault s' d qid i cBADPKT (slotInfo q i) none
          else startBody s' d q i l)

/-- PKTNV (R271): a packet still stale 64 µs after the accepted write that admitted it stops the queue. -/
def execPktnv (d qid : Nat) (s : State) : Out :=
  .next (match (s.die d).q.queues.find qid with
    | none => s
    | some q =>
      let i := q.rd.toNat
      let a := q.packetAddr i
      match q.admits with
      | [] => s
      | (_, t) :: _ =>
        if q.st != .mapped || q.w == q.rd || s.now d < t + 64 * usCycles then s
        else match word64 s q.pid a with
          | some h => if pktV h != validBit q i then queueFault s d qid cPKTNV (slotInfo q i) a else s
          | none => s)

/-- WAIT_TEST (R275): the word of a WAIT is tested again. -/
def execWaitTest (d qid : Nat) (s : State) : Out :=
  .next (match (s.die d).q.queues.find qid with
    | some q =>
      if q.st == .unmapped && !q.dead then s
      else match q.miss s d (q.wait.toList.map (·.addr)) with
      | some s => s
      | none => waitTest (s.forgetWalks d qid missQueue) d qid
    | none => s)

/-- WAITTMO (R275): a WAIT's timeout has expired, and no test has found its condition. -/
def execWaittmo (d qid : Nat) (s : State) : Out :=
  .next (match (s.die d).q.queues.find qid with
    | none => s
    | some q => match q.wait, q.running.find? fun p => p.st == .waits with
      | some x, some p =>
        if !x.hit && (q.st != .unmapped || q.dead) && x.deadline.any fun t => t ≤ s.now d then
          let s := (endWait s d qid).modPkg fun k => { k with withheld := k.withheld.filter fun y => y.who != .packet d qid p.idx }
          packetFault s d qid p.idx cWAITTMO 0 (some x.addr)
        else s
      | _, _ => s)

/-! ## CFGLOAD's claim -/

/-- A BIND's phase of a residency runs, in some queue of its die. -/
def bindRunning (s : State) (d inst : Nat) : Bool :=
  (s.die d).q.queues.any fun e => e.2.running.any fun p => p.st == .bindRuns inst

/-- CFGLOAD with RELEASE (R277): once the residency is idle its region is released and its name deleted; a CFGLOAD of it that is still
open fails. -/
def releaseNamed (s : State) (d : Nat) (q : Queue) (i name : Nat) : State :=
  match (named s d q.pid name).bind s.h? with
  | none => setPkt s d q.qid i .done
  | some h =>
    if h.th.sys.run || bindRunning s d h.id.inst then s
    else
      let s := removeHolder (dropName s h) h
      setPkt (loadGone s h.fn.packet) d q.qid i .done

/-- CFGLOAD_CLAIM (R277): a waiting CFGLOAD claims its region once its cells are free and its load starts; one with RELEASE releases. -/
def execCfgloadClaim (d qid idx : Nat) (s : State) : Out :=
  .next (match (s.die d).q.queues.find qid with
    | none => s
    | some q => match q.running.find? fun p => p.idx == idx && p.st == .claim with
      | none => s
      | some p =>
        let w (i : Nat) : Nat := (p.words.getD i 0).toNat
        if bitAt (w 3) 0 then releaseNamed s d q idx (bits (w 1) 32 32)
        else match (s.hold.map (·.2)).find? fun h => h.fn.packet == some (d, qid, idx) && h.id.life == .queued with
          | none => s
          | some h =>
            let free (e : AreaEnt) : Bool := e.claimable h.id.cls
            let at_ : Option (Nat × Nat) := if bitAt (w 3) 1 then
                (if rectAll s d (bits (w 3) 8 8) (bits (w 3) 16 8) h.id.w h.id.h free then some (bits (w 3) 8 8, bits (w 3) 16 8) else none)
              else scanDie s d h.id.w h.id.h free
            match at_ with
            | none => s
            | some (c, r) => setPkt (startLoad s h.id.inst d c r) d qid idx (.runs h.id.inst))

/-! ## QCREATE (R283, R285) -/

/-- `n` bytes of physical memory, little-endian; an address that no memory has reads as 0 (R439). -/
def physBytes (s : State) (pa : Nat) : Nat → Nat
  | 0 => 0
  | n + 1 => (if paAssigned pa then s.physN (normPa pa) 1 else 0) + 256 * physBytes s (pa + 1) n

/-- The 64 bytes of the descriptor at AARG (R283). -/
def adminDesc (s : State) (d : Nat) : Nat := physBytes s (s.die d).q.aarg.toNat 64

/-- Field of `n` bytes at an offset of a descriptor. -/
def dField (v off n : Nat) : Nat := bits v (8 * off) (8 * n)

/-- A command ends with a result (R283). -/
def adminDone (s : State) (d cmd res : Nat) : State :=
  s.modQ d fun q => { q with acmd := BitVec.ofNat 64 cmd, astat := BitVec.ofNat 64 res }

/-- The queue that a descriptor describes (R285). -/
def queueOf (v : Nat) : Queue :=
  { qid := dField v 0 4, pid := dField v 4 2, log2s := dField v 6 1, gang := dField v 7 1, ring := dField v 8 8, npage := dField v 16 8 }

/-- A queue descriptor is well formed (R264, R285). -/
def queueOk (s : State) (d v : Nat) : Bool :=
  let q := queueOf v
  q.qid != 0 && (s.ctx? q.pid).isSome && 4 ≤ q.log2s && q.log2s ≤ 16 && q.ring < 2 ^ 48 && q.ring % (64 * 2 ^ q.log2s) == 0 &&
  q.npage % 4096 == 0 && notifyPage d 0 ≤ q.npage && q.npage < notifyPage d 4096 && dField v 24 40 == 0

/-- The result of QCREATE, its failures in the order of R283. -/
def qcreateRes (s : State) (d v : Nat) : Nat :=
  let q := queueOf v
  let mates (e : Nat) : Nat := if q.gang == 0 then 0 else (gangQueues s e q.key).length
  if !queueOk s d v then 1
  else if ((s.die d).q.queues.find q.qid).isSome then 3
  else if 16 ≤ ((List.range 4).map mates).sum then 4
  else if 1024 ≤ (s.die d).q.queues.length then 5
  else if (liveQueues s d).any fun x => x.npage == q.npage then 12
  else if (List.range 4).any fun e => e != d && mates e != 0 then 13
  else 0

/-- The command in progress waits: ASTAT is BUSY (R283). -/
def adminWait (s : State) (d cmd : Nat) : State :=
  s.modQ d fun q => { q with acmd := BitVec.ofNat 64 cmd, astat := 0x8000000000000000 }

/-- QCREATE (R283, R285): a member that joins a mapped gang takes a slot with it. Where none is free the gang is unmapped first, and the
command waits, BUSY, while a packet of it runs, since such a gang is never unmapped, and none is ever partly mapped (R282, log 25). -/
def execQcreate (d : Nat) (s : State) : Out :=
  let v := adminDesc s d
  let q := queueOf v
  let r := qcreateRes s d v
  if r != 0 then .next (adminDone s d 2 r)
  else
    let m := (gangRec s d q.key).mapped
    let fits := slotsUsed s d < 128
    if m && !fits && (gangQueues s d q.key).any Queue.busy then .next (adminWait s d 2)
    else
      let s := if m && !fits then unmapGang s d q.key else s
      let q : Queue := if m && fits then { q with st := .mapped } else q
      .next (adminDone (s.modQ d fun x => { x with queues := x.queues.put q.qid q }) d 2 0)

/-- A QCREATE that waits goes on (R283). -/
def adminGo (d : Nat) (o : Out) : Out :=
  match o with
  | .next s => if bitAt (s.die d).q.astat.toNat 63 then execQcreate d s else .next s
  | o => o

/-! ## Completion -/

/-- A line of a COPY packet is served by its slice (R408), as a line of its process through a port of the die's Queue Sequencer. DESIGN CHOICE
(log 23): that port is numbered behind those of the cells. -/
def packetLine (s : State) (d pid : Nat) (p : Place) : Except CopyErr State :=
  let e := dieOfPa p.addr
  let i := tenantOf s e pid
  if !p.sliced then .ok s
  else if !sliceOpen s e (sliceOf p.addr) i (2048 + d) then .error none
  else .ok (sliceServed s e (sliceOf p.addr) i (2048 + d) ((s.ctx? pid).any fun c => modeBit c.mode 19))

/-- Copy up to 64 lines of a COPY packet (R276), to a 4 KiB boundary of the destination; the error that stopped it early. DESIGN CHOICE (log
33): a line for which no link leads to its die waits until one does, since R262 names no end of a COPY there. -/
def copyLines (d : Nat) (q : Queue) (i dst src len : Nat) : Nat → Nat → State → State × Option CopyErr
  | 0, _, s => (s, none)
  | fuel + 1, pos, s =>
    if len ≤ pos then (s, none)
    else
      let a : Agent := .packet d q.qid i
      let line : Except CopyErr State := do
        let (ps, s) ← copyVa s q.pid 0xFFFFFFFF (src + pos) false
        if cutOff s d ps then .error none
        let (v, psn) ← copyRead s d a ps
        let s ← packetLine s d q.pid ps
        let (pd, s) ← copyVa s q.pid 0xFFFFFFFF (dst + pos) true
        if cutOff s d pd then .error none
        let s ← packetLine s d q.pid pd
        copyWrite s q.pid d { agent := a } pd v psn
      match line with
      | .error e => (s, some e)
      | .ok s =>
        let s := setPkt s d q.qid i (.copies (pos + 64))
        if atBoundary dst (pos + 64) then (s, none) else copyLines d q i dst src len fuel (pos + 64) s

/-- A COPY goes on by a packet of lines; it is done once every line has been accepted by its path (R276). -/
def copyOn (s : State) (d : Nat) (q : Queue) (p : RunPkt) (pos : Nat) : State :=
  let w (i : Nat) : Nat := (p.words.getD i 0).toNat
  let a : Agent := .packet d q.qid p.idx
  if w 3 ≤ pos then (if s.pendings.any fun x => x.agent == a then s else setPkt s d q.qid p.idx .done)
  else match q.miss s d [w 2 + pos, w 1 + pos] with
  | some s => s
  | none => match copyLines d q p.idx (w 1) (w 2) (w 3) 64 pos (s.forgetWalks d q.qid missQueue) with
    | (s, some (some (va, info, wr))) =>
      withhold s q.pid { who := a, va := va, read := !wr, write := wr, info := info, die := d } ⟨cXPEND, info, d, 4, q.qid, va, 0⟩
    | (s, _) => s

/-- The residency's thread has ended by HALT with RUN = 0, and its writes are accepted (R277): with its thread the agent of R324 ends,
and its recovery entry with it (R326); a store of a later phase takes a new entry (log 41). -/
def cfgloadEnd (s : State) (d : Nat) (q : Queue) (i inst : Nat) : State :=
  match s.h? inst with
  | none => s
  | some h =>
    if h.id.life == .placed && h.th.halted && !h.th.sys.run && allAccepted s h then
      setPkt (recovEnd s h) d q.qid i .done
    else s

/-- No other BIND of the residency stands before a ticket. -/
def bindFirst (s : State) (d inst ticket : Nat) : Bool :=
  !bindRunning s d inst && (s.die d).q.queues.all fun e => e.2.running.all fun p => match p.st with
    | .bindWait i t => i != inst || ticket ≤ t
    | _ => true

/-- Drop the bindings that a BIND has made since its residency stood as `old` (R278). -/
def undoBind (s : State) (inst : Nat) (old : Holder) : State :=
  match s.h? inst with
  | none => s
  | some h =>
    let made := (List.range h.eps.length).filter fun e => (h.ep e).bind.isSome && (old.ep e).bind.isNone
    let s := made.foldl (fun s e => match (h.ep e).bind with | some b => releaseCharges s b.charges | none => s) s
    s.modH inst fun h => { h with
      eps := (List.range h.eps.length).map fun e => { h.ep e with bind := (old.ep e).bind, scfg := (old.ep e).scfg }
      th := { h.th with sys := { h.th.sys with nbound := old.th.sys.nbound } } }

/-- A BIND's checks, bindings and phase (R278). DESIGN CHOICE (log 42): every record is checked for BADPKT before any is bound, and an EP above
255 gives the status that SBIND gives it, since R278 names neither order nor cause. -/
def bindGo (s : State) (d : Nat) (q : Queue) (p : RunPkt) (inst : Nat) (h : Holder) : State :=
  let w (i : Nat) : Nat := (p.words.getD i 0).toNat
  let n := bits (w 1) 32 8
  match (List.range n).mapM fun j => bindRec s q.pid d (w 2) j with
  | none => qStop s d q p.idx 2 false (qBad s q.pid d (w 2) (32 * n))
  | some rs =>
    if rs.any badRec then packetFault s d q.qid p.idx cBADPKT (slotInfo q p.idx) none
    else match bindAll inst s 0 rs with
      | (some (e, j), s) => packetFault (undoBind s inst h) d q.qid p.idx cBINDFAIL (e + 16 * j) none
      | (none, s) =>
        let m := bits (w 4) 0 16
        match (if m == 0 then some s else scfgAt s inst (bits (w 4) 16 8) (w 3) m) with
        | none => packetFault (undoBind s inst h) d q.qid p.idx cBINDFAIL 9 none
        | some s => setPkt (((s.order h readers fun _ => true).begins inst [.fs, .mw]).modH inst Holder.startPhase) d q.qid p.idx (.bindRuns inst)

/-- A BIND that waits for its residency (R278). -/
def bindOn (s : State) (d : Nat) (q : Queue) (p : RunPkt) (inst ticket : Nat) : State :=
  match s.h? inst with
  | none => packetFault s d q.qid p.idx cBINDFAIL 8 none
  | some h =>
    if h.id.life == .placed && h.fn.packet.isNone && !h.th.sys.run && bindFirst s d inst ticket then bindGo s d q p inst h else s

/-- Take a packet off its queue: a CFGLOAD's residency is then free for BINDs (R278), and a destroyed queue goes with its last packet. -/
def dropPkt (s : State) (d qid i : Nat) : State :=
  let s : State := { s with hold := s.hold.map fun (k, h) =>
    (k, if h.id.kind == .named && h.fn.packet == some (d, qid, i) then { h with fn := { h.fn with packet := none } } else h) }
  let s := s.modQueue d qid fun q => { q with running := q.running.filter fun p => p.idx != i }
  s.modQ d fun x => { x with queues := x.queues.filter fun e => !(e.2.dead && e.2.live.isEmpty) }

/-- Stores of a GLAUNCH's members and of their callees are still to be accepted. -/
def gangStores (s : State) (g : Nat) : Bool := s.pendings.any fun x => x.gang == g

/-- The completion of a packet whose work is done: the subtraction of R274. -/
def finishPkt (s : State) (d : Nat) (q : Queue) (p : RunPkt) : State :=
  let h := (p.words.getD 0 0).toNat
  let a := (p.words.getD 7 0).toNat
  if pktType h == 8 && gangStores s p.gang then s
  else if !pktSig h then dropPkt s d q.qid p.idx
  else match qSignal s d q p.idx a (2 ^ 64 - 1) false with
    | .ok s => dropPkt s d q.qid p.idx
    | .error e => qStop s d q p.idx 1 true e

/-- A started packet's work goes on, and ends with its signal (R274). -/
def completionStep (d qid idx : Nat) (s : State) : State :=
  match (s.die d).q.queues.find qid with
    | none => s
    | some q => match q.running.find? fun p => p.idx == idx with
      | none => s
      | some p => if qHeld s d qid idx then s else match p.st with
        | .begins => startBody s d q idx (p.words.map (·.toNat))
        | .done => finishPkt s d q p
        | .faulted => dropPkt s d qid idx
        | .copies pos => copyOn s d q p pos
        | .runs inst => cfgloadEnd s d q idx inst
        | .bindWait inst t => bindOn s d q p inst t
        | .bindRuns inst => match s.h? inst with
          | some h => if h.th.sys.run then s else setPkt s d qid idx .done
          | none => setPkt s d qid idx .faulted
        | .admits => graphOn s d q idx (p.words.map (·.toNat))
        | .claim | .gang _ | .waits => s

/-- PACKET_COMPLETION (R274): a started packet's work goes on, and ends with its signal; with it an administration command that waits for
a gang's packets goes on (R283). -/
def execPacketCompletion (d qid idx : Nat) (s : State) : Out := adminGo d (.next (completionStep d qid idx s))

end Sys2Proof.Machine
end

