-- ==== Sys2Proof/Machine/Admin.lean ====
section
/-! DEFINITION. The administration window of a Queue Sequencer (R283 to R287), ingress positions (R295), and the end of a process. -/

namespace Sys2Proof.Machine

/-! ## Contexts -/

/-- A mode word that R126 accepts. -/
def modeOk (m : Nat) : Bool := bits m 22 10 == 0 && bits m 5 3 != 7 && 1 ≤ bits m 9 10 && bits m 9 10 ≤ 1000

/-- A power of two from 64 to 65,536. -/
def fqsizeOk (n : Nat) : Bool := (List.range 11).any fun k => n == 2 ^ (k + 6)

/-- A context descriptor is well formed (R284, R126, R354). -/
def ctxOk (v : Nat) : Bool :=
  dField v 0 2 != 0 && dField v 2 2 == 0 && modeOk (dField v 4 4) && tableOk (dField v 8 8) && dField v 16 8 < 2 ^ 48 &&
  fqsizeOk (dField v 28 4) && dField v 32 8 < 2 ^ 48 && dField v 40 8 < 2 ^ 48 && dField v 48 16 == 0

/-- The context that a descriptor gives (R284). -/
def ctxOf (v : Nat) : Ctx :=
  { mode := BitVec.ofNat 64 (dField v 4 4), ptroot := dField v 8 8, ftab := dField v 16 8, ftabn := dField v 24 4
    fqsize := dField v 28 4, fqbase := dField v 32 8, pool := dField v 40 8 }

/-- Invalidate the Shape Cache entries of a process on every die (R336). -/
def dropShapes (s : State) (pid : Nat) : State :=
  { s with dies := s.dies.map fun (d : Die) => { d with p := { d.p with shapes := d.p.shapes.map fun e => if e.pid == pid then { e with valid := false } else e } } }

/-- The result of CTXSET, and the state after it (R284, R336, R357). -/
def ctxset (s : State) (v : Nat) : Nat × State :=
  let pid := dField v 0 2
  let c := ctxOf v
  if !ctxOk v then (1, s)
  else match s.ctx? pid with
    | none => if 256 ≤ s.pkg.ctxs.length then (2, s) else (0, s.modPkg fun p => { p with ctxs := p.ctxs.put pid c })
    | some o =>
      let s := if o.ftab != c.ftab then dropShapes s pid else s
      let s := if o.ptroot != c.ptroot then dropHeld s pid fun _ => true else s
      (0, s.modPkg fun p => { p with ctxs := p.ctxs.put pid c })

/-- CTXSET (R283, R284). -/
def execCtxset (d : Nat) (s : State) : Out :=
  let (r, s) := ctxset s (adminDesc s d)
  .next (adminDone s d 1 r)

/-! ## Queues -/

/-- The queue that a descriptor's QID names. -/
def descQueue (s : State) (d : Nat) : Option Queue := (liveQueues s d).find? fun q => q.qid == dField (adminDesc s d) 0 4

/-- QDESTROY (R283): its gang is unmapped, packets not started are dropped, and started ones run on. -/
def execQdestroy (d : Nat) (s : State) : Out :=
  match descQueue s d with
  | none => .next (adminDone s d 3 6)
  | some q =>
    let s := unmapGang s d q.key
    let s := s.modQueue d q.qid fun q => { q with w := q.rd, admits := [], dead := true }
    let s := if q.live.isEmpty then s.modQ d fun x => { x with queues := x.queues.del q.qid } else s
    let s := if (gangQueues s d q.key).isEmpty then s.modQ d fun x => { x with gangs := x.gangs.filter fun g => g.key != q.key } else s
    .next (adminDone s d 3 0)

/-- QSTART (R283). -/
def execQstart (d : Nat) (s : State) : Out :=
  match descQueue s d with
  | none => .next (adminDone s d 4 6)
  | some q =>
    if q.st != .stopped then .next (adminDone s d 4 7)
    else
      let m := (gangRec s d q.key).mapped
      let s := (stir s d q.key).modQueue d q.qid fun q => { q with st := if m then .mapped else .unmapped }
      .next (adminDone (s.modGang d q.key fun g => { g with idleAt := none }) d 4 0)

/-! ## Patches -/

/-- `n` bytes of physical memory. -/
def physList (s : State) (pa n : Nat) : List Byte := (List.range n).map fun i => BitVec.ofNat 8 (physBytes s (pa + i) 1)

/-- Entry `k` of a patch image: its bytes (R287). -/
def patchBytes (img : List Byte) (k : Nat) : List Byte := (img.drop (16 + 16 * k)).take 16

/-- The patch RAM entries of an image (R287). -/
def patchEntries (img : List Byte) (n : Nat) : List (BitVec 12 × BitVec 80) :=
  (List.range n).map fun k =>
    let e := patchBytes img k
    (BitVec.ofNat 12 (bytesLE (e.take 2)), BitVec.ofNat 80 (bytesLE ((e.drop 2).take 10)))

/-- A patch image is well formed (R287). -/
def patchOk (img : List Byte) (n : Nat) : Bool :=
  img.take 4 == [0x5A, 0x51, 0x50, 0x48] && 1 ≤ n && n ≤ 128 && bytesLE ((img.drop 8).take 8) == 0 &&
  ((List.range n).all fun k => bytesLE ((patchBytes img k).take 2) < 4096 && bytesLE ((patchBytes img k).drop 12) == 0) &&
  ((patchEntries img n).map (·.1)).Nodup

/-- The result of PATCH, its failures in the order of R283. -/
def patchRes (s : State) (d : Nat) (img sig : List Byte) (svn n : Nat) : Nat :=
  if !sigOk 0 img sig then 8
  else if !patchOk img n then 9
  else if svn < s.host.fsvn then 10
  else if slotsUsed s d != 0 then 11
  else 0

/-- PATCH (R287). -/
def execPatch (d : Nat) (s : State) : Out :=
  let a := (s.die d).q.aarg.toNat
  let n := physBytes s (a + 6) 2
  let svn := physBytes s (a + 4) 2
  let img := physList s a (16 + 16 * n)
  let r := patchRes s d img (physList s (a + 16 + 16 * n) 96) svn n
  let s := if r == 0 then s.modQ d fun q => { q with patch := patchEntries img n, patchSvn := svn, patchImg := img } else s
  .next (adminDone s d 5 r)

/-- The word that a die's Queue Sequencer executes at an address of its control store: that of a valid patch entry, in place of the
store's own (R286). What a word makes the sequencer do is not given (log 9). -/
def controlFetch (s : State) (d : Nat) (a : BitVec 12) : BitVec 80 :=
  match (s.die d).q.patch.find? fun e => e.1 == a with
  | some e => e.2
  | none => Config.controlWord a

/-- The control store's bytes, ten to a word, least significant first (R286, log 9). -/
def controlStore : List Byte := (List.range 4096).flatMap fun a => leBytes 10 (Config.controlWord (BitVec.ofNat 12 a)).toNat

/-- An unassigned ACMD (R283): it has no effect but its result. -/
def execAcmdUnassigned (d : Nat) (v : W64) (s : State) : Out :=
  .next (if v == 0 || 6 ≤ v.toNat then adminDone s d v.toNat 255 else s)

/-! ## Ingress positions (R295) -/

/-- The device takes the position that the host wrote to a word. -/
def iposTake (s : State) (pa : Nat) (v : W64) : State :=
  s.modMem fun m => { m with ipos := m.ipos.set 0 pa v.toNat }

/-- A write of 8 bytes through the host port to an ingress position: accepted when it advances (R295). -/
def iposWrite (s : State) (pa : Nat) (v : W64) : State :=
  let delta := (v - BitVec.ofNat 64 (iposOf s pa)).toNat
  if 0 < delta && delta ≤ 2 ^ 63 then iposTake (s.physSetN pa 8 v.toNat) pa v else s

/-- A range of a process is in ingress mode. -/
def ingress (s : State) (pid hh : Nat) : Bool :=
  match hostEntry s pid hh with
  | some (_, _, _, fl) => bitAt fl 3
  | none => false

/-- IPOS (R295): the host writes an ingress position; of a range that is not in ingress mode it takes the value as it is (log 43). -/
def execIpos (pid hh : Nat) (v : W64) (s : State) : Out :=
  .next (match hbmAt s pid (iposVa (hh % 256)) false with
    | some pa => if ingress s pid (hh % 256) then iposWrite s pa v else iposTake (s.physSetN pa 8 v.toNat) pa v
    | none => s)

/-! ## The end of a process -/

/-- PROCESS_END (R277, R336): the process's named residencies are released and its Shape Cache entries become invalid. -/
def execProcessEnd (pid : Nat) (s : State) : Out :=
  let hs := (s.hold.map (·.2)).filter fun h => h.id.pid == pid && h.id.kind == .named
  .next (dropShapes (hs.foldl (fun s h => match s.h? h.id.inst with
    | some h => killHolder s h
    | none => s) s) pid)

end Sys2Proof.Machine
end

