-- ==== Sys2Proof/Machine/Branch.lean ====
section
/-! DEFINITION. Branches and jumps (R119, R141, R142). -/

namespace Sys2Proof.Machine

/-- A target is an index of the code store (R78). -/
def branchOk (t : Int) : Bool := 0 ≤ t && t ≤ 4095

/-- A branch crosses between the units (R119): the evaluator pushes the outcome and continues by itself; the follower pops it in a
step of its own (`Thread.follow`). `e`: the E-unit evaluates. -/
def Thread.cross (t : Thread) (e taken : Bool) (target : Nat) : Thread :=
  let own := if taken then target else t.pc + 1
  let x := (taken, BitVec.ofNat 12 target)
  if e then { t with wait := .none, pfx := {}, pcE := own, bqe := t.bqe ++ [x] }
  else { t with wait := .none, pfx := {}, pcA := own, bqa := t.bqa ++ [x] }

/-- A conditional branch (R141): a taken branch out of range traps ILL, with UNIT naming the evaluating unit (R78). -/
def branch (e : Bool) (c : Cond) (i : Instr) (f : Br) (s : State) : Out :=
  withMe s fun h =>
    let taken := c.holds (h.th.get e f.a) (h.th.get e f.b)
    let tgt : Int := h.th.pc + f.off.toInt
    if taken && !branchOk tgt then trap s e cILL 0 (BitVec.ofNat 64 (wordOf i))
    else s.modTh fun t => t.cross e taken tgt.toNat

/-- A jump both units compute (R142). -/
def jump (i : Instr) (off : BitVec 26) (link : Bool) (s : State) : Out :=
  withMe s fun h =>
    let tgt : Int := h.th.pc + off.toInt
    if !branchOk tgt then trap s false cILL 0 (BitVec.ofNat 64 (wordOf i))
    else s.modTh fun t =>
      let t := if link then t.setA 31 (BitVec.ofNat 64 (t.pc + 1)) else t
      t.jumpTo tgt.toNat

/-- A jump to a register, which the A-unit pushes to BQA with taken = 1 (R119, R142). The register is read before d is
written. -/
def jumpReg (i : Instr) (a : Reg) (d : Option Reg) (s : State) : Out :=
  withMe s fun h =>
    let tgt := (h.th.a a).toNat
    if 4095 < tgt then trap s false cILL 0 (BitVec.ofNat 64 (wordOf i))
    else s.modTh fun t =>
      let t := match d with
        | some d => t.setA d (BitVec.ofNat 64 (t.pc + 1))
        | none => t
      t.cross false true tgt

/-- BEQ_A (R141). -/
def execBeqA (f : Br) (s : State) : Out := branch false .eq (.beqA f) f s
/-- BNE_A (R141). -/
def execBneA (f : Br) (s : State) : Out := branch false .ne (.bneA f) f s
/-- BLT_A (R141). -/
def execBltA (f : Br) (s : State) : Out := branch false .lt (.bltA f) f s
/-- BGE_A (R141). -/
def execBgeA (f : Br) (s : State) : Out := branch false .ge (.bgeA f) f s
/-- BLTU_A (R141). -/
def execBltuA (f : Br) (s : State) : Out := branch false .ltu (.bltuA f) f s
/-- BGEU_A (R141). -/
def execBgeuA (f : Br) (s : State) : Out := branch false .geu (.bgeuA f) f s
/-- BANY_A (R141). -/
def execBanyA (f : Br) (s : State) : Out := branch false .any (.banyA f) f s
/-- BNONE_A (R141). -/
def execBnoneA (f : Br) (s : State) : Out := branch false .none (.bnoneA f) f s
/-- BEQ_E (R141). -/
def execBeqE (f : Br) (s : State) : Out := branch true .eq (.beqE f) f s
/-- BNE_E (R141). -/
def execBneE (f : Br) (s : State) : Out := branch true .ne (.bneE f) f s
/-- BLT_E (R141). -/
def execBltE (f : Br) (s : State) : Out := branch true .lt (.bltE f) f s
/-- BGE_E (R141). -/
def execBgeE (f : Br) (s : State) : Out := branch true .ge (.bgeE f) f s
/-- BLTU_E (R141). -/
def execBltuE (f : Br) (s : State) : Out := branch true .ltu (.bltuE f) f s
/-- BGEU_E (R141). -/
def execBgeuE (f : Br) (s : State) : Out := branch true .geu (.bgeuE f) f s
/-- BANY_E (R141). -/
def execBanyE (f : Br) (s : State) : Out := branch true .any (.banyE f) f s
/-- BNONE_E (R141). -/
def execBnoneE (f : Br) (s : State) : Out := branch true .none (.bnoneE f) f s
/-- JMP (R142). -/
def execJmp (off : BitVec 26) (s : State) : Out := jump (.jmp off) off false s
/-- JAL (R142). -/
def execJal (off : BitVec 26) (s : State) : Out := jump (.jal off) off true s
/-- JR (R142). -/
def execJr (a : Reg) (s : State) : Out := jumpReg (.jr a) a none s
/-- JALR (R142). -/
def execJalr (f : S2) (s : State) : Out := jumpReg (.jalr f) f.a (some f.d) s

end Sys2Proof.Machine
end

