-- ==== Sys2Proof/Machine/Calls.lean ====
section
/-! DEFINITION. CALL, RET, WAITC, CANCEL and GBAR (R347 to R352). -/

namespace Sys2Proof.Machine

/-- A callee as CALL creates it (R115, R123, R347). -/
def newCallee (caller : Holder) (inst p f : Nat) (e : FnEntry) (x : ShapeEnt) (args : List W64) : Holder :=
  { id := { inst := inst, pid := caller.id.pid, kind := .callee, parent := caller.id.inst, callerPort := p, dieMask := caller.id.dieMask
            die := caller.id.die, w := e.w, h := e.h, cls := e.cls, life := .queued }
    fn := { fidx := f, nargs := e.nargs, nres := e.nres, keepsp := e.keepsp, digest := BitVec.ofNat 384 e.digest, image := x.img, found := true
            cacheDie := caller.id.die, args := args }
    eps := x.eps.map fun r => { gr := r } }

/-- Steps 1 to 3 of R338 over what the placement queues leave (R343). -/
def findFresh (s : State) (q : Want) : Option (Nat × Nat × Nat) :=
  let own := if queueLeaves s q.die then q.step1 s <|> (if q.p2 then q.scan s q.die else none) else none
  own <|> (if q.p3 then firstSome (q.near s) (fun d => if queueLeaves s d then q.scan s d else none) else none)

/-- Step 5 of R338: blocked instances of the die are racked, youngest first, and the search is tried again after each. -/
def spill (q : Want) : Nat → List Nat → State → Option (Nat × Nat × Nat) × State
  | 0, _, s => (none, s)
  | fuel + 1, tried, s =>
    match youngest (blockedOn s q.die fun h => !tried.contains h.id.inst) with
    | none => (none, s)
    | some h =>
      let (s, ok) := rackOr s h .racked
      match (if ok then findFresh s q else none) with
      | some p => (some p, s)
      | none => spill q fuel (h.id.inst :: tried) s

/-- Place a callee: steps 1 to 3, fold, spill, and the placement queue (R338, R341 to R343). While the queue of the die is not empty the
spill ends with the caller: the cells that it frees are offered to the queue first, which racks what is blocked. A racked caller is
ready at once, behind its callee. -/
def placeCall (s : State) (caller callee : Nat) (sptop : Nat) : State :=
  match s.h? caller, s.h? callee with
  | some c, some k =>
    let q := wantOf c k.id.w k.id.h k.id.cls
    match findFresh s q with
    | some (d, x, y) => startLoad s callee d x y
    | none => match tryFold s c k sptop with
      | some s => s
      | none =>
        let (s, racked) := if c.id.kind == .named then (s, false) else rackOr s c .ready
        let found := if racked then findFresh s q else none
        let (found, s) := match found with
          | some p => (some p, s)
          | none => if (s.die q.die).p.queue.isEmpty then spill q s.hold.length [caller] s else (none, s)
        let s := match found with
          | some (d, x, y) => startLoad s callee d x y
          | none => enqueue s q.die (.call callee)
        if racked then enqueue s q.die (.image caller) else s
  | _, _ => s

/-- CALL (R347). Where steps 1 to 3 find no region, so that a fold or step 5 freezes the caller, what a freeze waits for is awaited first (R240,
R251, R421, R426). It waits from its claim until its callee is armed. -/
def execCall (f : S3) (n : Fin 32) (s : State) : Out :=
  withMe s fun h =>
    match h.th.wait with
    | .call _ _ _ => s
    | _ =>
      let a := (h.th.a f.a).toNat
      let p := bits a 32 4
      let k := bits a 0 32
      let done (s : State) (v : Nat) : State := s.retire fun t => t.setA f.d (BitVec.ofNat 64 v)
      if bits a 36 28 != 0 || !(h.port p).usable then done s 4
      else if ftWaits s h.id.pid h.id.die k then s
      else match readFt s h.id.pid h.id.die k with
        | .error _ => done s 1
        | .ok e =>
          if n.val != e.nargs then done s 2
          else if !(wantOf h e.w e.h e.cls).possible s then done s 3
          else if h.id.kind != .named && (findFresh s (wantOf h e.w e.h e.cls)).isNone && !canSave s h then s
          else match shapeFor s h.id.die h.id.pid k e (0, h.id.inst) with
            | .wait s => s
            | .fail c ed s => done (postLoad s h.id.pid h.id { edge := ed, cause := c }) (5 + c * 256)
            | .hit x s =>
              let (i, s) := s.newInst
              let s := { s with hold := s.hold.put i (newCallee h i p k e x (sendWords h.th f.b.val n.val)) }
              placeCall (s.modTh fun t => { t with wait := .call f.d.val p i }) s.cur i x.sptop

/-- Push `n` s-registers from `x` to SQ (R349). -/
def pushRegs (t : Thread) (x : Nat) : Nat → Except Nat Thread
  | 0 => .ok t
  | n + 1 => match t.pushSq (t.s (Fin.ofNat 32 x)) with
    | .ok t => pushRegs t (x + 1) n
    | .error e => .error e

/-- Pop `n` words of SQ. -/
def popWords : Nat → Thread → Except Nat (List W64 × Thread)
  | 0, t => .ok ([], t)
  | n + 1, t => match t.popSq with
    | .error e => .error e
    | .ok (w, t) => match popWords n t with
      | .ok (l, t) => .ok (w :: l, t)
      | .error e => .error e

/-- The words of a RET (R349): `n` a-registers from `x`, or s-registers that cross SQ, every push before the first pop (R120, log
40). -/
def retWords (t : Thread) (x : Reg) (bank : Bool) (n : Nat) : Except Nat (List W64 × Thread) :=
  if bank then match pushRegs t x.val n with
    | .ok t => popWords n t
    | .error e => .error e
  else .ok ((List.range n).map fun i => t.a (Fin.ofNat 32 (x.val + i)), t)

/-- Cancel the live callees on a holder's CHILD ports (R349). -/
def cancelCallees (s : State) (h : Holder) : State :=
  h.ports.foldl (fun s p => if p.st == .child then (cancelTree s p.peer).1 else s) s

/-- The end of an instance: callees cancelled, words to the caller's port, link closed, everything released (R349). -/
def endInstance (s : State) (h : Holder) (ws : List W64) : State :=
  let s := cancelCallees s h
  let s := if h.id.kind == .callee then
      ws.foldl (fun s w => readyIfRacked (portPush s h.id.parent h.id.callerPort w false) h.id.parent) s
    else s
  match s.h? h.id.inst with
  | some h => removeHolder (closeLink s h false) h
  | none => s

/-- RET (R349). A caller that no link reaches is waited for (R444; DESIGN CHOICE, log 36). It waits for every earlier instruction, the words that were left to the E-unit and the stores under way among them. -/
def execRet (x : Reg) (n : Fin 32) (bank : Bool) (s : State) : Out :=
  withMe s fun h =>
    match retWords h.th x bank n.val with
    | .error e => trapQueue s e
    | .ok (ws, _) =>
      if h.id.kind == .task || h.id.kind == .named then trapA s cCALLX 1
      else if n.val != h.fn.nres then trapA s cCALLX 0
      else if !ctAccepted s h then s.modTh Thread.askEven
      else if h.th.sys.run || h.th.copies.any (fun c => c.st == .busy) then s
      else
        let room : Bool := match s.h? h.id.parent with
          | some c => (c.port h.id.callerPort).q.length + ws.length ≤ 16 && reaches s h.id.die c.id.die
          | none => true
        if h.id.kind == .callee && !room then s else endInstance s h ws

/-- WAITC (R350). -/
def execWaitc (f : S2) (s : State) : Out :=
  withMe s fun h =>
    let a := (h.th.a f.a).toNat
    let st (p : Nat) : PortState := (h.port p).st
    let ps := waitcPorts a
    if bits a 4 4 != 0 || bits a 9 55 != 0 then s.retire fun t => t.setA f.d 2
    else if ps.any fun p => st p == .child then s
    else s.retire fun t => t.setA f.d (if ps.any fun p => st p == .closed then 0 else 1)

/-- The target of a CANCEL (R351). -/
def cancelTarget (s : State) (h : Holder) (a : Nat) : Option Holder :=
  if bitAt a 63 then
    if bits a 32 31 != 0 then none
    else match s.h? (bits a 0 32) with
      | some x => if x.id.pid == h.id.pid && (x.id.kind == .callee || x.id.kind == .member) then some x else none
      | none => none
  else if bits a 4 59 != 0 || (h.port (bits a 0 4)).st != .child then none
  else s.h? (h.port (bits a 0 4)).peer

/-- CANCEL (R351). A target that no link reaches is not found: status 1 (R444; DESIGN CHOICE, log 36). -/
def execCancel (f : S2) (s : State) : Out :=
  withMe s fun h =>
    let done (s : State) (v : Nat) : State := s.retire fun t => t.setA f.d (BitVec.ofNat 64 v)
    match (cancelTarget s h (h.th.a f.a).toNat).filter fun t => reaches s h.id.die t.id.die with
    | none => done s 1
    | some t =>
      if t.id.kind == .member then done s 2
      else if (subtree s t.id.inst).contains h.id.inst then done s 3
      else
        let (s, k) := cancelTree s t.id.inst
        done s (k * 2 ^ 32)

/-- GBAR (R352): it counts once, and completes when every live member of the gang has counted as many. -/
def execGbar (s : State) : Out :=
  withMe s fun h =>
    if h.id.gang == 0xFFFFFFFF then s.retire id
    else
      let n := if h.th.wait == .gbar then h.th.gbar else h.th.gbar + 1
      let s := s.modTh fun t => { t with wait := .gbar, gbar := n }
      let ready : Bool := match s.pkg.gangs.find h.id.gang with
        | some g => g.members.all fun m => match s.h? m with | some x => n ≤ x.th.gbar | none => true
        | none => true
      if ready then s.retire id else s

end Sys2Proof.Machine
end

