-- ==== Sys2Proof/Machine/Fp.lean ====
section
/-! DEFINITION. The floating-point functions of the control thread (R139, R140). -/

namespace Sys2Proof.Machine

/-- FLUSH of the current thread's mode word (R65). -/
def State.flush (s : State) : Bool :=
  match s.me? with
  | some h => modeBit h.id.mode 20
  | none => false

/-- An FP32 operand: bits 31:0 of a register (R116). -/
def lo32 (a : W64) : Nat := bits a.toNat 0 32

/-- `op d, a, b` on FP32. -/
def fp2 (s : State) (op : FV → FV → FV) (f : R3) : Out :=
  finish s (alu3 true (fun a b => BitVec.ofNat 64 (f32.op2 s.flush op (lo32 a) (lo32 b))) f)

/-- A compare of FP32 operands. -/
def fpc (s : State) (op : FV → FV → Bool) (f : R3) : Out :=
  finish s (alu3 true (fun a b => flag (f32.cmp s.flush op (lo32 a) (lo32 b))) f)

/-- `op d, a` on a value of one format, to what `out` makes of it. -/
def fp1 (s : State) (i : FFmt) (out : FV → Nat) (f : R2) : Out :=
  finish s (alu2 true (fun a => BitVec.ofNat 64 (out (i.dec (i.flush s.flush (bits a.toNat 0 (1 + i.eb + i.mb)))))) f)

/-- A result in a float format, FLUSH applied. -/
def outF (s : State) (o : FFmt) (v : FV) : Nat := o.flush s.flush (o.enc false false v)

/-- FADD (R140). -/
def execFadd (f : R3) (s : State) : Out := fp2 s FV.add f
/-- FSUB (R140). -/
def execFsub (f : R3) (s : State) : Out := fp2 s (fun a b => a.add b.neg) f
/-- FMUL (R140). -/
def execFmul (f : R3) (s : State) : Out := fp2 s FV.mul f
/-- FMA (R140): d + a × b, rounded once. -/
def execFma (f : RT) (s : State) : Out :=
  finish s (aluT true (fun d a b =>
    BitVec.ofNat 64 (f32.op3 s.flush (fun x y z => z.add (x.mul y)) (lo32 a) (lo32 b) (lo32 d))) f)
/-- FMIN (R140). -/
def execFmin (f : R3) (s : State) : Out := fp2 s FV.min f
/-- FMAX (R140). -/
def execFmax (f : R3) (s : State) : Out := fp2 s FV.max f
/-- FEQ (R140). -/
def execFeq (f : R3) (s : State) : Out := fpc s FV.eqv f
/-- FLT (R140). -/
def execFlt (f : R3) (s : State) : Out := fpc s FV.lt f
/-- FLE (R140). -/
def execFle (f : R3) (s : State) : Out := fpc s FV.le f
/-- FABS (R140). -/
def execFabs (f : R2) (s : State) : Out := fp1 s f32 (fun v => outF s f32 v.abs) f
/-- FNEG (R140). -/
def execFneg (f : R2) (s : State) : Out := fp1 s f32 (fun v => outF s f32 v.neg) f
/-- FTOI (R140). -/
def execFtoi (f : R2) (s : State) : Out := fp1 s f32 (fun v => uNat 64 (v.toInt false (-2147483648) 2147483647)) f
/-- FTOIZ (R140). -/
def execFtoiz (f : R2) (s : State) : Out := fp1 s f32 (fun v => uNat 64 (v.toInt true (-2147483648) 2147483647)) f
/-- FTOL (R140). -/
def execFtol (f : R2) (s : State) : Out :=
  fp1 s f32 (fun v => uNat 64 (v.toInt false (-9223372036854775808) 9223372036854775807)) f
/-- FTOLZ (R140). -/
def execFtolz (f : R2) (s : State) : Out :=
  fp1 s f32 (fun v => uNat 64 (v.toInt true (-9223372036854775808) 9223372036854775807)) f
/-- ITOF (R140): bits 31:0 as INT32. -/
def execItof (f : R2) (s : State) : Out :=
  finish s (alu2 true (fun a => BitVec.ofNat 64 (f32.enc false false (.ofInt (sInt 32 a.toNat)))) f)
/-- LTOF (R140). -/
def execLtof (f : R2) (s : State) : Out :=
  finish s (alu2 true (fun a => BitVec.ofNat 64 (f32.enc false false (.ofInt a.toInt))) f)
/-- FTOBF (R140). -/
def execFtobf (f : R2) (s : State) : Out := fp1 s f32 (outF s bf16) f
/-- FTOH (R140). -/
def execFtoh (f : R2) (s : State) : Out := fp1 s f32 (outF s f16) f
/-- BFTOF (R140). -/
def execBftof (f : R2) (s : State) : Out := fp1 s bf16 (outF s f32) f
/-- HTOF (R140). -/
def execHtof (f : R2) (s : State) : Out := fp1 s f16 (outF s f32) f

end Sys2Proof.Machine
end

