-- ==== Sys2Proof/Machine/Links.lean ====
section
/-! DEFINITION. Links between dies and ZLK ports: retraining, going down and coming up (R262, R443, R444). -/

namespace Sys2Proof.Machine

/-- Change a port status entry (R444). -/
def State.modPortWord (s : State) (d i : Nat) (f : W64 → W64) : State := s.modR d fun r => { r with ports := listMod r.ports i f }

/-- A retrain ends: UP, not TRAINING, and one more in the count. -/
def portTrained (w : W64) : W64 := BitVec.ofNat 64 (2 ^ 63 + (bits w.toNat 0 32 + 1) % 2 ^ 32)

/-- A link goes down: it trains. -/
def portDown (w : W64) : W64 := BitVec.ofNat 64 (2 ^ 62 + bits w.toNat 0 32)

/-- The port status entries of a link, as (die, entry). -/
def linkEntries : LinkId → List (Nat × Nat)
  | .die a b => if a != b && a < 4 && b < 4 then [(a, portOf a b), (b, portOf b a)] else []
  | .zlk p => if p < 36 then [(p / 9, p % 9)] else []

/-- A port status entry. -/
def State.portWord (s : State) (x : Nat × Nat) : W64 := (s.die x.1).r.ports.getD x.2 0

/-- A link is up. -/
def linkIsUp (s : State) (l : LinkId) : Bool := !(linkEntries l).isEmpty && (linkEntries l).all fun x => (s.portWord x).getLsbD 63

/-- Change every port status entry of a link. -/
def linkChange (s : State) (l : LinkId) (f : W64 → W64) : State := (linkEntries l).foldl (fun s x => s.modPortWord x.1 x.2 f) s

/-- A link that trains comes up again. -/
def linkTrained (s : State) (l : LinkId) : State :=
  if (linkEntries l).all fun x => (s.portWord x).getLsbD 62 then linkChange s l portTrained else s

/-- LINK_RETRAIN (R262): a short retrain; link-layer replay delivers what was crossing. -/
def execLinkRetrain (l : LinkId) (s : State) : Out := .next (if linkIsUp s l then linkChange s l portTrained else s)

/-- ZLK_RETRAIN (R443). -/
def execZlkRetrain (port : Nat) (s : State) : Out := .next (linkTrained s (.zlk port))

/-- DIE_LINK_UP (R444). -/
def execDieLinkUp (a b : Nat) (s : State) : Out := .next (linkTrained s (.die a b))

/-! ## What a lost link returns (R262) -/

/-- Messages that meet a condition return to their senders with status 4. -/
def returnMsgs (s : State) (pair : Nat) (p : Nat → Packet → Bool) : State :=
  (List.range 4).foldl (fun s d =>
    let gone := (s.die d).m.net.filter (p d)
    let s := s.modM d fun m => { m with net := m.net.filter fun q => !p d q }
    gone.foldl (fun s q => linkRec (answerSend s q.src q.id 4) q.pid d pair q.src 0) s) s

/-- A place of a holder of a die lies across the link between two dies. -/
def crosses (s : State) (a b d : Nat) (p : Place) : Bool :=
  let e := p.home s d
  (d == a && e == b) || (d == b && e == a)

/-- The least virtual address of a copy's stores among some (R259). -/
def leastVa (l : List Pending) (a : Agent) (n : Nat) : Nat :=
  ((l.filter fun y => y.agent == a && y.copy == some n).map (·.va)).min?.getD 0

/-- Busy copies of a holder across a link become FAILED (R259, R262); the record gives the physical line (R435). -/
def failCopies (s : State) (a b : Nat) (h : Holder) : State :=
  (List.range 16).foldl (fun s n => match copyMeets s h (h.th.copies.getD n {}) (crosses s a b h.id.die) with
    | some (f, pa) =>
      failCopy (linkRec s h.id.pid h.id.die (a * 4 + b) h.id.inst (pa / 64 * 64)) h.id.inst n f
    | none => s) s

/-- Reads and atomics of a holder's MU ports that wait across a link return FLT (R262, R435). -/
def failReads (s : State) (a b : Nat) (h : Holder) : State :=
  (List.range h.id.ncells).foldl (fun s c => (List.range 4).foldl (fun s p =>
    ((h.mu c p).rob.filter fun r => r.res.isNone).foldl (fun s r => match muPlace s h c r.req with
      | .ok pl => if crosses s a b h.id.die pl then
          freeCombs (fillRob s (h.id.inst, c, p, r.id) (fltTok cLINKDOWN (a * 4 + b) (pl.phys s h.id.die))) [(h.id.inst, c, p, r.id)]
        else s
      | .error f => freeCombs (fillRob s (h.id.inst, c, p, r.id) f) [(h.id.inst, c, p, r.id)]) s) s) s

/-- The lines that a holder's port endpoints and its MU writes could move now return when they lie across a link (R262). -/
def failStreams (s : State) (a b : Nat) (i : Nat) : State :=
  let s := match s.h? i with
    | none => s
    | some h => (List.range h.eps.length).foldl (fun s e => match s.h? i with
      | none => s
      | some h => match h.portNext s e with
        | some p => if crosses s a b h.id.die p then portLost s h e (fltTok cLINKDOWN (a * 4 + b) (p.phys s h.id.die)) else s
        | none => s) s
  match s.h? i with
  | none => s
  | some h => (List.range h.id.ncells).foldl (fun s c => (List.range 4).foldl (fun s p => match s.h? i with
    | none => s
    | some h => match h.muNext s c p with
      | some pl => if crosses s a b h.id.die pl then muLost s h c p (fltTok cLINKDOWN (a * 4 + b) (pl.phys s h.id.die)) else s
      | none => s) s) s

/-- A store to the Cellar on its way across a link returns to its source (R262): it is not performed, and an atomic that a thread waits
for is issued again. A chain store stays with its buffer (R318). -/
def storeCrosses (a b : Nat) (x : Pending) : Bool :=
  x.ch.isNone && (let e := dieOfPa x.line; (x.die == a && e == b) || (x.die == b && e == a))

/-- Stores of holders that return across a link; a copy fails once, at the first byte that its returned stores left uncopied. Those of a
COPY packet are sent again and stay pending, for R262 names no outcome of theirs (DESIGN CHOICE, log 33). -/
def failStores (s : State) (a b : Nat) : State :=
  let gone := s.pendings.filter fun x => storeCrosses a b x && (match x.agent with | .holder _ => true | _ => false)
  let s : State := { s with dies := s.dies.map fun (d : Die) => { d with m := { d.m with
    pend := d.m.pend.filter fun x => !gone.any fun y => y.id == x.id } } }
  let firsts := gone.filter fun x => !gone.any fun y => y.id < x.id && y.agent == x.agent && y.pos == x.pos
  if gone.isEmpty then s else settleRegions <| gone.foldl (fun s x => match x.agent with
    | .holder i => match s.h? i with
      | none => s
      | some h =>
        let f := fltTok cLINKDOWN (a * 4 + b) x.line
        let s := faultTaken s h f
        match x.ret with
        | .thread => s.modThOf i fun t => if t.wait == .store x.id then { t with wait := .none } else t
        | .lane c p e _ => fillRob s (i, c, p, e) f
        | .none => match x.copy with
          | some n => failCopy s i n (leastVa gone x.agent n)
          | none => s
    | _ => s) (firsts.foldl lineAccepted s)

/-- The charges of a binding of a holder on die `d` include a link: the link's own, or that of a Cellar stack at its other end (R403). -/
def chargesLink (a b d : Nat) (x : Binding) : Bool :=
  x.charges.any fun c => c.1 == resKey 3 (a * 4 + b) || c.1 == resKey 3 (b * 4 + a) ||
    [0, 1].any fun k => (d == a && c.1 == resKey 5 (b * 2 + k)) || (d == b && c.1 == resKey 5 (a * 2 + k))

/-- Guaranteed bindings of a holder that meet a condition lose their budgets and go on as best effort, with ADMLOST posted (R262, R404). -/
def dropCharges (s : State) (lost : Binding → Bool) (h : Holder) : State :=
  (List.range h.eps.length).foldl (fun s e => match (h.ep e).bind with
    | some x => if x.g && lost x then
        let s := (releaseCharges s x.charges).modH h.id.inst fun h => h.modEp e fun y => { y with
          bind := some { x with g := false, charges := [] }, admLost := true, level := 0 }
        postFault s h.id.pid ⟨cADMLOST, e, h.id.die, 7, h.id.inst, 0, 0⟩
      else s
    | none => s) s

/-- Guaranteed bindings of every holder that meet a condition lose their budgets (R262, R404). -/
def dropAllCharges (s : State) (lost : Holder → Binding → Bool) : State :=
  s.hold.foldl (fun s e => match s.h? e.1 with
    | some h => dropCharges s (lost h) h
    | none => s) s

/-- A die that has lost all three links fails the chain links it holds (R317, R444). -/
def cutDie (s : State) (d : Nat) : State :=
  if !dieLost s d then s
  else (List.range 64).foldl (fun s ch => chainFail s ch d) s

/-- A die-to-die link goes down (R262, R444). -/
def dieLinkDown (s : State) (a b : Nat) : State :=
  let s := devEvent (linkChange s (.die a b) portDown) 1
  let across (d : Nat) (q : Packet) : Bool := q.out.isNone && match s.h? q.dst with
    | some h => (d == a && h.id.die == b) || (d == b && h.id.die == a)
    | none => false
  let s := returnMsgs s (a * 4 + b) across
  let hs := (s.hold.map (·.2)).filter fun h => h.id.die == a || h.id.die == b
  let s := hs.foldl (fun s h =>
    match s.h? h.id.inst with
    | some h => failStreams (failReads (failCopies s a b h) a b h) a b h.id.inst
    | none => s) (failStores s a b)
  cutDie (cutDie (dropAllCharges s fun h => chargesLink a b h.id.die) a) b

/-- Messages that a ZLK port carried, or that go by no port now: they return where no port is left, and else move to another, with
LINKDOWN posted to each (R443). -/
def zlkMessages (old s : State) (p : Nat) : State :=
  if !anyZlkUp s then returnMsgs s p fun _ q => q.out.isSome
  else (List.range 4).foldl (fun s d =>
    ((s.die d).m.net.filter fun q => q.out.any fun k => zlkPortOf old k d == some p).foldl (fun s q => linkPost s q.pid d p q.src 0) s) s

/-- A binding to another package's memory goes by a ZLK port (R404, R442). -/
def bindsZlk (s : State) (p d : Nat) (x : Binding) : Bool :=
  x.host.any fun a => bitAt a 63 && zlkPortOf s (bits a 48 11) d == some p

/-- LINK_DOWN (R262, R443, R444). -/
def execLinkDown (l : LinkId) (s : State) : Out :=
  .next (if !linkIsUp s l then s
    else match l with
      | .die a b => dieLinkDown s (min a b) (max a b)
      | .zlk p =>
        let t := devEvent (linkChange s l portDown) 0
        dropAllCharges (zlkMessages s t p) fun h => bindsZlk s p h.id.die)

end Sys2Proof.Machine
end

