-- ==== Sys2Proof/Machine/Power.lean ====
section
/-! DEFINITION. Reset and boot (R328 to R332, R448), loss of power (R445, R446), temperature and power limits (R447), and the life-cycle (R449). -/

namespace Sys2Proof.Machine

/-! ## Boot -/

/-- Drain every persist buffer (R329). -/
def drainAll (s : State) : State := (List.range 4).foldl drainBuffer s

/-- What a wipe leaves of the memories: the Cellar stacks and the recovery pages (R332), and host memory, which is not the device's. -/
def wipedMem (m : Mem) : Mem :=
  { bytes := m.bytes.filter fun c => inCellar c.1, poison := m.poison.filter fun w => inCellar (4 * w), host := m.host }

/-- The Chain Table entry that record `ch` of a die's recovery page gives (R326, R330). -/
def recordChain (m : Mem) (d ch : Nat) : Option Chain :=
  let a := recovAddr d ch
  let g (off n : Nat) : Nat := memGetN m.bytes (a + off) n
  if !bitAt (g 0 1) 0 then none
  else some
    { st := .orphan, cellar := true, np := g 4 2, epoch := BitVec.ofNat 32 (g 6 2)
      links := (List.range (min (g 1 1) 4)).map fun k => { die := bits (g 2 2) (2 * k) 2, pb := g (8 + 6 * k) 6 * 2 ^ 16 } }

/-- The Chain Table at boot (R330). -/
def bootChains (m : Mem) : Tbl Chain :=
  (List.range 64).foldl (fun t ch => match firstSome (List.range 4) fun d => recordChain m d ch with
    | some c => Tbl.put t ch c
    | none => t) []

/-- The allocation count of a die at boot: one more than the largest ASEQ of an entry of its recovery page (R326). -/
def bootAseq (m : Mem) (d : Nat) : Nat :=
  let used := ((List.range 2048).drop 64).filter fun e => bitAt (memGetN m.bytes (recovAddr d e + 6) 1) 0
  match (used.map fun e => memGetN m.bytes (recovAddr d e + 16) 8).max? with
  | some n => n + 1
  | none => 0

/-- A die's Area Table at boot: the COND of each cell is fixed at the factory, and nothing else is kept (R333). -/
def bootArea (p : DiePlace) : Tbl AreaEnt :=
  p.area.foldr (fun e t => Tbl.set t {} e.1 { cond := e.2.cond }) []

/-- The package after a boot that finds some memories (R448): what stands in fuses, Cellar and host memory stays, and each cell's COND. -/
def boot (s : State) (m : Mem) : State :=
  { State.reset with
    mem := m
    dies := (List.range 4).map fun d => { p := { area := bootArea (s.die d).p }, m := { aseq := bootAseq m d } }
    pkg := { chains := bootChains m }
    host := { fsvn := s.host.fsvn, lifeCycle := s.host.lifeCycle, huok := s.host.huok }
    agenda := s.agenda
    freeCount := s.freeCount }

/-- A reset: buffers drain, memories are wiped, and every die boots (R329, R332, R448). After a loss of power the buffers have drained
already. -/
def resetState (s : State) : State :=
  let s := drainAll s
  boot s (wipedMem s.mem)

/-- RESET (R448). -/
def execReset (s : State) : Out := .next (resetState s)

/-! ## Power -/

/-- PWRFAIL (R445): no further durable store is accepted, every buffer drains, and the package stops. -/
def powerLoss (s : State) : State := (drainAll s).modHost fun h => { h with stopped := true }

/-- PWRFAIL (R445). -/
def execPwrfail (s : State) : Out := .next (powerLoss s)

/-- HUOK_FALL (R446): every buffer drains, and durable stores go through to the stacks. -/
def execHuokFall (s : State) : Out :=
  .next (if s.host.huok then devEvent ((drainAll s).modHost fun h => { h with huok := false }) 2 else s)

/-- HUOK_RISE (R446). -/
def execHuokRise (s : State) : Out := .next (s.modHost fun h => { h with huok := true })

/-- THERMAL_WARNING (R447): firings are gated, at the warning temperature or above PLIM. -/
def execThermalWarning (overPlim : Bool) (s : State) : Out :=
  let s := devEvent (s.modHost fun h => { h with throttle := true }) 3
  .next (if overPlim then s else devEvent s 4)

/-- THROTTLE_END (R447): gating ends, and DEVEVT changes. -/
def execThrottleEnd (s : State) : Out :=
  .next (if s.host.throttle then
      s.modHost fun h => { h with
        throttle := false, devevt := h.devevt &&& ~~~((1 : W64) <<< 3)
        pending := if h.devevt.getLsbD 3 then h.pending ||| 1 else h.pending }
    else s)

/-- THERMAL_TRIP (R447): as a loss of power, and then a reset. -/
def execThermalTrip (s : State) : Out := .next (resetState (powerLoss s))

/-! ## Life-cycle -/

/-- A transition is allowed, and whether it needs a signed token (R449). -/
def transition (a b : Nat) : Option Bool :=
  if b == 4 then some false
  else match a, b with
    | 0, 1 => some true
    | 1, 2 => some false
    | 2, 3 => some true
    | 3, 1 => some true
    | _, _ => none

/-- The reset of a life-cycle change: memories are wiped, and entering RMA or DECOM the Cellar too (R332, R449). -/
def changeLife (s : State) (b : Nat) : State :=
  let s := drainAll (s.modHost fun h => { h with lifeCycle := b })
  boot s (if b == 3 || b == 4 then { host := s.mem.host } else wipedMem s.mem)

/-- The token that the host has written. -/
def tokenBytes (s : State) : List Byte := (List.range 256).map fun i => memGet s.host.token i

/-- The result of a request (R449): 3 malformed or another device, 2 not allowed, 1 a signature that fails, 0 accepted. -/
def lcResult (s : State) : Nat × Nat :=
  let t := tokenBytes s
  match Config.tokenTarget t with
  | none => (3, 0)
  | some b => match transition s.host.lifeCycle b with
    | none => (2, b)
    | some req => if req && !sigOk 1 (Config.tokenSigned t) (t.drop 160) then (1, b) else (0, b)

/-- LCREQ (R449). -/
def execLcreq (v : W64) (s : State) : Out :=
  .next (if v != 1 then s
    else match lcResult s with
      | (0, b) => changeLife s b
      | (e, _) => s.modHost fun h => { h with lcstat := BitVec.ofNat 64 e })

/-! ## Attestation -/

/-- ATCMD (R450). -/
def execAtcmd (v : W64) (s : State) : Out :=
  .next (if v != 1 then s
    else s.modHost fun h => { h with atstat := if h.atstat.getLsbD 63 then 0x8000000000000001 else 0x8000000000000000 })

/-- The report (R450): its body and the signature over it. -/
def attestation (s : State) : List Byte :=
  let q := (s.die 0).q
  let patch := if q.patchImg.isEmpty then List.replicate 48 0 else digestBytes (sha384 q.patchImg)
  let body := Config.reportBody s.host.lifeCycle s.host.fsvn q.patchSvn patch (digestBytes (sha384 controlStore))
    s.host.podid.toNat ((List.range 48).map fun i => memGet s.host.nonce i)
  body ++ identitySign body

/-- ATTESTATION_COMPLETE (R450). -/
def execAttestationComplete (s : State) : Out :=
  .next (if s.host.atstat.getLsbD 63 then
      { s with host := { s.host with report := attestation s, atstat := 0 } }
    else s)

end Sys2Proof.Machine
end

