-- ==== Sys2Proof/Machine/HostPort.lean ====
section
/-! DEFINITION. The host port: device registers (R438), memory through BAR4 and notify pages through BAR2 (R437, R439), interrupts (R440), and transfers from peer packages (R441, R442). -/

namespace Sys2Proof.Machine

/-! ## Registers of their own -/

/-- DEVEVT (R440): write 1 to clear; a change raises vector 0. -/
def execDevevt (v : W64) (s : State) : Out :=
  .next (s.modHost fun h => { h with
    devevt := h.devevt &&& ~~~v
    pending := if h.devevt &&& v == 0 then h.pending else h.pending ||| 1 })

/-- PODID (R441): only the first write after reset takes effect. -/
def execPodid (v : W64) (s : State) : Out :=
  .next (if s.host.podid.getLsbD 63 then s else s.modHost fun h => { h with podid := BitVec.ofNat 64 (2 ^ 63 + bits v.toNat 0 11) })

/-- PLIM (R447): a value out of range is ignored. -/
def execPlim (v : W64) (s : State) : Out :=
  .next (if 600 ≤ v.toNat && v.toNat ≤ 1800 then s.modHost fun h => { h with plim := v } else s)

/-- SVNRAISE (R448). -/
def execSvnraise (v : W64) (s : State) : Out :=
  let q := (s.die 0).q
  .next (if !q.patchImg.isEmpty && s.host.fsvn ≤ v.toNat && v.toNat ≤ q.patchSvn then s.modHost fun h => { h with fsvn := v.toNat } else s)

/-- Word `k` of the MSI-X table: a vector is masked at reset (log 18). -/
def msixWord (h : HostRegs) (k : Nat) : W64 := h.msix.getD k (if k % 2 == 1 then 0x100000000 else 0)

/-- MSIX_MESSAGE (R440): a raised vector that is not masked, while MSI-X is enabled and the function not masked, sends a message, at most
one per µs. -/
def execMsixMessage (v : Nat) (s : State) : Out :=
  let late : Bool := match s.host.msgAt.find v with | some t => t + usCycles ≤ s.now 0 | none => true
  .next (if v < 64 && s.host.msixOn && !s.host.msixMask && s.host.pending.getLsbD v && !(msixWord s.host (2 * v + 1)).getLsbD 32 && late then
      s.modHost fun h => { h with
        pending := h.pending &&& ~~~((1 : W64) <<< v), msgAt := h.msgAt.put v (s.now 0), sent := h.sent ++ [v] }
    else s)

/-! ## Device-register window (R438) -/

/-- The 64 bits of an Area Table entry (R333). -/
def AreaEnt.word (e : AreaEnt) : Nat :=
  e.state * 2 ^ 61 + e.cond % 4 * 2 ^ 59 + b2n e.org * 2 ^ 58 + b2n e.fold * 2 ^ 57 + e.pid % 2 ^ 16 * 2 ^ 32 + e.owner % 2 ^ 32

/-- Eight bytes of a list, little-endian. -/
def listWord (l : List Byte) (off : Nat) : Nat := bytesLE ((l.drop off).take 8)

/-- The identity and life-cycle block (R448 to R450). -/
def identityRead (s : State) (off : Nat) : Nat :=
  let h := s.host
  if off == 0 then h.lifeCycle
  else if off == 0x10 then h.lcstat.toNat
  else if 0x100 ≤ off && off < 0x130 then memGetN h.nonce (off - 0x100) 8
  else if off == 0x188 then h.atstat.toNat
  else if 0x200 ≤ off && off < 0x1000 then listWord h.report (off - 0x200)
  else if 0x1000 ≤ off && off < 0x1100 then memGetN h.token (off - 0x1000) 8
  else if 0x2000 ≤ off then listWord Config.certificate (off - 0x2000)
  else 0

/-- The link block: registers of D0, and the die's port status (R440, R441, R444, R447). -/
def linkRead (s : State) (d off : Nat) : Nat :=
  if 0x100 ≤ off && off < 0x160 then (s.portWord (d, (off - 0x100) / 8)).toNat
  else if d != 0 then 0
  else match off with
    | 0 => s.host.podid.toNat
    | 8 => s.host.devevt.toNat
    | 16 => s.host.plim.toNat
    | _ => 0

/-- The share table (R406). -/
def shareRead (r : DieRegs) (off : Nat) : Nat :=
  if off < 0x200 then (r.shent.getD (off / 8) 0).toNat
  else match off with
    | 0x200 => r.shcap.toNat
    | 0x210 => r.shstat.toNat
    | _ => 0

/-- The MSI-X table and the pending-bit array. -/
def msixRead (s : State) (off : Nat) : Nat :=
  if off < 0x400 then (msixWord s.host (off / 8)).toNat
  else if off == 0x800 then s.host.pending.toNat
  else 0

/-- The aligned 8 bytes at an offset of a die's block (R438); offsets not listed read 0. -/
def regRead (s : State) (d off : Nat) : Nat :=
  let x := s.die d
  let o := off % 0x10000
  match off / 0x10000 with
  | 0 => (match o with | 0 => x.q.aarg.toNat | 8 => x.q.acmd.toNat | 16 => x.q.astat.toNat | _ => 0)
  | 1 => (match o with | 0 => x.r.xinva.toNat | 8 => x.r.xinvl.toNat | 24 => x.r.xinvs.toNat | _ => 0)
  | 2 => (match o with | 0 => x.r.prtgt.toNat | 16 => x.r.prstat.toNat | _ => 0)
  | 3 => shareRead x.r o
  | 4 => linkRead s d o
  | 5 => if d == 0 && o < 0x800 then (s.host.intMap.getD (o / 8) 0).toNat else 0
  | 6 => if d == 0 then identityRead s o else 0
  | 7 => if d == 0 then msixRead s o else 0
  | 8 => if o < 0x1000 then (s.area d (o / 8)).word else 0
  | 16 => memGetN s.mem.bytes (recoveryPage d + o) 8
  | _ => 0

/-- REGISTER_WRITE (R438): a register that only holds what is written to it. -/
def execRegisterWrite (d off : Nat) (v : W64) (s : State) : Out :=
  let o := off % 0x10000
  .next (if off % 8 != 0 || 4 ≤ d then s
    else match off / 0x10000 with
      | 0 => if o == 0 then s.modQ d fun q => { q with aarg := v } else s
      | 1 => if o == 0 then s.modR d fun r => { r with xinva := v }
             else if o == 8 then s.modR d fun r => { r with xinvl := v } else s
      | 2 => if o == 0 then s.modR d fun r => { r with prtgt := v } else s
      | 3 => if o < 0x200 then s.modR d fun r => { r with shent := r.shent.put (o / 8) v }
             else if o == 0x200 then s.modR d fun r => { r with shcap := v } else s
      | 5 => if d == 0 && o < 0x800 then s.modHost fun h => { h with intMap := h.intMap.put (o / 8) (v &&& 0x8000FFFF0000003F) } else s
      | 6 =>
        if d != 0 then s
        else if 0x100 ≤ o && o < 0x130 then s.modHost fun h => { h with nonce := memSetN h.nonce (o - 0x100) 8 v.toNat }
        else if 0x1000 ≤ o && o < 0x1100 then s.modHost fun h => { h with token := memSetN h.token (o - 0x1000) 8 v.toNat }
        else s
      | 7 => if d == 0 && o < 0x400 then s.modHost fun h => { h with msix := h.msix.put (o / 8) v } else s
      | _ => s)

/-- A write to ACMD (R283). DESIGN CHOICE (log 42): one that finds BUSY set is ignored. -/
def acmdWrite (d : Nat) (v : W64) (s : State) : Out :=
  if bitAt (s.die d).q.astat.toNat 63 then .next s
  else match v.toNat with
  | 1 => execCtxset d s
  | 2 => execQcreate d s
  | 3 => execQdestroy d s
  | 4 => execQstart d s
  | 5 => execPatch d s
  | _ => execAcmdUnassigned d v s

/-- A write to PRCMD (R419). -/
def prcmdWrite (d : Nat) (v : W64) (s : State) : Out :=
  match bits v.toNat 0 8 with
  | 1 => execRack d s
  | 2 => execResume d s
  | 3 => execDiscard d s
  | _ => .next s

/-- A write to an offset of a die's block (R438). -/
def regWrite (d off : Nat) (v : W64) (s : State) : Out :=
  match off with
  | 0x8 => acmdWrite d v s
  | 0x10010 => execXinv d v s
  | 0x20008 => prcmdWrite d v s
  | 0x30208 => execShareCommit d v s
  | 0x40000 => if d == 0 then execPodid v s else .next s
  | 0x40008 => if d == 0 then execDevevt v s else .next s
  | 0x40010 => if d == 0 then execPlim v s else .next s
  | 0x60008 => if d == 0 then execLcreq v s else .next s
  | 0x60040 => if d == 0 then execSvnraise v s else .next s
  | 0x60180 => if d == 0 then execAtcmd v s else .next s
  | _ => execRegisterWrite d off v s

/-! ## BAR4 -/

/-- A storage address lies in a recovery page, which BAR4 does not reach (R438). -/
def inRecovery (pa : Nat) : Bool := (List.range 4).any fun d => recoveryPage d ≤ pa && pa < recoveryPage d + 65536

/-- One byte of device memory through BAR4. -/
def barByte (s : State) (pa : Nat) : Nat :=
  let a := normPa pa
  if inRecovery a then 0
  else match s.byteAt 0 ⟨if inCellar a then 3 else 1, a, 0⟩ with
    | some b => b.toNat
    | none => 0

/-- `n` bytes through BAR4. -/
def barRead (s : State) (pa : Nat) : Nat → Nat
  | 0 => 0
  | n + 1 => barByte s pa + 256 * barRead s (pa + 1) n

/-- Make room in a full persist buffer for a line that is not in it (R323). -/
def makeRoom (s : State) (pa : Nat) : State :=
  let d := dieOfPa pa
  let b := (s.die d).m.pb
  if inCellar pa && s.host.huok && pbLines ≤ b.length && (b.find (pa / 64)).isNone then
    match b with
    | (k, l) :: rest =>
      (s.modMem fun m => { m with
        bytes := memSetMask m.bytes (64 * k) (-1) l.val
        poison := markPoison m.poison (64 * k) l.psn (~~~l.psn) }).modM d fun m => { m with pb := rest }
    | [] => s
  else s

/-- Write some bytes inside one line through BAR4; a host write to the Cellar is durable when it is accepted (R324, R438). -/
def barWrite (s : State) (pa n v : Nat) : State :=
  let a := normPa pa
  if inRecovery a then s
  else (makeRoom s a).writeNow ⟨if inCellar a then 3 else 1, a, 0⟩ (byteMask (a % 64) n) (lineOf (a % 64) (v % 256 ^ n)) 0

/-- The ingress position, of a range in ingress mode, whose word holds a byte of storage (R293, R295). -/
def iposAt (s : State) (a : Nat) : Bool :=
  s.pkg.ctxs.any fun c => (List.range 256).any fun hh =>
    ingress s c.1 hh && hbmAt s c.1 (iposVa hh) false == some (a / 8 * 8)

/-- A host write of up to 8 bytes through BAR4: the part in one line, then the rest. An ingress position is taken only from an aligned
8-byte write; a word that may be one, of a range not yet in ingress mode, takes the value as it is (R293, R295, log 43). -/
def bar4Write (s : State) (pa n : Nat) (v : W64) : State :=
  if iposAt s (normPa pa) || iposAt s (normPa (pa + n - 1)) then
    if n == 8 && pa % 8 == 0 then iposWrite s (normPa pa) v else s
  else
    let k := min n (64 - pa % 64)
    let s := barWrite s pa k v.toNat
    if n == 8 && pa % 32 == 16 && !inCellar (normPa pa) then iposTake s (normPa pa) v
    else if k < n then barWrite s (pa + k) (n - k) (v.toNat / 256 ^ k) else s

/-- Every byte of a BAR4 access has an assigned address (R439). -/
def bar4Ok (pa n : Nat) : Bool := (List.range n).all fun i => paAssigned (pa + i)

/-! ## Host requests -/

/-- The BAR that a host request reaches: its kind, and the offset in it. The model numbers BAR4, BAR2 and BAR0 from 0, 2^42 and
2^43. -/
inductive BarHit where
  | mem (pa : Nat)
  | notify (pkg d page off : Nat)
  | reg (d off : Nat)
  | none_
deriving DecidableEq, Repr

/-- Where a request of `n` bytes lands; nowhere when it crosses a BAR boundary or breaks R439. -/
def barOf (a n : Nat) : BarHit :=
  if a + n ≤ 2 ^ 42 then (if bar4Ok a n then .mem a else .none_)
  else if 2 ^ 42 ≤ a && a + n ≤ 2 ^ 42 + 2 ^ 37 then
    let o := a - 2 ^ 42
    if (n == 4 || n == 8) && a % n == 0 then .notify (bits o 26 11) (bits o 24 2) (bits o 12 12) (bits o 0 12) else .none_
  else if 2 ^ 43 ≤ a && a + n ≤ 2 ^ 43 + 2 ^ 26 then .reg ((a - 2 ^ 43) / 2 ^ 24) ((a - 2 ^ 43) % 2 ^ 24)
  else .none_

/-- The completion status of the last host request. -/
def completed (s : State) (ok : Bool) : State := s.modHost fun h => { h with unsupported := !ok, readData := none }

/-- An aligned 8-byte word with 4 of its bytes replaced. -/
def putWord (w off v : Nat) : Nat := if off % 8 == 0 then w / 2 ^ 32 * 2 ^ 32 + v % 2 ^ 32 else v % 2 ^ 32 * 2 ^ 32 + w % 2 ^ 32

/-- HOST_WRITE (R437, R439): a write of up to 8 bytes. -/
def execHostWrite (pa len : Nat) (v : W64) (s : State) : Out :=
  let s' := completed s true
  if len == 0 || 8 < len then .next s
  else match barOf pa len with
    | .mem a => .next (bar4Write s' a len v)
    | .notify pkg d page off =>
      if pkg == bits s.host.podid.toNat 0 11 then execWidx d page off len v s'
      else .next (if anyZlkUp s then s'.modPkg fun k => { k with peerOut := k.peerOut ++ [.nwr pkg d page off len v] } else s')
    | .reg d off =>
      if len == 8 && off % 8 == 0 then regWrite d off v s'
      -- the MSI-X table takes 4-byte writes too, as PCI Express has it (log 18)
      else if len == 4 && off % 4 == 0 && off / 0x10000 == 7 then
        regWrite d (off / 8 * 8) (BitVec.ofNat 64 (putWord (regRead s d (off / 8 * 8)) off v.toNat)) s'
      else .next s'
    | .none_ => .next (completed s false)

/-- `n` bytes of the device-register window from an offset (R438). -/
def regBytes (s : State) (a : Nat) : Nat → Nat
  | 0 => 0
  | n + 1 => bits (regRead s (a / 2 ^ 24) (a % 2 ^ 24 / 8 * 8)) (8 * (a % 8)) 8 + 256 * regBytes s (a + 1) n

/-- `n` bytes of an aligned 8-byte word. -/
def partWord (w off n : Nat) : Nat := bits w (8 * (off % 8)) (8 * n)

/-- HOST_READ (R437, R439): the data are returned, or the request is not supported. -/
def execHostRead (pa len : Nat) (s : State) : Out :=
  let give (v : Nat) : State := s.modHost fun h => { h with unsupported := false, readData := some v }
  .next (if len == 0 then s
    else match barOf pa len with
      | .mem a => give (barRead s a len)
      | .notify pkg d page off =>
        if pkg == bits s.host.podid.toNat 0 11 then
          give (match pageQueue s d page with | some q => partWord (notifyRead q (off / 8 * 8)) off len | none => 0)
        else completed s false
      | .reg d off => give (regBytes s (d * 2 ^ 24 + off) len)
      | .none_ => completed s false)

/-! ## Peer packages -/

/-- What leaves over ZLK (R442). -/
def goesOut (s : State) (x : PeerOut) : State := s.modPkg fun k => { k with peerOut := k.peerOut ++ [x] }

/-- ZLK_TRANSFER (R441, R442): once PODID is set and a port is up, a message is matched and its answer leaves, a notify write is
classified, and a line reaches memory as a host access does: a write changes it, and what a read finds leaves, none where it returns no
data. -/
def execZlkTransfer (x : Zlk) (s : State) : Out :=
  if !s.host.podid.getLsbD 63 || !anyZlkUp s then .next s
  else match x with
    | .msg pkg src dst tag ws =>
      let pid := match s.h? dst with | some h => h.id.pid | none => 0
      let (st, s) := arrive s pid dst { src := src, pkg := pkg, remote := true, tag := tag, words := ws.take 8 }
      .next (goesOut s (.answer pkg src st))
    | .nwr d page off len v => execWidx d page off len v s
    | .memWrite pa len v => .next (if pa + len ≤ 2 ^ 42 && bar4Ok pa len && len ≤ 8 && len != 0 then bar4Write s pa len v else s)
    | .memRead pa len => .next (goesOut s (.data pa len (if pa + len ≤ 2 ^ 42 && bar4Ok pa len then some (barRead s pa len) else none)))

end Sys2Proof.Machine
end

