-- ==== Sys2Proof/Machine/IntOps.lean ====
section
/-! DEFINITION. The integer functions of majors 0x00 and 0x02 and the I-format arithmetic (R134 to R138). -/

namespace Sys2Proof.Machine

/-! ## Functions -/

/-- A shift or rotate amount: bits 5:0 (R135). -/
def amount (b : W64) : Nat := b.toNat % 64
def opSll (a b : W64) : W64 := a <<< amount b
def opSrl (a b : W64) : W64 := a >>> amount b
def opSra (a b : W64) : W64 := a.sshiftRight (amount b)
def opRol (a b : W64) : W64 := a.rotateLeft (amount b)
def opRor (a b : W64) : W64 := a.rotateRight (amount b)
def opAndn (a b : W64) : W64 := a &&& ~~~b
/-- Bits 127:64 of the signed product. -/
def opMulh (a b : W64) : W64 := BitVec.ofInt 64 (a.toInt * b.toInt / 2 ^ 64)
/-- Bits 127:64 of the unsigned product. -/
def opMulhu (a b : W64) : W64 := BitVec.ofNat 64 (a.toNat * b.toNat / 2 ^ 64)
/-- DIV rounds toward zero; b = 0 gives −1, and −2^63 ÷ −1 gives −2^63 (R136). -/
def opDiv (a b : W64) : W64 := if b = 0 then -1 else BitVec.ofInt 64 (a.toInt.tdiv b.toInt)
def opDivu (a b : W64) : W64 := if b = 0 then -1 else BitVec.ofNat 64 (a.toNat / b.toNat)
/-- The remainder takes the sign of a; b = 0 gives a (R136). -/
def opRem (a b : W64) : W64 := if b = 0 then a else BitVec.ofInt 64 (a.toInt.tmod b.toInt)
def opRemu (a b : W64) : W64 := if b = 0 then a else BitVec.ofNat 64 (a.toNat % b.toNat)
def opMin (a b : W64) : W64 := if ltS b a then b else a
def opMax (a b : W64) : W64 := if ltS a b then b else a
def opMinu (a b : W64) : W64 := if ltU b a then b else a
def opMaxu (a b : W64) : W64 := if ltU a b then b else a
/-- SEL reads d before it is written (R135). -/
def opSel (d a b : W64) : W64 := if d ≠ 0 then a else b
/-- Leading zero bits, 0 to 64. -/
def opClz (a : W64) : W64 := BitVec.ofNat 64 (if a = 0 then 64 else 63 - Nat.log2 a.toNat)
/-- One bits, 0 to 64. -/
def opPopc (a : W64) : W64 := BitVec.ofNat 64 ((List.range 64).foldl (fun n i => n + b2n (a.getLsbD i)) 0)

/-- BFX of R138 with its offset and width. -/
def bfExtract (a : W64) (off wid : Nat) : W64 :=
  if wid = 0 ∨ 64 ≤ off then 0
  else (a >>> off) &&& BitVec.ofNat 64 (2 ^ min wid (64 - off) - 1)

/-- BFI of R138 with its offset and width. -/
def bfInsert (d a : W64) (off wid : Nat) : W64 :=
  if wid = 0 ∨ 64 ≤ off then d
  else
    let m : W64 := BitVec.ofNat 64 (2 ^ min wid (64 - off) - 1) <<< off
    (d &&& ~~~m) ||| ((a <<< off) &&& m)

/-- BFX takes off from b bits 7:0 and wid from b bits 15:8 (R80). -/
def opBfx (a b : W64) : W64 := bfExtract a (bits b.toNat 0 8) (bits b.toNat 8 8)
def opBfi (d a b : W64) : W64 := bfInsert d a (bits b.toNat 0 8) (bits b.toNat 8 8)

/-- Sign extension from bit `n - 1`. -/
def opSx (n : Nat) (a : W64) : W64 := (a.setWidth n).signExtend 64

/-! ## Instructions of majors 0x00 and 0x02 (R134, R135) -/

/-- ADD_E (R135). -/
def execAddE (f : R3) (s : State) : Out := finish s (alu3 true (· + ·) f)
/-- SUB_E (R135). -/
def execSubE (f : R3) (s : State) : Out := finish s (alu3 true (· - ·) f)
/-- AND_E (R135). -/
def execAndE (f : R3) (s : State) : Out := finish s (alu3 true (· &&& ·) f)
/-- OR_E (R135). -/
def execOrE (f : R3) (s : State) : Out := finish s (alu3 true (· ||| ·) f)
/-- XOR_E (R135). -/
def execXorE (f : R3) (s : State) : Out := finish s (alu3 true (· ^^^ ·) f)
/-- ANDN_E (R135). -/
def execAndnE (f : R3) (s : State) : Out := finish s (alu3 true opAndn f)
/-- SLL_E (R135). -/
def execSllE (f : R3) (s : State) : Out := finish s (alu3 true opSll f)
/-- SRL_E (R135). -/
def execSrlE (f : R3) (s : State) : Out := finish s (alu3 true opSrl f)
/-- SRA_E (R135). -/
def execSraE (f : R3) (s : State) : Out := finish s (alu3 true opSra f)
/-- ROL (R135). -/
def execRol (f : R3) (s : State) : Out := finish s (alu3 true opRol f)
/-- ROR (R135). -/
def execRor (f : R3) (s : State) : Out := finish s (alu3 true opRor f)
/-- MUL_E (R135). -/
def execMulE (f : R3) (s : State) : Out := finish s (alu3 true (· * ·) f)
/-- MULH (R135). -/
def execMulh (f : R3) (s : State) : Out := finish s (alu3 true opMulh f)
/-- MULHU (R135). -/
def execMulhu (f : R3) (s : State) : Out := finish s (alu3 true opMulhu f)
/-- DIV (R136). -/
def execDiv (f : R3) (s : State) : Out := finish s (alu3 true opDiv f)
/-- DIVU (R136). -/
def execDivu (f : R3) (s : State) : Out := finish s (alu3 true opDivu f)
/-- REM (R136). -/
def execRem (f : R3) (s : State) : Out := finish s (alu3 true opRem f)
/-- REMU (R136). -/
def execRemu (f : R3) (s : State) : Out := finish s (alu3 true opRemu f)
/-- MIN_E (R135). -/
def execMinE (f : R3) (s : State) : Out := finish s (alu3 true opMin f)
/-- MAX_E (R135). -/
def execMaxE (f : R3) (s : State) : Out := finish s (alu3 true opMax f)
/-- MINU_E (R135). -/
def execMinuE (f : R3) (s : State) : Out := finish s (alu3 true opMinu f)
/-- MAXU_E (R135). -/
def execMaxuE (f : R3) (s : State) : Out := finish s (alu3 true opMaxu f)
/-- SEQ_E (R135). -/
def execSeqE (f : R3) (s : State) : Out := finish s (alu3 true opSeq f)
/-- SNE_E (R135). -/
def execSneE (f : R3) (s : State) : Out := finish s (alu3 true opSne f)
/-- SLT_E (R135). -/
def execSltE (f : R3) (s : State) : Out := finish s (alu3 true opSlt f)
/-- SLTU_E (R135). -/
def execSltuE (f : R3) (s : State) : Out := finish s (alu3 true opSltu f)
/-- BFX (R138). -/
def execBfx (f : R3) (s : State) : Out := finish s (alu3 true opBfx f)
/-- ADD_A (R135). -/
def execAddA (f : R3) (s : State) : Out := finish s (alu3 false (· + ·) f)
/-- SUB_A (R135). -/
def execSubA (f : R3) (s : State) : Out := finish s (alu3 false (· - ·) f)
/-- AND_A (R135). -/
def execAndA (f : R3) (s : State) : Out := finish s (alu3 false (· &&& ·) f)
/-- OR_A (R135). -/
def execOrA (f : R3) (s : State) : Out := finish s (alu3 false (· ||| ·) f)
/-- XOR_A (R135). -/
def execXorA (f : R3) (s : State) : Out := finish s (alu3 false (· ^^^ ·) f)
/-- ANDN_A (R135). -/
def execAndnA (f : R3) (s : State) : Out := finish s (alu3 false opAndn f)
/-- SLL_A (R135). -/
def execSllA (f : R3) (s : State) : Out := finish s (alu3 false opSll f)
/-- SRL_A (R135). -/
def execSrlA (f : R3) (s : State) : Out := finish s (alu3 false opSrl f)
/-- SRA_A (R135). -/
def execSraA (f : R3) (s : State) : Out := finish s (alu3 false opSra f)
/-- MUL_A (R135). -/
def execMulA (f : R3) (s : State) : Out := finish s (alu3 false (· * ·) f)
/-- MIN_A (R135). -/
def execMinA (f : R3) (s : State) : Out := finish s (alu3 false opMin f)
/-- MAX_A (R135). -/
def execMaxA (f : R3) (s : State) : Out := finish s (alu3 false opMax f)
/-- MINU_A (R135). -/
def execMinuA (f : R3) (s : State) : Out := finish s (alu3 false opMinu f)
/-- MAXU_A (R135). -/
def execMaxuA (f : R3) (s : State) : Out := finish s (alu3 false opMaxu f)
/-- SEQ_A (R135). -/
def execSeqA (f : R3) (s : State) : Out := finish s (alu3 false opSeq f)
/-- SNE_A (R135). -/
def execSneA (f : R3) (s : State) : Out := finish s (alu3 false opSne f)
/-- SLT_A (R135). -/
def execSltA (f : R3) (s : State) : Out := finish s (alu3 false opSlt f)
/-- SLTU_A (R135). -/
def execSltuA (f : R3) (s : State) : Out := finish s (alu3 false opSltu f)
/-- SEL (R135). -/
def execSel (f : RT) (s : State) : Out := finish s (aluT true opSel f)
/-- BFI (R138). -/
def execBfi (f : RT) (s : State) : Out := finish s (aluT true opBfi f)
/-- CLZ (R135). -/
def execClz (f : R2) (s : State) : Out := finish s (alu2 true opClz f)
/-- POPC (R135). -/
def execPopc (f : R2) (s : State) : Out := finish s (alu2 true opPopc f)
/-- MOV_E (R135). -/
def execMovE (f : R2) (s : State) : Out := finish s (alu2 true id f)
/-- SXB (R135). -/
def execSxb (f : R2) (s : State) : Out := finish s (alu2 true (opSx 8) f)
/-- SXH (R135). -/
def execSxh (f : R2) (s : State) : Out := finish s (alu2 true (opSx 16) f)
/-- SXW (R135). -/
def execSxw (f : R2) (s : State) : Out := finish s (alu2 true (opSx 32) f)
/-- MOV_A (R135). -/
def execMovA (f : R2) (s : State) : Out := finish s (alu2 false id f)

/-! ## Immediates (R137, R138) -/

/-- ADDI_E (R137). -/
def execAddiE (f : I3) (s : State) : Out := aluI true (· + ·) true f s
/-- ANDI_E (R137). -/
def execAndiE (f : I3) (s : State) : Out := aluI true (· &&& ·) false f s
/-- ORI_E (R137). -/
def execOriE (f : I3) (s : State) : Out := aluI true (· ||| ·) false f s
/-- XORI_E (R137). -/
def execXoriE (f : I3) (s : State) : Out := aluI true (· ^^^ ·) false f s
/-- SLTI_E (R137). -/
def execSltiE (f : I3) (s : State) : Out := aluI true opSlt true f s
/-- SLTIU_E (R137). -/
def execSltiuE (f : I3) (s : State) : Out := aluI true opSltu true f s
/-- MOVI_E (R137). -/
def execMoviE (d : Reg) (imm : BitVec 16) (s : State) : Out := finish s fun t => .ok (t.set true d (immS t imm))
/-- MOVHI_E (R137): the immediate shifted left by 32. -/
def execMovhiE (d : Reg) (imm : BitVec 16) (s : State) : Out := finish s fun t => .ok (t.set true d (immZ t imm <<< 32))
/-- SLLI_E (R137). -/
def execSlliE (f : Sh) (s : State) : Out := finish s fun t => .ok (t.set true f.d (t.get true f.a <<< f.n.val))
/-- SRLI_E (R137). -/
def execSrliE (f : Sh) (s : State) : Out := finish s fun t => .ok (t.set true f.d (t.get true f.a >>> f.n.val))
/-- SRAI_E (R137). -/
def execSraiE (f : Sh) (s : State) : Out := finish s fun t => .ok (t.set true f.d ((t.get true f.a).sshiftRight f.n.val))
/-- ADDI_A (R137). -/
def execAddiA (f : I3) (s : State) : Out := aluI false (· + ·) true f s
/-- ANDI_A (R137). -/
def execAndiA (f : I3) (s : State) : Out := aluI false (· &&& ·) false f s
/-- ORI_A (R137). -/
def execOriA (f : I3) (s : State) : Out := aluI false (· ||| ·) false f s
/-- XORI_A (R137). -/
def execXoriA (f : I3) (s : State) : Out := aluI false (· ^^^ ·) false f s
/-- SLTI_A (R137). -/
def execSltiA (f : I3) (s : State) : Out := aluI false opSlt true f s
/-- SLTIU_A (R137). -/
def execSltiuA (f : I3) (s : State) : Out := aluI false opSltu true f s
/-- MOVI_A (R137). -/
def execMoviA (d : Reg) (imm : BitVec 16) (s : State) : Out := finish s fun t => .ok (t.set false d (immS t imm))
/-- MOVHI_A (R137): the immediate shifted left by 32. -/
def execMovhiA (d : Reg) (imm : BitVec 16) (s : State) : Out := finish s fun t => .ok (t.set false d (immZ t imm <<< 32))
/-- SLLI_A (R137). -/
def execSlliA (f : Sh) (s : State) : Out := finish s fun t => .ok (t.set false f.d (t.get false f.a <<< f.n.val))
/-- SRLI_A (R137). -/
def execSrliA (f : Sh) (s : State) : Out := finish s fun t => .ok (t.set false f.d (t.get false f.a >>> f.n.val))
/-- SRAI_A (R137). -/
def execSraiA (f : Sh) (s : State) : Out := finish s fun t => .ok (t.set false f.d ((t.get false f.a).sshiftRight f.n.val))
/-- BFXI (R138). -/
def execBfxi (f : Bf) (s : State) : Out := finish s fun t => .ok (t.setS f.d (bfExtract (t.s f.a) f.off.val f.wid.val))
/-- BFII (R138). -/
def execBfii (f : Bf) (s : State) : Out := finish s fun t => .ok (t.setS f.d (bfInsert (t.s f.d) (t.s f.a) f.off.val f.wid.val))

end Sys2Proof.Machine
end

