-- ==== Sys2Proof/Machine/Joint.lean ====
section
/-! DEFINITION. Elements that fire on one token in one cycle (R219, R220): a step that takes a token at a 0-slot link completes only with every other consumer of that token. -/

namespace Sys2Proof.Machine

/-- The sources of a cell whose token some consumer has taken and others have not. -/
def CellSt.begun (x : CellSt) (c : Nat) : List Source :=
  (x.outs.filter fun o => !o.2.took.isEmpty).map (fun o => .port c o.1) ++
  (if x.lout.took.isEmpty then [] else [.port c idLuti]) ++
  (x.links.filter fun l => !l.2.took.isEmpty).map (fun l => .link (.ofKey c l.1)) ++
  (x.merges.filter fun m => 128 ≤ m.1 && !m.2.took.isEmpty).map fun m => .edge c ((m.1 - 128) / 128) ((m.1 - 128) % 128)

/-- What still has to take a token that has begun to leave its source. -/
def Holder.owed (h : Holder) : List (Source × Nat) :=
  (h.dp.cells.zipIdx.flatMap fun (x, c) => x.begun c).flatMap fun src =>
    (h.together src).flatMap fun y => (h.due y).map fun k => (y, k)

/-- The steps of an element that may take the head at an input port. -/
def takeSteps (h : Holder) (i c id : Nat) : List (State → Out) :=
  let cfg := cfgApplyStep i c ⟨id / 16, id % 16⟩
  match id / 16 with
  | 0 => (match h.stageIn c id with | some k => [stageFireStep i c k] | none => []) ++ [cfg]
  | 1 => [mxrowStep i c, mxWeightTokenStep i c, mxSegmentEndStep i c, cfg]
  | 2 =>
    let p := (id - 32) / 2
    if id == idReord then [reorderEmitStep i c] else if id == idCturn then [cornerTurnEmitStep i c]
    else [murdRequestStep i c p, muwrWriteStep i c p, cbWriteStep i c p, muatUpdateStep i c p, musvWriteStep i c p, cfg]
  | _ =>
    if id == idLuti then [lutiFireStep i c, cfg] else if id == idXlat then [xlatTranslateStep i c, cfg]
    else [agenEmitStep i c (id - 48), cfg]

/-- The steps that may take a source's token under a code: of an OUT endpoint, of a merge, or of an element. -/
def joiners (h : Holder) (i : Nat) (src : Source) (code : Nat) : List (State → Out) :=
  if code == epCode then
    match src with
    | .port c id => [elementFireStep i c (.emit ⟨id / 16, id % 16⟩)]
    | _ => []
  else
    let r := DstRef.ofCode code
    match h.leads r with
    | none => []
    | some d =>
      if 64 ≤ d then [swmMergeStep i r.cell ⟨d / 16, d % 16 + 16 * r.tile⟩]
      else if h.merged r.cell d then [swmMergeStep i r.cell ⟨d / 16, d % 16⟩]
      else takeSteps h i r.cell d

/-- Let the other consumers take what has begun to leave, one after another; none when one of them cannot. -/
def settle (i : Nat) : Nat → State → Option State
  | 0, _ => none
  | fuel + 1, s =>
    match s.h? i with
    | none => some s
    | some h =>
      match h.active, h.owed with
      | true, (src, code) :: _ =>
        (firstSome (joiners h i src code) fun f => match f s with
          | .next t => if (t.h? i).any fun g => g.active && (g.due src).contains code then none else some t
          | _ => none).bind (settle i fuel)
      | _, _ => some s

/-- A step of a region that may take tokens at 0-slot links: it happens with the other consumers of those tokens, or not at all
(R219, R220). -/
def joint (i : Nat) (s : State) (r : Out) : Out :=
  match r with
  | .next t => .next ((settle i (64 * hopFuel) t).getD s)
  | r => r

/-- STAGE_FIRE (R162, R163). -/
def execStageFire (i c k : Nat) (s : State) : Out := joint i s (stageFireStep i c k s)

/-- LUTI_FIRE (R198). -/
def execLutiFire (i c : Nat) (s : State) : Out := joint i s (lutiFireStep i c s)

/-- SWM_MERGE (R221). -/
def execSwmMerge (i c : Nat) (p : PortId) (s : State) : Out := joint i s (swmMergeStep i c p s)

/-- MX_WEIGHT_TOKEN (R202). -/
def execMxWeightToken (i c : Nat) (s : State) : Out := joint i s (mxWeightTokenStep i c s)

/-- MXROW (R203). -/
def execMxrow (i c : Nat) (s : State) : Out := joint i s (mxrowStep i c s)

/-- MX_SEGMENT_END (R205). -/
def execMxSegmentEnd (i c : Nat) (s : State) : Out := joint i s (mxSegmentEndStep i c s)

/-- CFG_APPLY (R235). -/
def execCfgApply (i c : Nat) (p : PortId) (s : State) : Out := joint i s (cfgApplyStep i c p s)

/-- MURD_REQUEST (R237). -/
def execMurdRequest (i c p : Nat) (s : State) : Out := joint i s (murdRequestStep i c p s)

/-- MUWR_WRITE (R237). -/
def execMuwrWrite (i c p : Nat) (s : State) : Out := joint i s (muwrWriteStep i c p s)

/-- MUAT_UPDATE (R238). -/
def execMuatUpdate (i c p : Nat) (s : State) : Out := joint i s (muatUpdateStep i c p s)

/-- MUSV_WRITE (R239). -/
def execMusvWrite (i c p : Nat) (s : State) : Out := joint i s (musvWriteStep i c p s)

/-- CB_WRITE (R242). -/
def execCbWrite (i c p : Nat) (s : State) : Out := joint i s (cbWriteStep i c p s)

/-- REORDER_EMIT (R243). -/
def execReorderEmit (i c : Nat) (s : State) : Out := joint i s (reorderEmitStep i c s)

/-- CORNER_TURN_EMIT (R244). -/
def execCornerTurnEmit (i c : Nat) (s : State) : Out := joint i s (cornerTurnEmitStep i c s)

/-- XLAT_TRANSLATE (R361). -/
def execXlatTranslate (i c : Nat) (s : State) : Out := joint i s (xlatTranslateStep i c s)

/-- AGEN_EMIT (R395). -/
def execAgenEmit (i c g : Nat) (s : State) : Out := joint i s (agenEmitStep i c g s)

/-- ELEMENT_FIRE (R219). -/
def execElementFire (i c : Nat) (x : Mover) (s : State) : Out := joint i s (elementFireStep i c x s)

end Sys2Proof.Machine
end

