-- ==== Sys2Proof/Machine/LoadStore.lean ====
section
/-! DEFINITION. Loads and stores (R300) and atomics (R301). -/

namespace Sys2Proof.Machine

/-- A load into a-register d, or LQ when d = 0 (R300). QUEUE comes before ALIGN (R121). -/
def load (n : Nat) (f : I3) (s : State) : Out :=
  withMe s fun h =>
    let addr := addrOf h.th f.a f.imm
    if f.d = 0 && 16 ≤ h.th.lq.length then trapQueue s 1
    else accEnd s addr (do
      let r ← ctLoad s h addr n
      match r with
      | (none, s) => .ok s
      | (some v, s) =>
        let w : W64 := BitVec.ofNat 64 v
        .ok (s.retire fun t => if f.d = 0 then { t with lq := t.lq ++ [w] } else t.setA f.d w))

/-- A store from an a-register (R300). -/
def store (n : Nat) (f : I3) (s : State) : Out :=
  withMe s fun h =>
    let addr := addrOf h.th f.a f.imm
    accEnd s addr (do
      let s ← ctStore s h addr n (h.th.a f.d).toNat
      .ok (s.retire id))

/-- A store of a word popped from SQ; a trapping access pops nothing (R300). -/
def storeSq (n : Nat) (a : Reg) (imm : BitVec 16) (s : State) : Out :=
  withMe s fun h =>
    let addr := addrOf h.th a imm
    match h.th.sq with
    | [] => trapQueue s 2
    | v :: q => accEnd s addr (do
      let s ← ctStore s h addr n v.toNat
      .ok (s.retire fun t => { t with sq := q }))

/-- The queue checks of an atomic (R120): b from SQ, the old value to LQ. -/
def atomicQueues (t : Thread) (qd qb : Bool) : Option Nat :=
  if qb && t.sq.isEmpty then some 2
  else if qd && 16 ≤ t.lq.length then some 1
  else none

/-- An atomic (R301): d receives the old value, zero-extended. -/
def atomic (n : Nat) (op : AtomicOp) (d a b : Reg) (qd qb : Bool) (s : State) : Out :=
  withMe s fun h =>
    let addr := h.th.a a
    let bv := if qb then h.th.sq.headD 0 else h.th.a b
    match atomicQueues h.th qd qb with
    | some i => trapQueue s i
    | none => accEnd s addr (do
      let r ← ctAtomic s h addr n op bv.toNat
      match r with
      | (none, s) => .ok s
      | (some old, s) =>
        let w : W64 := BitVec.ofNat 64 old
        .ok (s.retire fun t =>
          let t := if qb then { t with sq := t.sq.tail } else t
          if qd then { t with lq := t.lq ++ [w] } else t.setA d w))

/-- ACAS compares with d, which is read before it is written (R301). -/
def acas (n : Nat) (f : RC) (s : State) : Out :=
  withMe s (fun h => match atomic n (.cas (h.th.a f.d).toNat) f.d f.a f.b false f.qb s with
    | .next s' => s'
    | _ => s)

/-- LD_B (R300). -/
def execLdB (f : I3) (s : State) : Out := load 1 f s
/-- LD_H (R300). -/
def execLdH (f : I3) (s : State) : Out := load 2 f s
/-- LD_W (R300). -/
def execLdW (f : I3) (s : State) : Out := load 4 f s
/-- LD_D (R300). -/
def execLdD (f : I3) (s : State) : Out := load 8 f s
/-- ST_B (R300). -/
def execStB (f : I3) (s : State) : Out := store 1 f s
/-- ST_H (R300). -/
def execStH (f : I3) (s : State) : Out := store 2 f s
/-- ST_W (R300). -/
def execStW (f : I3) (s : State) : Out := store 4 f s
/-- ST_D (R300). -/
def execStD (f : I3) (s : State) : Out := store 8 f s
/-- ST_B_SQ (R300). -/
def execStBSq (a : Reg) (imm : BitVec 16) (s : State) : Out := storeSq 1 a imm s
/-- ST_H_SQ (R300). -/
def execStHSq (a : Reg) (imm : BitVec 16) (s : State) : Out := storeSq 2 a imm s
/-- ST_W_SQ (R300). -/
def execStWSq (a : Reg) (imm : BitVec 16) (s : State) : Out := storeSq 4 a imm s
/-- ST_D_SQ (R300). -/
def execStDSq (a : Reg) (imm : BitVec 16) (s : State) : Out := storeSq 8 a imm s
/-- AADD_W (R301). -/
def execAaddW (f : RA) (s : State) : Out := atomic 4 .add f.d f.a f.b f.qd f.qb s
/-- AADD_D (R301). -/
def execAaddD (f : RA) (s : State) : Out := atomic 8 .add f.d f.a f.b f.qd f.qb s
/-- AMIN_W (R301). -/
def execAminW (f : RA) (s : State) : Out := atomic 4 .smin f.d f.a f.b f.qd f.qb s
/-- AMIN_D (R301). -/
def execAminD (f : RA) (s : State) : Out := atomic 8 .smin f.d f.a f.b f.qd f.qb s
/-- AMAX_W (R301). -/
def execAmaxW (f : RA) (s : State) : Out := atomic 4 .smax f.d f.a f.b f.qd f.qb s
/-- AMAX_D (R301). -/
def execAmaxD (f : RA) (s : State) : Out := atomic 8 .smax f.d f.a f.b f.qd f.qb s
/-- AXCHG_W (R301). -/
def execAxchgW (f : RA) (s : State) : Out := atomic 4 .xchg f.d f.a f.b f.qd f.qb s
/-- AXCHG_D (R301). -/
def execAxchgD (f : RA) (s : State) : Out := atomic 8 .xchg f.d f.a f.b f.qd f.qb s
/-- ACAS_W (R301). -/
def execAcasW (f : RC) (s : State) : Out := acas 4 f s
/-- ACAS_D (R301). -/
def execAcasD (f : RC) (s : State) : Out := acas 8 f s

end Sys2Proof.Machine
end

