-- ==== Sys2Proof/Machine/System.lean ====
section
/-! DEFINITION. Prefixes (R143, R144), the system instructions (R146 to R156) and the end of a sleep (R155). -/

namespace Sys2Proof.Machine

/-- EXT (R143): its operand joins the next word; after another EXT it traps ILL (R76). -/
def execExt (hi : BitVec 16) (s : State) : Out :=
  withMe s fun h =>
    if h.th.pfx.ext.isSome then trapIll s (wordOf (.ext hi))
    else s.modTh fun t => { t with pfx := { t.pfx with ext := some hi, hi := some hi, len := t.pfx.len + 1 } }

/-- REP (R144): the next word issues `last + 1` times; after another prefix it traps ILL (R76). A sequence resumed under R145
starts at the repeat REPST named, and REPST is cleared. -/
def execRep (last : Fin 64) (mask : BitVec 5) (s : State) : Out :=
  withMe s fun h =>
    if h.th.pfx.len ≠ 0 then trapIll s (wordOf (.rep last mask))
    else s.modTh fun t => { t with
      pfx := { rep := some (last.val, mask), idx := t.resume.getD 0, len := 1, ext := none, hi := none }
      resume := none
      sys := if t.resume.isSome then { t.sys with repst := 0 } else t.sys }

/-- ILL at decode (R77, R78). -/
def execIllAtDecode (w : W32) (s : State) : Out := withMe s fun _ => trapIll s w.toNat

/-- NOP (R149). -/
def execNop (s : State) : Out := withMe s fun _ => s.retire id

/-- A special register as MFS reads it (R122 to R133). -/
def srRead (s : State) (h : Holder) (sr : Nat) : W64 :=
  let i := h.id
  match sr with
  | 0x00 => BitVec.ofNat 64 i.inst
  | 0x01 => if i.gang == 0xFFFFFFFF then -1 else BitVec.ofNat 64 (i.mem % 64 * 2 ^ 32 + i.gang)
  | 0x02 => BitVec.ofNat 64 (i.die * 2 ^ 12 + i.row * 2 ^ 8 + i.col)
  | 0x03 => BitVec.ofNat 64 (i.cls * 2 ^ 16 + i.h * 2 ^ 8 + i.w)
  | 0x04 => if i.parent == 0xFFFFFFFF then -1 else BitVec.ofNat 64 i.parent
  | 0x05 => i.mode
  | 0x06 => h.th.sys.tvec
  | 0x07 => h.th.sys.epc
  | 0x08 => h.th.sys.ecause
  | 0x09 => h.th.sys.eaddr
  | 0x0A => h.th.sys.repst
  | 0x0B => (s.die i.die).fcyc
  | 0x0C => h.th.sys.pepoch
  | _ => h.th.sys.sstat

/-- The bits of a special register that MTS writes (R127 to R131): unnamed bits and TVEC.INH are ignored. -/
def srMask (sr : Nat) : W64 :=
  match sr with
  | 0x06 => 0x1FFF
  | 0x07 => 0x1FFF
  | 0x08 => 0xFFFFF
  | 0x09 => -1
  | 0x0A => 0xBF3F
  | _ => 0

/-- MTS of a value to a special register (R148). -/
def srWrite (r : SysRegs) (sr : Nat) (v : W64) : SysRegs :=
  let put (old : W64) : W64 := (old &&& ~~~(srMask sr)) ||| (v &&& srMask sr)
  match sr with
  | 0x06 => { r with tvec := put r.tvec }
  | 0x07 => { r with epc := put r.epc }
  | 0x08 => { r with ecause := put r.ecause }
  | 0x09 => { r with eaddr := put r.eaddr }
  | 0x0A => { r with repst := put r.repst }
  | _ => r

/-- MFS (R146): with bank 1 the value crosses through LQ in program order with its other traffic, the push counted first
(R120). -/
def execMfs (x sr : Reg) (bank : Bool) (s : State) : Out :=
  withMe s fun h =>
    let v := srRead s h sr.val
    if bank then
      match (do let t ← h.th.pushLq v; t.popLq) with
      | .ok (w, t) => s.retire fun _ => t.setS x w
      | .error i => trapQueue s i
    else s.retire fun t => t.setA x v

/-- MTS (R148): with bank 1 the value crosses through SQ. -/
def execMts (sr x : Reg) (bank : Bool) (s : State) : Out :=
  withMe s fun h =>
    if bank then
      match (do let t ← h.th.pushSq (h.th.s x); t.popSq) with
      | .ok (w, t) => s.retire fun _ => { t with sys := srWrite t.sys sr.val w }
      | .error i => trapQueue s i
    else s.retire fun t => { t with sys := srWrite t.sys sr.val (t.a x) }

/-- TRAP (R149), of both units. DESIGN CHOICE (log 42): ECAUSE.UNIT is 0 for it, and for the ILL that ERET raises; R129 names a unit only
for an instruction that belongs to one. -/
def execTrap (code : BitVec 10) (s : State) : Out := withMe s fun _ => trap s false cTRAP code.toNat 0

/-- ERET (R152). -/
def execEret (s : State) : Out :=
  withMe s fun h =>
    if !ctAccepted s h then s.modTh Thread.askEven
    else if eretOk h.th then s.modTh fun t => t.ret
    else trap s false cILL 0 (BitVec.ofNat 64 (wordOf .eret))

/-- SLEEP (R153): with WAKE set it clears it and returns; otherwise the thread sleeps at the SLEEP. -/
def execSleep (s : State) : Out :=
  withMe s fun h =>
    if h.th.asleep then s
    else if h.th.sys.wake then s.retire fun t => { t with sys := { t.sys with wake := false } }
    else s.modTh fun t => { t with asleep := true }

/-- THREAD_WAKE (R153, R155): an event has set WAKE of a sleeping thread; a parity failure in the sweep kills the region, and
otherwise WAKE is cleared and the thread continues after the SLEEP. -/
def execThreadWake (i : Nat) (s : State) : Out :=
  .next (match s.h? i with
    | some h =>
      if h.runs && h.th.asleep && h.th.sys.wake then
        if h.ev.parity then killRegion s h 6 0
        else s.modThOf i fun t => Thread.retire { t with asleep := false, sys := { t.sys with wake := false } }
      else s
    | none => s)

/-- HALT (R156): the thread stops once every earlier instruction has completed, which is the normal end of a residency's; an instance is
parked with cause HALT, whatever TVEC holds, once its requests are answered too. DESIGN CHOICE (log 42): INFO and ADDR of its record are 0,
which R130 and R434 do not name. -/
def execHalt (s : State) : Out :=
  withMe s fun h =>
    if !ctAccepted s h then s
    else match h.id.kind with
    | .task | .named => s.modTh fun t => { t with halted := true, pfx := {} }
    | _ => if canSave s h then parkOrKill s h cHALT 0 0 h.th.pc else s

end Sys2Proof.Machine
end

