-- ==== Sys2Proof/Machine/Tags.lean ====
section
/-! DEFINITION. Tag tables: TLOOK, TFILL, TEVICT, TPIN (R371 to R373); instance-scoped regions: RALLOC, RFREE (R369, R370); RFORK (R368). -/

namespace Sys2Proof.Machine

/-! ## Tag tables -/

/-- A result word of a tag instruction (R372). -/
structure TagRes where
  miss : Bool := false
  err : Bool := false
  pinned : Bool := false
  dup : Bool := false
  none_ : Bool := false
  key : Nat := 0
  entry : Nat := 0
deriving DecidableEq, Repr

/-- The word of a result (R372). -/
def TagRes.word (r : TagRes) : W64 :=
  BitVec.ofNat 64 (b2n r.miss * 2 ^ 63 + b2n r.err * 2 ^ 62 + b2n r.pinned * 2 ^ 61 + b2n r.dup * 2 ^ 60 + b2n r.none_ * 2 ^ 59 +
    r.key % 2 ^ 48 * 2 ^ 8 + r.entry % 256)

/-- Cell of the region and entry that a selector names; none when malformed or outside the region (R372). -/
def tagSel (h : Holder) (v : Nat) : Option (Nat × Nat) :=
  let row := bits v 0 4
  let col := bits v 4 5
  if bits v 9 7 != 0 || bits v 24 40 != 0 || h.id.w ≤ col || h.id.h ≤ row then none
  else some (col * h.id.h + row, bits v 16 8)

/-- An entry of a tag table. -/
def CellSt.tag (x : CellSt) (j : Nat) : TagEnt := x.tags.getD j {}

/-- Write an entry of a tag table. -/
def CellSt.setTag (x : CellSt) (j : Nat) (e : TagEnt) : CellSt := { x with tags := Tbl.set x.tags {} j e }

/-- The entry that a missing TLOOK names: the lowest invalid one, else the unpinned one not used for longest (R373). -/
def tagVictim (x : CellSt) : Option Nat :=
  let age (j : Nat) : Nat := (x.hits - (x.tag j).last).toNat
  match (List.range 256).find? fun j => !(x.tag j).valid with
  | some j => some j
  | none => (List.range 256).foldl (fun b j =>
      if (x.tag j).pin then b else match b with
        | some k => if age k < age j then some j else b
        | none => some j) none

/-- TLOOK on a table (R373). -/
def tagLook (x : CellSt) (key : Nat) : TagRes × CellSt :=
  match (List.range 256).find? fun j => (x.tag j).valid && (x.tag j).key.toNat == key with
  | some j => ({ entry := j, key := key }, ({ x with hits := x.hits + 1 }).setTag j { x.tag j with last := x.hits + 1 })
  | none => match tagVictim x with
    | some j => ({ miss := true, entry := j }, x)
    | none => ({ miss := true, none_ := true }, x)

/-- TFILL on a table (R373). -/
def tagFill (x : CellSt) (key j : Nat) : TagRes × CellSt :=
  if (x.tag j).pin then ({ entry := j, pinned := true }, x)
  else match (List.range 256).find? fun k => k != j && (x.tag k).valid && (x.tag k).key.toNat == key with
    | some k => ({ dup := true, entry := k }, x)
    | none => ({ entry := j }, ({ x with hits := x.hits + 1 }).setTag j
        { x.tag j with valid := true, key := BitVec.ofNat 48 key, last := x.hits + 1 })

/-- TEVICT on a table (R373). -/
def tagEvict (x : CellSt) (j : Nat) : TagRes × CellSt :=
  let e := x.tag j
  if e.pin then ({ entry := j, pinned := true }, x)
  else ({ entry := j, key := e.key.toNat, miss := !e.valid }, x.setTag j { e with valid := false })

/-- TPIN on a table (R373). -/
def tagPin (x : CellSt) (j : Nat) (p : Bool) : TagRes × CellSt :=
  ({ entry := j, pinned := (x.tag j).pin }, x.setTag j { x.tag j with pin := p })

/-- A tag instruction on the cell that a selector names, when its operands are well formed (R372). -/
def tagInstr (d : Reg) (sel : Holder → Nat) (ok : Holder → Nat → Bool) (f : Holder → CellSt → Nat → TagRes × CellSt) (s : State) : Out :=
  withMe s fun h =>
    match tagSel h (sel h) with
    | some (c, j) =>
      if ok h j then
        let (r, x) := f h (h.cell c) j
        (s.modH s.cur fun h => h.modCell c fun _ => x).retire fun t => t.setA d r.word
      else s.retire fun t => t.setA d ({ err := true } : TagRes).word
    | none => s.retire fun t => t.setA d ({ err := true } : TagRes).word

/-- TLOOK (R373). -/
def execTlook (f : S3) (s : State) : Out :=
  tagInstr f.d (fun h => (h.th.a f.b).toNat) (fun h j => bits (h.th.a f.a).toNat 48 16 == 0 && j == 0)
    (fun h x _ => tagLook x (h.th.a f.a).toNat) s

/-- TFILL (R373). -/
def execTfill (f : S3) (s : State) : Out :=
  tagInstr f.d (fun h => (h.th.a f.b).toNat) (fun h _ => bits (h.th.a f.a).toNat 48 16 == 0)
    (fun h x j => tagFill x (h.th.a f.a).toNat j) s

/-- TEVICT (R373). -/
def execTevict (f : S2) (s : State) : Out :=
  tagInstr f.d (fun h => (h.th.a f.a).toNat) (fun _ _ => true) (fun _ x j => tagEvict x j) s

/-- TPIN (R373). -/
def execTpin (f : S3) (s : State) : Out :=
  tagInstr f.d (fun h => (h.th.a f.a).toNat) (fun h _ => bits (h.th.a f.b).toNat 1 63 == 0)
    (fun h x j => tagPin x j (bitAt (h.th.a f.b).toNat 0)) s

/-! ## Instance-scoped regions -/

/-- Block `i` of an arena is allocated; a bitmap byte that cannot be read counts as allocated. -/
def blockUsed (s : State) (pid bm i : Nat) : Bool :=
  match readVa s pid 0 (bm + i / 8) 1 with
  | some b => bitAt b (i % 8)
  | none => true

/-- The lowest run of `n` free blocks, from block `i`, whose address is aligned to 2^b blocks (R370, log 16): `fuel` blocks are left. -/
def findRun (s : State) (pid ab nb bm n b : Nat) : Nat → Nat → Option Nat
  | 0, _ => none
  | fuel + 1, i =>
    if nb < i + n then none
    else if (ab / 65536 + i) % 2 ^ b == 0 && (List.range n).all fun k => !blockUsed s pid bm (i + k) then some i
    else findRun s pid ab nb bm n b fuel (i + 1)

/-- RALLOC (R370). -/
def execRalloc (f : S3) (s : State) : Out :=
  withMe s fun h =>
    let a := (h.th.a f.a).toNat
    let b := (h.th.a f.b).toNat
    let done (s : State) (v : Nat) : State := s.retire fun t => t.setA f.d (BitVec.ofNat 64 v)
    let n := ceilDiv a 65536
    if a == 0 || 2 ^ 36 < a || 16 < b then done s 1
    else if 16 ≤ h.regions.length then done s 3
    else match arena s h.id.pid with
      | none => done s 4
      | some (ab, nb, bm) => match findRun s h.id.pid ab nb bm n b nb 0 with
        | none => done s 2
        | some i =>
          let s := bitmapSet s h.id.pid bm true i n
          let base := ab / 65536 + i
          done (s.modH s.cur fun h => { h with regions := h.regions ++ [(base, n)] }) (base * 65536 % 2 ^ 48)

/-- RFREE (R370): waits until the accesses that precede it are accepted. -/
def execRfree (f : S2) (s : State) : Out :=
  withMe s fun h =>
    let a := (h.th.a f.a).toNat
    match h.regions.find? fun r => r.1 * 65536 == a with
    | none => s.retire fun t => t.setA f.d 1
    | some r =>
      if !writesAccepted s h then s
      else ((freeRegion s h.id.pid r).modH s.cur fun h => { h with regions := h.regions.erase r }).retire fun t => t.setA f.d 0

/-! ## RFORK (R368) -/

/-- The entry at a level for an address, when tables stand on its path; the levels left are named by `lvls`. -/
def entryAt (s : State) (va lvl : Nat) : List Nat → Nat → Option Nat
  | [], _ => none
  | l :: rest, t =>
    let at_ := normPa (t + 8 * bits va (40 - 8 * l) 8)
    if l == lvl then some at_
    else
      let e := s.physN at_ 8
      if bitAt e 0 && !bitAt e 1 && !entryMalformed s l e then entryAt s va lvl rest (bits e 11 41 * 2 ^ 11) else none

/-- The source leaves of a range with the entry each is copied to: the error is the status. -/
def forkLeaves (s : State) (pid root a b top : Nat) : Nat → Nat → Except Nat (List (Leaf × Nat))
  | 0, _ => .ok []
  | fuel + 1, va =>
    if top ≤ va then .ok []
    else if 2 ^ 48 ≤ va then .error 2
    else match leafAt s pid va with
      | .error _ => .error 2
      | .ok l =>
        if l.kind != 1 && l.kind != 2 then .error 2
        else
          let sz := leafBytes l.lvl
          let dst := a + (va - b)
          if a % sz != b % sz || 2 ^ 48 ≤ dst then .error 3
          else match entryAt s dst l.lvl [0, 1, 2, 3] root with
            | none => .error 3
            | some x =>
              if bitAt (s.physN x 8) 0 then .error 3
              else match forkLeaves s pid root a b top fuel ((va / sz + 1) * sz) with
                | .ok t => .ok ((l, x) :: t)
                | .error e => .error e

/-- Copy one leaf: the source becomes copy-on-write where it may be written, and the destination takes its word. -/
def forkLeaf (s : State) (x : Leaf × Nat) : State :=
  let e := s.physN x.1.at_ 8
  let e := if x.1.w && !x.1.cow then e + 2 ^ 4 else e
  (s.physSetN x.1.at_ 8 e).physSetN x.2 8 e

/-- RFORK (R368). It waits for its agent's earlier writes, and for the accesses that are open through the source leaves (R358): made before
the fork, a write among them lands in both copies. -/
def execRfork (f : S3) (c : Reg) (s : State) : Out :=
  withMe s fun h =>
    let a := (h.th.a f.a).toNat
    let b := (h.th.a f.b).toNat
    let n := (h.th.a c).toNat
    let done (s : State) (v : Nat) : State := s.retire fun t => t.setA f.d (BitVec.ofNat 64 v)
    if a % 65536 != 0 || b % 65536 != 0 || n % 65536 != 0 || n == 0 || 2 ^ 40 < n || (a < b + n && b < a + n) then done s 1
    else match s.ctx? h.id.pid with
      | none => done s 2
      | some x => match forkLeaves s h.id.pid x.ptroot a b (b + n) (n / 65536 + 1) b with
        | .error e => done s e
        | .ok l =>
          if !writesAccepted s h || l.any (fun x => frameOpen s h.id.pid 0xFFFFFFFF x.1) then s
          else done (invalidate (l.foldl forkLeaf s) h.id.pid fun g => b ≤ g * 65536 && g * 65536 < b + n) (l.length * 2 ^ 32)

end Sys2Proof.Machine
end

