-- ==== Sys2Proof/Machine/Dispatch.lean ====
section
/-! DEFINITION. One arm for each instruction and each step of the device. -/

namespace Sys2Proof.Machine

def exec (i : Instr) (s : State) : Host.Outcome State Fault Refusal :=
  match i with
  | .addE f => Sys2Proof.Machine.execAddE f s
  | .subE f => Sys2Proof.Machine.execSubE f s
  | .andE f => Sys2Proof.Machine.execAndE f s
  | .orE f => Sys2Proof.Machine.execOrE f s
  | .xorE f => Sys2Proof.Machine.execXorE f s
  | .andnE f => Sys2Proof.Machine.execAndnE f s
  | .sllE f => Sys2Proof.Machine.execSllE f s
  | .srlE f => Sys2Proof.Machine.execSrlE f s
  | .sraE f => Sys2Proof.Machine.execSraE f s
  | .rol f => Sys2Proof.Machine.execRol f s
  | .ror f => Sys2Proof.Machine.execRor f s
  | .mulE f => Sys2Proof.Machine.execMulE f s
  | .mulh f => Sys2Proof.Machine.execMulh f s
  | .mulhu f => Sys2Proof.Machine.execMulhu f s
  | .div f => Sys2Proof.Machine.execDiv f s
  | .divu f => Sys2Proof.Machine.execDivu f s
  | .rem f => Sys2Proof.Machine.execRem f s
  | .remu f => Sys2Proof.Machine.execRemu f s
  | .minE f => Sys2Proof.Machine.execMinE f s
  | .maxE f => Sys2Proof.Machine.execMaxE f s
  | .minuE f => Sys2Proof.Machine.execMinuE f s
  | .maxuE f => Sys2Proof.Machine.execMaxuE f s
  | .seqE f => Sys2Proof.Machine.execSeqE f s
  | .sneE f => Sys2Proof.Machine.execSneE f s
  | .sltE f => Sys2Proof.Machine.execSltE f s
  | .sltuE f => Sys2Proof.Machine.execSltuE f s
  | .sel f => Sys2Proof.Machine.execSel f s
  | .clz f => Sys2Proof.Machine.execClz f s
  | .popc f => Sys2Proof.Machine.execPopc f s
  | .bfx f => Sys2Proof.Machine.execBfx f s
  | .bfi f => Sys2Proof.Machine.execBfi f s
  | .movE f => Sys2Proof.Machine.execMovE f s
  | .sxb f => Sys2Proof.Machine.execSxb f s
  | .sxh f => Sys2Proof.Machine.execSxh f s
  | .sxw f => Sys2Proof.Machine.execSxw f s
  | .addA f => Sys2Proof.Machine.execAddA f s
  | .subA f => Sys2Proof.Machine.execSubA f s
  | .andA f => Sys2Proof.Machine.execAndA f s
  | .orA f => Sys2Proof.Machine.execOrA f s
  | .xorA f => Sys2Proof.Machine.execXorA f s
  | .andnA f => Sys2Proof.Machine.execAndnA f s
  | .sllA f => Sys2Proof.Machine.execSllA f s
  | .srlA f => Sys2Proof.Machine.execSrlA f s
  | .sraA f => Sys2Proof.Machine.execSraA f s
  | .mulA f => Sys2Proof.Machine.execMulA f s
  | .minA f => Sys2Proof.Machine.execMinA f s
  | .maxA f => Sys2Proof.Machine.execMaxA f s
  | .minuA f => Sys2Proof.Machine.execMinuA f s
  | .maxuA f => Sys2Proof.Machine.execMaxuA f s
  | .seqA f => Sys2Proof.Machine.execSeqA f s
  | .sneA f => Sys2Proof.Machine.execSneA f s
  | .sltA f => Sys2Proof.Machine.execSltA f s
  | .sltuA f => Sys2Proof.Machine.execSltuA f s
  | .movA f => Sys2Proof.Machine.execMovA f s
  | .fadd f => Sys2Proof.Machine.execFadd f s
  | .fsub f => Sys2Proof.Machine.execFsub f s
  | .fmul f => Sys2Proof.Machine.execFmul f s
  | .fma f => Sys2Proof.Machine.execFma f s
  | .fmin f => Sys2Proof.Machine.execFmin f s
  | .fmax f => Sys2Proof.Machine.execFmax f s
  | .feq f => Sys2Proof.Machine.execFeq f s
  | .flt f => Sys2Proof.Machine.execFlt f s
  | .fle f => Sys2Proof.Machine.execFle f s
  | .fabs f => Sys2Proof.Machine.execFabs f s
  | .fneg f => Sys2Proof.Machine.execFneg f s
  | .ftoi f => Sys2Proof.Machine.execFtoi f s
  | .ftoiz f => Sys2Proof.Machine.execFtoiz f s
  | .ftol f => Sys2Proof.Machine.execFtol f s
  | .ftolz f => Sys2Proof.Machine.execFtolz f s
  | .itof f => Sys2Proof.Machine.execItof f s
  | .ltof f => Sys2Proof.Machine.execLtof f s
  | .ftobf f => Sys2Proof.Machine.execFtobf f s
  | .ftoh f => Sys2Proof.Machine.execFtoh f s
  | .bftof f => Sys2Proof.Machine.execBftof f s
  | .htof f => Sys2Proof.Machine.execHtof f s
  | .aaddW f => Sys2Proof.Machine.execAaddW f s
  | .aaddD f => Sys2Proof.Machine.execAaddD f s
  | .aminW f => Sys2Proof.Machine.execAminW f s
  | .aminD f => Sys2Proof.Machine.execAminD f s
  | .amaxW f => Sys2Proof.Machine.execAmaxW f s
  | .amaxD f => Sys2Proof.Machine.execAmaxD f s
  | .axchgW f => Sys2Proof.Machine.execAxchgW f s
  | .axchgD f => Sys2Proof.Machine.execAxchgD f s
  | .acasW f => Sys2Proof.Machine.execAcasW f s
  | .acasD f => Sys2Proof.Machine.execAcasD f s
  | .addiE f => Sys2Proof.Machine.execAddiE f s
  | .andiE f => Sys2Proof.Machine.execAndiE f s
  | .oriE f => Sys2Proof.Machine.execOriE f s
  | .xoriE f => Sys2Proof.Machine.execXoriE f s
  | .sltiE f => Sys2Proof.Machine.execSltiE f s
  | .sltiuE f => Sys2Proof.Machine.execSltiuE f s
  | .moviE d imm => Sys2Proof.Machine.execMoviE d imm s
  | .movhiE d imm => Sys2Proof.Machine.execMovhiE d imm s
  | .slliE f => Sys2Proof.Machine.execSlliE f s
  | .srliE f => Sys2Proof.Machine.execSrliE f s
  | .sraiE f => Sys2Proof.Machine.execSraiE f s
  | .bfxi f => Sys2Proof.Machine.execBfxi f s
  | .bfii f => Sys2Proof.Machine.execBfii f s
  | .addiA f => Sys2Proof.Machine.execAddiA f s
  | .andiA f => Sys2Proof.Machine.execAndiA f s
  | .oriA f => Sys2Proof.Machine.execOriA f s
  | .xoriA f => Sys2Proof.Machine.execXoriA f s
  | .sltiA f => Sys2Proof.Machine.execSltiA f s
  | .sltiuA f => Sys2Proof.Machine.execSltiuA f s
  | .moviA d imm => Sys2Proof.Machine.execMoviA d imm s
  | .movhiA d imm => Sys2Proof.Machine.execMovhiA d imm s
  | .slliA f => Sys2Proof.Machine.execSlliA f s
  | .srliA f => Sys2Proof.Machine.execSrliA f s
  | .sraiA f => Sys2Proof.Machine.execSraiA f s
  | .ldB f => Sys2Proof.Machine.execLdB f s
  | .ldH f => Sys2Proof.Machine.execLdH f s
  | .ldW f => Sys2Proof.Machine.execLdW f s
  | .ldD f => Sys2Proof.Machine.execLdD f s
  | .stB f => Sys2Proof.Machine.execStB f s
  | .stH f => Sys2Proof.Machine.execStH f s
  | .stW f => Sys2Proof.Machine.execStW f s
  | .stD f => Sys2Proof.Machine.execStD f s
  | .stBSq a imm => Sys2Proof.Machine.execStBSq a imm s
  | .stHSq a imm => Sys2Proof.Machine.execStHSq a imm s
  | .stWSq a imm => Sys2Proof.Machine.execStWSq a imm s
  | .stDSq a imm => Sys2Proof.Machine.execStDSq a imm s
  | .xfence mask => Sys2Proof.Machine.execXfence mask s
  | .acq a scope => Sys2Proof.Machine.execAcq a scope s
  | .rel a scope => Sys2Proof.Machine.execRel a scope s
  | .pbar mask => Sys2Proof.Machine.execPbar mask s
  | .psync mask => Sys2Proof.Machine.execPsync mask s
  | .chlink f => Sys2Proof.Machine.execChlink f s
  | .chdrop f => Sys2Proof.Machine.execChdrop f s
  | .chadd f => Sys2Proof.Machine.execChadd f s
  | .chstat f => Sys2Proof.Machine.execChstat f s
  | .chfree f => Sys2Proof.Machine.execChfree f s
  | .sbindG f ep => Sys2Proof.Machine.execSbindG f ep s
  | .sbindBe f ep => Sys2Proof.Machine.execSbindBe f ep s
  | .sgo => Sys2Proof.Machine.execSgo s
  | .seos ep => Sys2Proof.Machine.execSeos ep s
  | .sbar => Sys2Proof.Machine.execSbar s
  | .scfg a b ep => Sys2Proof.Machine.execScfg a b ep s
  | .tlook f => Sys2Proof.Machine.execTlook f s
  | .tfill f => Sys2Proof.Machine.execTfill f s
  | .tevict f => Sys2Proof.Machine.execTevict f s
  | .tpin f => Sys2Proof.Machine.execTpin f s
  | .bcopy f c => Sys2Proof.Machine.execBcopy f c s
  | .bwait a => Sys2Proof.Machine.execBwait a s
  | .qpush x bank p => Sys2Proof.Machine.execQpush x bank p s
  | .qpop x bank p => Sys2Proof.Machine.execQpop x bank p s
  | .send f n1 => Sys2Proof.Machine.execSend f n1 s
  | .recv f p => Sys2Proof.Machine.execRecv f p s
  | .recvw f p => Sys2Proof.Machine.execRecvw f p s
  | .call f n => Sys2Proof.Machine.execCall f n s
  | .ret x n bank => Sys2Proof.Machine.execRet x n bank s
  | .waitc f => Sys2Proof.Machine.execWaitc f s
  | .cancel f => Sys2Proof.Machine.execCancel f s
  | .gbar => Sys2Proof.Machine.execGbar s
  | .tsub f => Sys2Proof.Machine.execTsub f s
  | .tdec f => Sys2Proof.Machine.execTdec f s
  | .sigadd a b scope => Sys2Proof.Machine.execSigadd a b scope s
  | .sigwait f scope => Sys2Proof.Machine.execSigwait f scope s
  | .ralloc f => Sys2Proof.Machine.execRalloc f s
  | .rfree f => Sys2Proof.Machine.execRfree f s
  | .rfork f c => Sys2Proof.Machine.execRfork f c s
  | .nop => Sys2Proof.Machine.execNop s
  | .mfs x sr bank => Sys2Proof.Machine.execMfs x sr bank s
  | .mts sr x bank => Sys2Proof.Machine.execMts sr x bank s
  | .trap code => Sys2Proof.Machine.execTrap code s
  | .eret => Sys2Proof.Machine.execEret s
  | .sleep => Sys2Proof.Machine.execSleep s
  | .halt => Sys2Proof.Machine.execHalt s
  | .jr a => Sys2Proof.Machine.execJr a s
  | .jalr f => Sys2Proof.Machine.execJalr f s
  | .beqA f => Sys2Proof.Machine.execBeqA f s
  | .bneA f => Sys2Proof.Machine.execBneA f s
  | .bltA f => Sys2Proof.Machine.execBltA f s
  | .bgeA f => Sys2Proof.Machine.execBgeA f s
  | .bltuA f => Sys2Proof.Machine.execBltuA f s
  | .bgeuA f => Sys2Proof.Machine.execBgeuA f s
  | .banyA f => Sys2Proof.Machine.execBanyA f s
  | .bnoneA f => Sys2Proof.Machine.execBnoneA f s
  | .beqE f => Sys2Proof.Machine.execBeqE f s
  | .bneE f => Sys2Proof.Machine.execBneE f s
  | .bltE f => Sys2Proof.Machine.execBltE f s
  | .bgeE f => Sys2Proof.Machine.execBgeE f s
  | .bltuE f => Sys2Proof.Machine.execBltuE f s
  | .bgeuE f => Sys2Proof.Machine.execBgeuE f s
  | .banyE f => Sys2Proof.Machine.execBanyE f s
  | .bnoneE f => Sys2Proof.Machine.execBnoneE f s
  | .jmp off => Sys2Proof.Machine.execJmp off s
  | .jal off => Sys2Proof.Machine.execJal off s
  | .ext hi => Sys2Proof.Machine.execExt hi s
  | .rep last mask => Sys2Proof.Machine.execRep last mask s
  | .threadWake h => Sys2Proof.Machine.execThreadWake h s
  | .stageFire h c k => Sys2Proof.Machine.execStageFire h c k s
  | .reducerFire h c => Sys2Proof.Machine.execReducerFire h c s
  | .lutiFire h c => Sys2Proof.Machine.execLutiFire h c s
  | .elementFire h c x => Sys2Proof.Machine.execElementFire h c x s
  | .swmMerge h c p => Sys2Proof.Machine.execSwmMerge h c p s
  | .rollback h => Sys2Proof.Machine.execRollback h s
  | .mxWeightToken h c => Sys2Proof.Machine.execMxWeightToken h c s
  | .mxrow h c => Sys2Proof.Machine.execMxrow h c s
  | .mxSegmentEnd h c => Sys2Proof.Machine.execMxSegmentEnd h c s
  | .cfgApply h c p => Sys2Proof.Machine.execCfgApply h c p s
  | .murdRequest h c p => Sys2Proof.Machine.execMurdRequest h c p s
  | .muResponse h c p e => Sys2Proof.Machine.execMuResponse h c p e s
  | .muwrWrite h c p => Sys2Proof.Machine.execMuwrWrite h c p s
  | .muatUpdate h c p => Sys2Proof.Machine.execMuatUpdate h c p s
  | .musvWrite h c p => Sys2Proof.Machine.execMusvWrite h c p s
  | .cbWrite h c p => Sys2Proof.Machine.execCbWrite h c p s
  | .cbRead h c p => Sys2Proof.Machine.execCbRead h c p s
  | .reorderEmit h c => Sys2Proof.Machine.execReorderEmit h c s
  | .cornerTurnEmit h c => Sys2Proof.Machine.execCornerTurnEmit h c s
  | .agenEmit h c g => Sys2Proof.Machine.execAgenEmit h c g s
  | .inEndpointDeliver h ep => Sys2Proof.Machine.execInEndpointDeliver h ep s
  | .roundAck h ep => Sys2Proof.Machine.execRoundAck h ep s
  | .runFall h => Sys2Proof.Machine.execRunFall h s
  | .xlatTranslate h c => Sys2Proof.Machine.execXlatTranslate h c s
  | .translationWalk d inst => Sys2Proof.Machine.execTranslationWalk d inst s
  | .withheldRetry inst => Sys2Proof.Machine.execWithheldRetry inst s
  | .faultwaitExpiry inst => Sys2Proof.Machine.execFaultwaitExpiry inst s
  | .messageArrival d inst => Sys2Proof.Machine.execMessageArrival d inst s
  | .escapeTimeout d inst => Sys2Proof.Machine.execEscapeTimeout d inst s
  | .linkRetrain l => Sys2Proof.Machine.execLinkRetrain l s
  | .linkDown l => Sys2Proof.Machine.execLinkDown l s
  | .zlkRetrain port => Sys2Proof.Machine.execZlkRetrain port s
  | .zlkTransfer x => Sys2Proof.Machine.execZlkTransfer x s
  | .bcopyComplete h n => Sys2Proof.Machine.execBcopyComplete h n s
  | .widx d page off len v => Sys2Proof.Machine.execWidx d page off len v s
  | .ipos pid hh v => Sys2Proof.Machine.execIpos pid hh v s
  | .packetStart d qid => Sys2Proof.Machine.execPacketStart d qid s
  | .pktnv d qid => Sys2Proof.Machine.execPktnv d qid s
  | .waitTest d qid => Sys2Proof.Machine.execWaitTest d qid s
  | .waittmo d qid => Sys2Proof.Machine.execWaittmo d qid s
  | .packetCompletion d qid idx => Sys2Proof.Machine.execPacketCompletion d qid idx s
  | .cfgloadClaim d qid idx => Sys2Proof.Machine.execCfgloadClaim d qid idx s
  | .gangMap d qid => Sys2Proof.Machine.execGangMap d qid s
  | .gangIdleUnmap d qid => Sys2Proof.Machine.execGangIdleUnmap d qid s
  | .slotStarvationUnmap d => Sys2Proof.Machine.execSlotStarvationUnmap d s
  | .ctxset d => Sys2Proof.Machine.execCtxset d s
  | .qcreate d => Sys2Proof.Machine.execQcreate d s
  | .qdestroy d => Sys2Proof.Machine.execQdestroy d s
  | .qstart d => Sys2Proof.Machine.execQstart d s
  | .patch d => Sys2Proof.Machine.execPatch d s
  | .acmdUnassigned d v => Sys2Proof.Machine.execAcmdUnassigned d v s
  | .xinv d v => Sys2Proof.Machine.execXinv d v s
  | .xinvComplete d => Sys2Proof.Machine.execXinvComplete d s
  | .rack d => Sys2Proof.Machine.execRack d s
  | .resume d => Sys2Proof.Machine.execResume d s
  | .discard d => Sys2Proof.Machine.execDiscard d s
  | .shareCommit d v => Sys2Proof.Machine.execShareCommit d v s
  | .refillTick d => Sys2Proof.Machine.execRefillTick d s
  | .lineRelease h ep => Sys2Proof.Machine.execLineRelease h ep s
  | .sliceRequest d sl r => Sys2Proof.Machine.execSliceRequest d sl r s
  | .chainStoreHead d inst => Sys2Proof.Machine.execChainStoreHead d inst s
  | .chainForward ch k => Sys2Proof.Machine.execChainForward ch k s
  | .chainAck ch k => Sys2Proof.Machine.execChainAck ch k s
  | .chainRead h c p e => Sys2Proof.Machine.execChainRead h c p e s
  | .chainfail ch d => Sys2Proof.Machine.execChainfail ch d s
  | .chainHandover ch => Sys2Proof.Machine.execChainHandover ch s
  | .durableAccept d inst => Sys2Proof.Machine.execDurableAccept d inst s
  | .imageLoad h => Sys2Proof.Machine.execImageLoad h s
  | .mappingComplete d => Sys2Proof.Machine.execMappingComplete d s
  | .placementQueueServe d => Sys2Proof.Machine.execPlacementQueueServe d s
  | .placementHeadBlock d => Sys2Proof.Machine.execPlacementHeadBlock d s
  | .gangReserve d cell => Sys2Proof.Machine.execGangReserve d cell s
  | .gangPlace g => Sys2Proof.Machine.execGangPlace g s
  | .dispatchDecision d => Sys2Proof.Machine.execDispatchDecision d s
  | .taskAgeing d inst => Sys2Proof.Machine.execTaskAgeing d inst s
  | .taskEnd h => Sys2Proof.Machine.execTaskEnd h s
  | .overflowAdvance d pid => Sys2Proof.Machine.execOverflowAdvance d pid s
  | .overflowRingRetry d pid => Sys2Proof.Machine.execOverflowRingRetry d pid s
  | .drain h => Sys2Proof.Machine.execDrain h s
  | .drainTimeout h => Sys2Proof.Machine.execDrainTimeout h s
  | .freeze h => Sys2Proof.Machine.execFreeze h s
  | .restore h => Sys2Proof.Machine.execRestore h s
  | .msixMessage v => Sys2Proof.Machine.execMsixMessage v s
  | .devevt v => Sys2Proof.Machine.execDevevt v s
  | .hostWrite pa len v => Sys2Proof.Machine.execHostWrite pa len v s
  | .hostRead pa len => Sys2Proof.Machine.execHostRead pa len s
  | .podid v => Sys2Proof.Machine.execPodid v s
  | .plim v => Sys2Proof.Machine.execPlim v s
  | .svnraise v => Sys2Proof.Machine.execSvnraise v s
  | .lcreq v => Sys2Proof.Machine.execLcreq v s
  | .atcmd v => Sys2Proof.Machine.execAtcmd v s
  | .attestationComplete => Sys2Proof.Machine.execAttestationComplete s
  | .registerWrite d off v => Sys2Proof.Machine.execRegisterWrite d off v s
  | .pwrfail => Sys2Proof.Machine.execPwrfail s
  | .huokFall => Sys2Proof.Machine.execHuokFall s
  | .thermalWarning overPlim => Sys2Proof.Machine.execThermalWarning overPlim s
  | .thermalTrip => Sys2Proof.Machine.execThermalTrip s
  | .reset => Sys2Proof.Machine.execReset s
  | .illAtDecode w => Sys2Proof.Machine.execIllAtDecode w s
  | .uncorrectableError site => Sys2Proof.Machine.execUncorrectableError site s
  | .huokRise => Sys2Proof.Machine.execHuokRise s
  | .throttleEnd => Sys2Proof.Machine.execThrottleEnd s
  | .persistBufferDrain d => Sys2Proof.Machine.execPersistBufferDrain d s
  | .dieLinkUp a b => Sys2Proof.Machine.execDieLinkUp a b s
  | .processEnd pid => Sys2Proof.Machine.execProcessEnd pid s

end Sys2Proof.Machine
end

