-- ==== Sys2Proof/Machine/Fetch.lean ====
section
/-! DEFINITION. Fetching the word at the pc, with the checks R76 makes on a prefixed sequence at decode and the fields of each repeat stepped (R144). -/

namespace Sys2Proof.Machine

/-- The step bits of a REP mask (R41): bit 4 is mask bit 19, step D, down to bit 0, DOWN. -/
structure Steps where
  d : Bool
  a : Bool
  b : Bool
  i : Bool
  down : Bool

/-- The step bits of a mask. -/
def stepsOf (m : BitVec 5) : Steps := ⟨m.getLsbD 4, m.getLsbD 3, m.getLsbD 2, m.getLsbD 1, m.getLsbD 0⟩

/-- How an immediate steps (R83, R84, R144): none; a signed or unsigned 16-bit field stepping by `u`; a shift amount; the offset of
a bit field. -/
inductive ImmKind where
  | none
  | signed (u : Nat)
  | unsigned
  | amount
  | offset
deriving DecidableEq, Repr

/-- The steps a word accepts under REP (R76, R80 to R89), and the kind of its immediate; none when it does not accept REP. -/
def repAccepts (w : Nat) : Option (Steps × ImmKind) :=
  let m := bits w 26 6
  let fn := bits w 0 8
  if m ≤ 3 then
    let unary := (m == 0 && (fn == 0x1b || fn == 0x1c || 0x1f ≤ fn)) || (m == 1 && 0x09 ≤ fn) || (m == 2 && fn == 0x1f)
    some (⟨!bitAt w 10, !bitAt w 9, !bitAt w 8 && !unary, false, true⟩, .none)
  else if (0x04 ≤ m && m ≤ 0x10) || (0x14 ≤ m && m ≤ 0x1E) then
    let k := m % 16
    let kind : ImmKind :=
      if m == 0x10 || m == 0x0F then .offset
      else if 0x0C ≤ k then .amount
      else if k == 4 || k == 8 || k == 9 || k == 10 then .signed 1
      else .unsigned
    some (⟨true, !((k == 10 || k == 11) && m != 0x10), false, true, true⟩, kind)
  else if 0x20 ≤ m && m ≤ 0x2B then
    let u := 2 ^ (m % 4)
    let d := if m ≤ 0x23 then bits w 21 5 != 0 else m ≤ 0x27
    some (⟨d, true, false, true, true⟩, .signed u)
  else if m == 0x2C then
    match bits w 20 6 with
    | 0x18 | 0x19 | 0x1B => some (⟨true, true, true, false, true⟩, .none)
    | 0x1A => some (⟨true, true, false, false, true⟩, .none)
    | 0x20 => some (⟨false, true, false, false, true⟩, .none)
    | 0x21 => some (⟨true, false, false, false, true⟩, .none)
    | _ => none
  else none

/-- A word accepts EXT (R76, R83, R84, R88); an endpoint that EXT extends above 255 is illegal (R87). -/
def extAccepts (w : Nat) (hi : BitVec 16) : Bool :=
  let m := bits w 26 6
  (0x04 ≤ m && m ≤ 0x0B) || (0x14 ≤ m && m ≤ 0x1B) || (0x20 ≤ m && m ≤ 0x2B) ||
  (m == 0x2C && (match bits w 20 6 with
    | 0x10 | 0x11 | 0x13 | 0x15 => hi.toNat * 32 + bits w 0 5 ≤ 255
    | _ => false))

/-- Replace `len` bits of a word from bit `lo`. -/
def putBits (w lo len v : Nat) : Nat := w - bits w lo len * 2 ^ lo + v % 2 ^ len * 2 ^ lo

/-- Step a register field; none when it leaves 0 to 31 (R76). -/
def stepReg (w lo : Nat) (on : Bool) (s : Int) : Option Nat :=
  if on then
    let v : Int := bits w lo 5 + s
    if 0 ≤ v && v ≤ 31 then some (putBits w lo 5 v.toNat) else none
  else some w

/-- Step the immediate: the word and the upper half of its value; none when it leaves its range (R76, R144). -/
def stepImm (w : Nat) (ext : Option (BitVec 16)) (k : ImmKind) (on : Bool) (s : Int) : Option (Nat × Option (BitVec 16)) :=
  if !on then some (w, ext) else
  let lo := BitVec.ofNat 16 w
  match k with
  | .none => none
  | .amount =>
    let v : Int := bits w 0 6 + s
    if 0 ≤ v && v ≤ 63 then some (putBits w 0 6 v.toNat, ext) else none
  | .offset =>
    let v : Int := bits w 0 8 + s
    if 0 ≤ v && v ≤ 255 then some (putBits w 0 8 v.toNat, ext) else none
  | .signed u =>
    match ext with
    | none =>
      let v : Int := lo.toInt + s * u
      if -32768 ≤ v && v ≤ 32767 then some (putBits w 0 16 (BitVec.ofInt 16 v).toNat, none) else none
    | some hi =>
      let v : Int := (hi ++ lo).toInt + s * u
      if -(2 ^ 31 : Int) ≤ v && v < 2 ^ 31 then
        let x := (BitVec.ofInt 32 v).toNat
        some (putBits w 0 16 x, some (BitVec.ofNat 16 (x / 2 ^ 16)))
      else none
  | .unsigned =>
    match ext with
    | none =>
      let v : Int := lo.toNat + s
      if 0 ≤ v && v ≤ 65535 then some (putBits w 0 16 v.toNat, none) else none
    | some hi =>
      let v : Int := (hi ++ lo).toNat + s
      if 0 ≤ v && v < 2 ^ 32 then some (putBits w 0 16 v.toNat, some (BitVec.ofNat 16 (v.toNat / 2 ^ 16))) else none

/-- Whether a word is S format; its register fields stand at other bits (R73). -/
def isS (w : Nat) : Bool := bits w 26 6 == 0x2C

/-- The word of repeat `i` of a sequence, with the upper half of its immediate (R144); none when the sequence is illegal there
(R76). -/
def repeatWord (w : Nat) (ext : Option (BitVec 16)) (mask : BitVec 5) (i : Nat) : Option (Nat × Option (BitVec 16)) :=
  match repAccepts w with
  | none => none
  | some (ok, k) =>
    let st := stepsOf mask
    if (st.d && !ok.d) || (st.a && !ok.a) || (st.b && !ok.b) || (st.i && !ok.i) then none
    else
      let s : Int := if st.down then -(i : Int) else i
      do
        let w ← stepReg w (if isS w then 15 else 21) st.d s
        let w ← stepReg w (if isS w then 10 else 16) st.a s
        let w ← stepReg w (if isS w then 5 else 11) st.b s
        stepImm w ext k st.i s

/-- What the word after the prefixes issues as: the instruction of the repeat that is next, with the upper half of its immediate;
the error is the failing word of R77. -/
def issueWord (p : Pfx) (w : Nat) : Except Nat (Instr × Option (BitVec 16)) :=
  let m := bits w 26 6
  match decodeWord w with
  | .error _ => .error w
  | .ok i =>
    if m == 0x3E || m == 0x3F then .ok (i, p.ext)
    else if (match p.ext with | some hi => !extAccepts w hi | none => false) then .error w
    else match p.rep with
      | none => .ok (i, p.ext)
      | some (last, mask) =>
        let ok (r : Nat) : Bool := match repeatWord w p.ext mask r with
          | some (w', _) => (match decodeWord w' with | .ok _ => true | .error _ => false)
          | none => false
        if (List.range (last + 1)).all ok then
          match repeatWord w p.ext mask p.idx with
          | some (w', hi) => match decodeWord w' with
            | .ok i => .ok (i, hi)
            | .error _ => .error w
          | none => .error w
        else .error w

/-- The next word of a thread (R19, R78): it stands behind the prefix words already seen. -/
def fetchWord (t : Thread) : Nat := (t.word (t.pc + t.pfx.len)).toNat

/-- The instruction a thread issues next and the thread as it issues it; the error is the failing word of an illegal word or
sequence, which issues as ILL at decode (R77). -/
def fetch (t : Thread) : Except Nat (Instr × Thread) :=
  match issueWord t.pfx (fetchWord t) with
  | .ok (i, hi) => .ok (i, { t with pfx := { t.pfx with hi := hi } })
  | .error w => .error w

/-! ## Two units (R79, R118, R119) -/

/-- The unit that executes a word, true the E-unit; none for a word that belongs to both, or to none (R79, R90). -/
def unitOf (w : Nat) : Option Bool :=
  let m := bits w 26 6
  if m ≤ 1 || (0x04 ≤ m && m ≤ 0x10) || m == 0x31 then some true
  else if m ≤ 3 || (0x14 ≤ m && m ≤ 0x1E) || (0x20 ≤ m && m ≤ 0x2D) || m == 0x30 then some false
  else if m == 0x2E && [1, 2, 7, 8].contains (bits w 20 6) then some false
  else none

/-- A branch or jump whose outcome the evaluating unit pushes (R119). -/
def pushesOutcome (w : Nat) : Bool :=
  let m := bits w 26 6
  m == 0x30 || m == 0x31 || (m == 0x2E && (bits w 20 6 == 7 || bits w 20 6 == 8))

/-- The unit of the sequence at an index: that of the first word behind its prefixes. -/
def Thread.seqUnit (t : Thread) (k : Nat) : Option Bool := unitOf (t.seqWord k)

/-- JMP or JAL, whose target both units compute (R119). -/
def isJump (w : Nat) : Bool := bits w 26 6 == 0x32 || bits w 26 6 == 0x33

/-- A word that an A-unit which is ahead may pass by itself, though it belongs to both units: NOP, JMP and JAL (R118, R119). -/
def passesAlone (w : Nat) : Bool := isJump w || w == 0xB8000000

/-- A word with bank 1: both units have a part in it, through a queue (R86, R89, R90, R222). -/
def isBank (w : Nat) : Bool :=
  match decodeWord w with
  | .ok (.qpush _ b _) | .ok (.qpop _ b _) | .ok (.ret _ _ b) | .ok (.mfs _ _ b) | .ok (.mts _ _ b) => b
  | _ => false

/-- An A-unit word pops SQ (R75, R84). -/
def popsSq (w : Nat) : Bool :=
  let m := bits w 26 6
  ((m == 2 || m == 3) && (bitAt w 9 || bitAt w 8)) || (0x28 ≤ m && m ≤ 0x2B)

/-- An A-unit word pushes LQ (R75, R84). -/
def pushesLq (w : Nat) : Bool :=
  let m := bits w 26 6
  ((m == 2 || m == 3) && bitAt w 10) || (0x20 ≤ m && m ≤ 0x23 && bits w 21 5 == 0)

/-- The A-unit, ahead of words of the E-unit, meets neither a full LQ whose pops are still to come, nor an SQ whose pushes are
(R118, R120). -/
def Thread.queuesServe (t : Thread) (w : Nat) : Bool :=
  !(pushesLq w && t.lead.pops ≠ 0 && 16 ≤ t.lq.length) && !(popsSq w && t.lead.pushes ≠ 0 && t.sq.length < 2)

/-- The unit that is ahead may execute the sequence at the pc: with the other unit at it too, or alone when the sequence is its own
and, for a branch, fewer than 8 outcomes wait (R119). -/
def Thread.mayIssue (t : Thread) : Bool :=
  match t.ahead with
  | none => true
  | some true =>
    t.seqUnit (t.pc + t.pfx.len) == some true && (!pushesOutcome (t.word t.pc).toNat || t.bqe.length < 8)
  | some false =>
    let w := t.seqWord (t.pc + t.pfx.len)
    !t.lead.even && !isBank w && t.queuesServe w &&
    (passesAlone w || (unitOf w == some false && (!pushesOutcome w || t.bqa.length < 8)))

/-- The sequence of the E-unit at an index, when it can be left to it: its length, and the values that it pops from LQ and pushes to SQ;
none for any other word, for a branch, and for a sequence that is illegal. -/
def Thread.eSeq (t : Thread) (k : Nat) : Option (Nat × Nat × Nat) :=
  let w (i : Nat) : Nat := (t.word (k + i)).toNat
  let p : Pfx := match decodeWord (w 0), decodeWord (w 1) with
    | .ok (.rep n m), .ok (.ext v) => { rep := some (n.val, m), ext := some v, len := 2 }
    | .ok (.rep n m), _ => { rep := some (n.val, m), len := 1 }
    | .ok (.ext v), _ => { ext := some v, len := 1 }
    | _, _ => {}
  let x := w p.len
  let m := bits x 26 6
  let n := (p.rep.map fun r => r.1 + 1).getD 1
  if m ≤ 1 || (0x04 ≤ m && m ≤ 0x10) then match issueWord p x with
    | .ok _ => some (p.len + 1, if m ≤ 1 then n * (b2n (bitAt x 9) + b2n (bitAt x 8)) else 0, if m ≤ 1 then n * b2n (bitAt x 10) else 0)
    | .error _ => none
  else none

/-- The A-unit runs ahead of a sequence of the E-unit (R118), which is left to it. It does so where no check of R120 fails, in program
order, at that sequence; at one that traps it waits (R121). REPST is cleared as the sequence would (R145). -/
def Thread.leave (t : Thread) : Thread :=
  if t.ahead == some true || t.pfx.len ≠ 0 || t.wait ≠ .none || t.resume.isSome || t.lead.even then t
  else match t.eSeq t.pcA with
    | some (n, po, pu) =>
      if t.lead.pops + po ≤ t.lq.length && t.sq.length + t.lead.pushes + pu ≤ 16 then
        { t with
          pcA := t.pcA + n
          lead := { t.lead with words := t.lead.words + 1, pops := t.lead.pops + po, pushes := t.lead.pushes + pu }
          sys := if bits (t.word t.pcA).toNat 26 6 == 0x3F then { t.sys with repst := 0 } else t.sys }
      else t
    | none => t

/-- The unit that is behind passes one word (R118, R119): it pops the outcome of a branch, takes a jump, and skips any other. -/
def Thread.follow (t : Thread) : Thread :=
  match t.ahead with
  | none => t
  | some true =>
    if pushesOutcome (t.word t.pcA).toNat then match t.bqe with
      | (tk, tg) :: rest => { t with bqe := rest, pcA := if tk then tg.toNat else t.pcA + 1 }
      | [] => t
    else { t with pcA := t.pcA + 1 }
  | some false =>
    let w := (t.word t.pcE).toNat
    if pushesOutcome w then match t.bqa with
      | (tk, tg) :: rest => { t with bqa := rest, pcE := if tk then tg.toNat else t.pcE + 1 }
      | [] => t
    else if isJump w then
      { t with pcE := ((t.pcE : Int) + (BitVec.ofNat 26 w).toInt).toNat, lead := { t.lead with jumps := t.lead.jumps - 1 } }
    else { t with pcE := t.pcE + 1 }

/-- The E-unit, which is behind, stands at a sequence that the A-unit has left to it. -/
def Thread.atLeft (t : Thread) : Bool := t.lead.words ≠ 0 && (t.eSeq t.pcE).isSome

/-- The thread as the E-unit, which is behind, executes a sequence of its own. -/
def Thread.asBehind (t : Thread) : Thread := { t with pcA := t.pcE, bqa := [], lead := {}, pfx := {}, wait := .none, resume := none }

/-- The thread after the E-unit has executed a sequence that was left to it; the A-unit stands where it stood. -/
def Thread.caughtUp (t new : Thread) : Thread :=
  let (po, pu) := ((t.eSeq t.pcE).map fun x => x.2).getD (0, 0)
  { new with
    pcA := t.pcA, bqa := t.bqa, pfx := t.pfx, wait := t.wait, resume := t.resume, sys := { new.sys with repst := t.sys.repst }
    lead := { t.lead with even := t.lead.even && t.lead.words ≠ 1, words := t.lead.words - 1, pops := t.lead.pops - po, pushes := t.lead.pushes - pu } }

/-- A new holder for a word placed by hand: an instance with no caller in cell (0, 0) of die 0 (log 4). -/
def handHolder : Holder := { id := { inst := 0, pid := 0 } }

/-- Store code words at the pc of the thread that `step` runs next, and give it the next turn. -/
def placeWords (s : State) (ws : List W32) : State :=
  let h := (s.h? s.cur).getD handHolder
  let t := h.th
  let pad := t.code ++ List.replicate (t.pc + t.pfx.len - t.code.length) 0xFFFFFFFF
  let k := t.pc + t.pfx.len
  let code := pad.take k ++ ws ++ pad.drop (k + ws.length)
  let s := s.setH s.cur { h with
    id := { h.id with life := .placed }
    ev := { h.ev with draining := false, rackBy := none }
    th := { t with code := code, pcA := t.pc, pcE := t.pc, bqe := [], bqa := [], lead := {}, asleep := false, halted := false } }
  { s with agenda := .thread s.cur :: s.agenda }

end Sys2Proof.Machine
end

