-- ==== Sys2Proof/Machine/Units.lean ====
section
/-! DEFINITION. The turns of the unit that is behind, and of an A-unit that runs ahead of words of the E-unit (R118, R119). -/

namespace Sys2Proof.Machine

/-- One word of the sequence at which a thread's units stood at index `k` is issued, while they stand there. -/
def issueAt (i k : Nat) (o : Out) : Out :=
  match o with
  | .next s => match s.h? i with
    | some h =>
      if h.th.pcE != k then .next s
      else match fetch h.th with
        | .ok (ins, t) => exec ins (s.setH i { h with th := t })
        | .error _ => .next s
    | none => .next s
  | o => o

/-- The E-unit, behind, executes the whole sequence at its index: at most two prefixes and 64 repeats (R144). -/
def eTurn (s : State) (i : Nat) (h : Holder) : Out :=
  let s0 := { s with cur := i }.setH i { h with th := h.th.asBehind }
  match (List.range 66).foldl (fun o _ => issueAt i h.th.pcE o) (.next s0) with
  | .next s => .next (s.modThOf i h.th.caughtUp)
  | o => o

/-- The unit that is behind executes the sequence of its own that it stands at, or passes a word. -/
def behind (s : State) (i : Nat) (h : Holder) : Out :=
  if h.th.atLeft then eTurn s i h else .next (s.setH i { h with th := h.th.follow })

/-- The unit of a thread that is behind moves (R118, R119). -/
def followTurn (s : State) (i : Nat) : Out :=
  match s.h? i with
  | some h => if h.runs then behind s i h else .next s
  | none => .next s

/-- The A-unit of a thread passes a sequence that it leaves to the E-unit (R118). -/
def leadTurn (s : State) (i : Nat) : Out :=
  .next (match s.h? i with
    | some h => if h.runs && !h.th.asleep then s.setH i { h with th := h.th.leave } else s
    | none => s)

/-- Before a die's clocks advance, its refill that is due takes effect (R399). -/
def cycleTurn (s : State) (d : Nat) : State := refill s d

end Sys2Proof.Machine
end

