-- ==== Sys2Proof/Machine/Step.lean ====
section
/-! DEFINITION. One step of the package: one turn of a control thread, of the device, or of the clocks. -/

namespace Sys2Proof.Machine

/-- A thread's turn: it fetches, decodes and executes one word; a thread that sleeps, has halted or holds no region issues
nothing (R153). Where the unit that is ahead must wait for the other, the other moves (R118, R119). -/
def threadTurn (s : State) (i : Nat) : Out :=
  match s.h? i with
  | none => .next s
  | some h =>
    if !h.runs || h.th.asleep then .next s
    else if !h.th.mayIssue then behind s i h
    else
      match fetch h.th with
      | .ok (ins, t) => exec ins ({ s with cur := i }.setH i { h with th := t })
      | .error w => execIllAtDecode (BitVec.ofNat 32 w) { s with cur := i }

/-- A device step's turn. -/
def eventTurn (s : State) (e : Instr) : Out := if e.isStep then exec e s else .next s

/-- A turn. -/
def runTurn (s : State) (t : Turn) : Out :=
  match t with
  | .thread i => threadTurn s i
  | .follow i => followTurn s i
  | .lead i => leadTurn s i
  | .event e => eventTurn s e
  | .cycle d => .next (cycleTurn s d)

/-- The clocks after a turn (R397). -/
def endTurn (old : State) (t : Turn) (o : Out) : Out :=
  match o with
  | .next s => .next (match t with | .cycle d => tick (keepClocks old s) d | _ => keepClocks old s)
  | .fault f => .fault f
  | .refused r => .refused r

/-- One step: the turn that the agenda, or the free order of Config, gives. -/
def step (s : State) : Out :=
  let (t, s) := nextTurn s
  if blockedTurn s t then .fault .stopped else endTurn s t (runTurn s t)

/-- The words of an instruction of `nbits` bits `w`, first word lowest, padded with zero words to the longest sequence of
three (R76). -/
def wordsFrom (nbits w : Nat) : List W32 :=
  (List.range (max 3 (ceilDiv nbits 32))).map fun i => BitVec.ofNat 32 (bits w 0 nbits / 2 ^ (32 * i))

/-- `s` with an instruction where `step` fetches next (log 4). -/
def State.withFetchWord (s : State) (nbits w : Nat) : State := placeWords s (wordsFrom nbits w)

end Sys2Proof.Machine
end

