-- ==== Sys2Proof/Safety.lean ====
section
/-! DEFINITION. What counts as a safe run, the invariants and frames that statements use, and the arithmetic that the manual's tables give the register instructions, written with numbers. -/

namespace Sys2Proof

open Machine

/-! ## Runs and invariants -/

/-- Every die's slice counter stands at twice its fabric counter: the clocks are 600 MHz and 1.2 GHz (R397, R398, R447). -/
def clocksAgree (s : State) : Prop := ∀ d ∈ s.dies, d.scyc = d.fcyc + d.fcyc

/-- A step answers a next state. -/
def goesOn (o : Out) : Prop := ∃ s, o = .next s

/-! ## Frames -/

/-- Every byte of HBM, Cellar, scratchpad and host memory reads as before. -/
def memSame (s t : State) : Prop :=
  ∀ a, memGet t.mem.bytes a = memGet s.mem.bytes a ∧ memGet t.mem.scratch a = memGet s.mem.scratch a ∧
    memGet t.mem.host a = memGet s.mem.host a

/-- Nothing of the thread but its registers, its wait, its prefixes, its place in the program and REPST has changed. -/
def quiet (old new : Thread) : Prop :=
  new.lq = old.lq ∧ new.sq = old.sq ∧ new.bqe = old.bqe ∧ new.bqa = old.bqa ∧
  new.sys = { old.sys with repst := new.sys.repst } ∧ new.resume = old.resume ∧ new.asleep = old.asleep ∧
  new.halted = old.halted ∧ new.wakeSig = old.wakeSig ∧ new.gbar = old.gbar ∧ new.loadBar = old.loadBar ∧
  new.copies = old.copies ∧ new.code = old.code ∧ new.lead = old.lead

/-- The units that stand at the sequence have passed it: both, or the one that is ahead alone (R118). -/
def passed (old new : Thread) (next : Nat) : Prop :=
  new.pcA = (if old.ahead = some true then old.pcA else next) ∧ new.pcE = (if old.ahead = some false then old.pcE else next)

/-- The thread has gone on: outside a REP its units stand at the word after the sequence, with no prefix and no wait; REPST
changes only when a REP runs to its end (R118, R144, R145). -/
def advanced (old new : Thread) : Prop :=
  new.wait = .none ∧
  (old.pfx.rep = none → passed old new (old.pc + old.pfx.len + 1) ∧ new.pfx = {} ∧ new.sys.repst = old.sys.repst)

/-- Every register of the thread is unchanged. -/
def regsSame (old new : Thread) : Prop := ∀ r, new.a r = old.a r ∧ new.s r = old.s r

/-- Of the registers, only register `d` of unit `e` has changed: it holds `v`, and register 0 reads 0 (R114). -/
def wrote (e : Bool) (d : Reg) (v : W64) (old new : Thread) : Prop :=
  (∀ r, new.get e r = if r = d then (if d = 0 then 0 else v) else old.get e r) ∧ ∀ r, new.get (!e) r = old.get (!e) r

/-! ## Arithmetic of the register instructions (R135 to R138) -/

/-- A number as a register value. -/
def ofN (n : Nat) : W64 := BitVec.ofNat 64 n
/-- An integer as a register value. -/
def ofZ (z : Int) : W64 := BitVec.ofInt 64 z
/-- 1 or 0. -/
def truth (p : Prop) [Decidable p] : W64 := if p then 1 else 0

/-- What R135 gives each three-operand integer function of a and b. -/
def intTable : List (Bool × (R3 → Instr) × (W64 → W64 → W64)) :=
  [(true, .addE, fun a b => ofN (a.toNat + b.toNat)), (false, .addA, fun a b => ofN (a.toNat + b.toNat)),
   (true, .subE, fun a b => ofZ (a.toInt - b.toInt)), (false, .subA, fun a b => ofZ (a.toInt - b.toInt)),
   (true, .andE, fun a b => ofN (a.toNat &&& b.toNat)), (false, .andA, fun a b => ofN (a.toNat &&& b.toNat)),
   (true, .orE, fun a b => ofN (a.toNat ||| b.toNat)), (false, .orA, fun a b => ofN (a.toNat ||| b.toNat)),
   (true, .xorE, fun a b => ofN (a.toNat ^^^ b.toNat)), (false, .xorA, fun a b => ofN (a.toNat ^^^ b.toNat)),
   (true, .andnE, fun a b => ofN (a.toNat - (a.toNat &&& b.toNat))), (false, .andnA, fun a b => ofN (a.toNat - (a.toNat &&& b.toNat))),
   (true, .sllE, fun a b => ofN (a.toNat * 2 ^ (b.toNat % 64))), (false, .sllA, fun a b => ofN (a.toNat * 2 ^ (b.toNat % 64))),
   (true, .srlE, fun a b => ofN (a.toNat / 2 ^ (b.toNat % 64))), (false, .srlA, fun a b => ofN (a.toNat / 2 ^ (b.toNat % 64))),
   (true, .sraE, fun a b => ofZ (a.toInt / 2 ^ (b.toNat % 64))), (false, .sraA, fun a b => ofZ (a.toInt / 2 ^ (b.toNat % 64))),
   (true, .rol, fun a b => ofN (a.toNat * 2 ^ (b.toNat % 64) + a.toNat / 2 ^ (64 - b.toNat % 64))),
   (true, .ror, fun a b => ofN (a.toNat / 2 ^ (b.toNat % 64) + a.toNat * 2 ^ (64 - b.toNat % 64))),
   (true, .mulE, fun a b => ofN (a.toNat * b.toNat)), (false, .mulA, fun a b => ofN (a.toNat * b.toNat)),
   (true, .mulh, fun a b => ofZ (a.toInt * b.toInt / 2 ^ 64)), (true, .mulhu, fun a b => ofN (a.toNat * b.toNat / 2 ^ 64)),
   (true, .minE, fun a b => ofZ (min a.toInt b.toInt)), (false, .minA, fun a b => ofZ (min a.toInt b.toInt)),
   (true, .maxE, fun a b => ofZ (max a.toInt b.toInt)), (false, .maxA, fun a b => ofZ (max a.toInt b.toInt)),
   (true, .minuE, fun a b => ofN (min a.toNat b.toNat)), (false, .minuA, fun a b => ofN (min a.toNat b.toNat)),
   (true, .maxuE, fun a b => ofN (max a.toNat b.toNat)), (false, .maxuA, fun a b => ofN (max a.toNat b.toNat)),
   (true, .seqE, fun a b => truth (a.toNat = b.toNat)), (false, .seqA, fun a b => truth (a.toNat = b.toNat)),
   (true, .sneE, fun a b => truth (a.toNat ≠ b.toNat)), (false, .sneA, fun a b => truth (a.toNat ≠ b.toNat)),
   (true, .sltE, fun a b => truth (a.toInt < b.toInt)), (false, .sltA, fun a b => truth (a.toInt < b.toInt)),
   (true, .sltuE, fun a b => truth (a.toNat < b.toNat)), (false, .sltuA, fun a b => truth (a.toNat < b.toNat))]

/-- DIV, DIVU, REM and REMU (R136): quotients round toward zero, a remainder takes the sign of a; a division by zero gives −1 and
the remainder a; the largest negative number over −1 gives itself and 0. -/
def divTable : List ((R3 → Instr) × (W64 → W64 → W64)) :=
  [(.div, fun a b => if b.toNat = 0 then ofZ (-1) else if a.toInt < 0 ↔ b.toInt < 0 then ofN (a.toInt.natAbs / b.toInt.natAbs) else ofZ (-((a.toInt.natAbs / b.toInt.natAbs : Nat) : Int))),
   (.divu, fun a b => if b.toNat = 0 then ofN (2 ^ 64 - 1) else ofN (a.toNat / b.toNat)),
   (.rem, fun a b => if b.toNat = 0 then a else if a.toInt < 0 then ofZ (-((a.toInt.natAbs % b.toInt.natAbs : Nat) : Int)) else ofN (a.toInt.natAbs % b.toInt.natAbs)),
   (.remu, fun a b => if b.toNat = 0 then a else ofN (a.toNat % b.toNat))]

/-- The one-operand functions (R135). -/
def unaryTable : List (Bool × (R2 → Instr) × (W64 → W64)) :=
  [(true, .movE, fun a => a), (false, .movA, fun a => a),
   (true, .clz, fun a => ofN (if a.toNat = 0 then 64 else 63 - a.toNat.log2)),
   (true, .popc, fun a => ofN (((List.range 64).filter fun i => a.toNat / 2 ^ i % 2 = 1).length)),
   (true, .sxb, fun a => ofZ (if a.toNat % 2 ^ 8 < 2 ^ 7 then (a.toNat % 2 ^ 8 : Nat) else (a.toNat % 2 ^ 8 : Nat) - 2 ^ 8)),
   (true, .sxh, fun a => ofZ (if a.toNat % 2 ^ 16 < 2 ^ 15 then (a.toNat % 2 ^ 16 : Nat) else (a.toNat % 2 ^ 16 : Nat) - 2 ^ 16)),
   (true, .sxw, fun a => ofZ (if a.toNat % 2 ^ 32 < 2 ^ 31 then (a.toNat % 2 ^ 32 : Nat) else (a.toNat % 2 ^ 32 : Nat) - 2 ^ 32))]

/-- The value of a 16-bit immediate, or of the 32-bit value that EXT makes of it, with and without its sign (R83, R143). -/
def immValue (t : Thread) (imm : BitVec 16) : Nat := (match t.pfx.hi with | some hi => hi.toNat * 2 ^ 16 | none => 0) + imm.toNat
def immInt (t : Thread) (imm : BitVec 16) : Int :=
  match t.pfx.hi with
  | some hi => hi.toInt * 2 ^ 16 + imm.toNat
  | none => imm.toInt

/-- The immediate functions of R137 on a and the thread that holds the prefix. -/
def immTable : List (Bool × (I3 → Instr) × (Thread → W64 → BitVec 16 → W64)) :=
  [(true, .addiE, fun t a i => ofZ (a.toInt + immInt t i)), (false, .addiA, fun t a i => ofZ (a.toInt + immInt t i)),
   (true, .andiE, fun t a i => ofN (a.toNat &&& immValue t i)), (false, .andiA, fun t a i => ofN (a.toNat &&& immValue t i)),
   (true, .oriE, fun t a i => ofN (a.toNat ||| immValue t i)), (false, .oriA, fun t a i => ofN (a.toNat ||| immValue t i)),
   (true, .xoriE, fun t a i => ofN (a.toNat ^^^ immValue t i)), (false, .xoriA, fun t a i => ofN (a.toNat ^^^ immValue t i)),
   (true, .sltiE, fun t a i => truth (a.toInt < immInt t i)), (false, .sltiA, fun t a i => truth (a.toInt < immInt t i)),
   (true, .sltiuE, fun t a i => truth (a.toNat < (ofZ (immInt t i)).toNat)), (false, .sltiuA, fun t a i => truth (a.toNat < (ofZ (immInt t i)).toNat)),
   (true, fun f => .moviE f.d f.imm, fun t _ i => ofZ (immInt t i)), (false, fun f => .moviA f.d f.imm, fun t _ i => ofZ (immInt t i)),
   (true, fun f => .movhiE f.d f.imm, fun t _ i => ofN (immValue t i * 2 ^ 32)), (false, fun f => .movhiA f.d f.imm, fun t _ i => ofN (immValue t i * 2 ^ 32))]

/-- The immediate shifts of R137. -/
def shiftTable : List (Bool × (Sh → Instr) × (W64 → Nat → W64)) :=
  [(true, .slliE, fun a n => ofN (a.toNat * 2 ^ n)), (false, .slliA, fun a n => ofN (a.toNat * 2 ^ n)),
   (true, .srliE, fun a n => ofN (a.toNat / 2 ^ n)), (false, .srliA, fun a n => ofN (a.toNat / 2 ^ n)),
   (true, .sraiE, fun a n => ofZ (a.toInt / 2 ^ n)), (false, .sraiA, fun a n => ofZ (a.toInt / 2 ^ n))]

/-- The bit-field extract of R138: `wid` bits of a from bit `off`, those past bit 63 left out. -/
def fieldOf (a : W64) (off wid : Nat) : W64 := if wid = 0 ∨ 64 ≤ off then 0 else ofN (a.toNat / 2 ^ off % 2 ^ min wid (64 - off))

/-- The bit-field insert of R138, bit by bit. -/
def inserted (d a v : W64) (off wid : Nat) : Prop :=
  ∀ i < 64, v.getLsbD i = if off ≤ i ∧ i < off + wid then a.getLsbD (i - off) else d.getLsbD i

/-! ## Floating point (R139, R140) -/

/-- The FP32 code of an exact result, rounded once to nearest even, with FLUSH (R51, R65). -/
def fpOut (fl : Bool) (f : FFmt) (v : FV) : W64 := ofN (f.flush fl (f.enc false false v))
/-- The value of the code in the low bits of a register, with FLUSH (R51, R65). -/
def fpIn (fl : Bool) (f : FFmt) (a : W64) : FV := f.dec (f.flush fl (a.toNat % 2 ^ (1 + f.eb + f.mb)))

/-- The two-operand functions of R140. -/
def fpTable : List ((R3 → Instr) × (Bool → W64 → W64 → W64)) :=
  [(.fadd, fun fl a b => fpOut fl f32 ((fpIn fl f32 a).add (fpIn fl f32 b))),
   (.fsub, fun fl a b => fpOut fl f32 ((fpIn fl f32 a).add (fpIn fl f32 b).neg)),
   (.fmul, fun fl a b => fpOut fl f32 ((fpIn fl f32 a).mul (fpIn fl f32 b))),
   (.fmin, fun fl a b => fpOut fl f32 ((fpIn fl f32 a).min (fpIn fl f32 b))),
   (.fmax, fun fl a b => fpOut fl f32 ((fpIn fl f32 a).max (fpIn fl f32 b))),
   (.feq, fun fl a b => truth ((fpIn fl f32 a).eqv (fpIn fl f32 b) = true)),
   (.flt, fun fl a b => truth ((fpIn fl f32 a).lt (fpIn fl f32 b) = true)),
   (.fle, fun fl a b => truth ((fpIn fl f32 a).le (fpIn fl f32 b) = true))]

/-- The one-operand functions of R140. -/
def fpUnaryTable : List ((R2 → Instr) × (Bool → W64 → W64)) :=
  [(.fabs, fun fl a => fpOut fl f32 (fpIn fl f32 a).abs), (.fneg, fun fl a => fpOut fl f32 (fpIn fl f32 a).neg),
   (.ftoi, fun fl a => ofZ ((fpIn fl f32 a).toInt false (-2 ^ 31) (2 ^ 31 - 1))),
   (.ftoiz, fun fl a => ofZ ((fpIn fl f32 a).toInt true (-2 ^ 31) (2 ^ 31 - 1))),
   (.ftol, fun fl a => ofZ ((fpIn fl f32 a).toInt false (-2 ^ 63) (2 ^ 63 - 1))),
   (.ftolz, fun fl a => ofZ ((fpIn fl f32 a).toInt true (-2 ^ 63) (2 ^ 63 - 1))),
   (.itof, fun _ a => ofN (f32.enc false false (.ofInt (a.setWidth 32).toInt))),
   (.ltof, fun _ a => ofN (f32.enc false false (.ofInt a.toInt))),
   (.ftobf, fun fl a => fpOut fl bf16 (fpIn fl f32 a)), (.ftoh, fun fl a => fpOut fl f16 (fpIn fl f32 a)),
   (.bftof, fun fl a => fpOut fl f32 (fpIn fl bf16 a)), (.htof, fun fl a => fpOut fl f32 (fpIn fl f16 a))]

/-! ## Branches (R85, R119, R141) -/

/-- The conditional branches, the unit that evaluates (true for the E-unit) and the condition on all 64 bits (R85). -/
def branchTable : List (Bool × (Br → Instr) × (W64 → W64 → Bool)) :=
  [(false, .beqA, fun a b => a.toNat == b.toNat), (true, .beqE, fun a b => a.toNat == b.toNat),
   (false, .bneA, fun a b => a.toNat != b.toNat), (true, .bneE, fun a b => a.toNat != b.toNat),
   (false, .bltA, fun a b => decide (a.toInt < b.toInt)), (true, .bltE, fun a b => decide (a.toInt < b.toInt)),
   (false, .bgeA, fun a b => decide (b.toInt ≤ a.toInt)), (true, .bgeE, fun a b => decide (b.toInt ≤ a.toInt)),
   (false, .bltuA, fun a b => decide (a.toNat < b.toNat)), (true, .bltuE, fun a b => decide (a.toNat < b.toNat)),
   (false, .bgeuA, fun a b => decide (b.toNat ≤ a.toNat)), (true, .bgeuE, fun a b => decide (b.toNat ≤ a.toNat)),
   (false, .banyA, fun a b => (a.toNat &&& b.toNat) != 0), (true, .banyE, fun a b => (a.toNat &&& b.toNat) != 0),
   (false, .bnoneA, fun a b => (a.toNat &&& b.toNat) == 0), (true, .bnoneE, fun a b => (a.toNat &&& b.toNat) == 0)]

/-- Both units go on at `pc`, with no prefix and no wait. -/
def bothAt (th : Thread) (pc : Nat) : Prop := th.pcA = pc ∧ th.pcE = pc ∧ th.pfx = {} ∧ th.wait = .none

/-- The unit that evaluates a branch, true the E-unit, has pushed an outcome and gone on at `pc` with no prefix and no wait; the other
unit stands where it stood (R119). -/
def crossedTo (old new : Thread) (e : Bool) (pc : Nat) (x : Bool × BitVec 12) : Prop :=
  new.pfx = {} ∧ new.wait = .none ∧
  new.pcE = (if e then pc else old.pcE) ∧ new.pcA = (if e then old.pcA else pc) ∧
  new.bqe = (if e then old.bqe ++ [x] else old.bqe) ∧ new.bqa = (if e then old.bqa else old.bqa ++ [x])

/-! ## Memory accesses of the thread (R288, R289, R300, R301) -/

/-- An access of the thread at a virtual address needs no walk, or a walk is free for it (R357). -/
def walkFree (s : State) (h : Holder) (a : W64) : Prop :=
  addrForm a = .virtual → s.mayWalk h.id.die h.id.pid (a.toNat / 2 ^ 16 % 2 ^ 32) h.id.inst missCt = true

/-- A write of the thread at a virtual address meets no copy-on-write leaf through whose old frame accesses are open (R358, R367). -/
def cowFree (s : State) (h : Holder) (a : W64) : Prop := addrForm a = .virtual → cowWaits s h.id.pid (a.toNat % 2 ^ 48) h.id.inst = false

/-- A load of the thread combines with others: its line is clean and its read can stand at a router of its path (R256, R257). -/
def combines (s : State) (h : Holder) (a : W64) (p : Place) : Prop :=
  (p.kind = 1 ∨ p.kind = 2) ∧ cleanVa s h.id.pid a.toNat = true ∧ joins s.acquired (p.addr / 64) (readPath h.id.die (h.id.cellAt 0) p.addr) = true

/-- Only the thread of holder `h` has changed, besides what its line counts on its way, at the port and at the slice (R402, R407), and
which of its own writes its reads may still miss (R297). -/
def threadOnly (s t : State) (h : Holder) (th : Thread) : Prop :=
  t = { s.setH s.cur { h with th := th } with dies := t.dies, unf := t.unf } ∧
  ∀ d, t.die d = { s.die d with m := { (s.die d).m with portLines := (t.die d).m.portLines, slices := (t.die d).m.slices } }

/-- A place whose reads and writes are made at once: scratchpad, or HBM that backs no chain (R289, R311). -/
def atOnce (s : State) (p : Place) : Prop := p.kind = 0 ∨ (p.kind < 3 ∧ inBacking s p.addr = false ∧ inCellar p.addr = false)

/-- The byte memory a place stands in. -/
def placeBytes (s : State) (p : Place) : List Host.Cell := if p.kind = 0 then s.mem.scratch else s.mem.bytes

/-- The `n` bytes at a place, the lowest first. -/
def readN (s : State) (p : Place) (n : Nat) : Nat := memGetN (placeBytes s p) p.addr n

/-- Every byte but the `n` bytes at a place reads as before, in every memory. -/
def storedOnly (s t : State) (p : Place) (n : Nat) : Prop :=
  (∀ a, a < p.addr ∨ p.addr + n ≤ a → memGet (placeBytes t p) a = memGet (placeBytes s p) a) ∧
  (∀ a, (p.kind = 0 → memGet t.mem.bytes a = memGet s.mem.bytes a) ∧ (p.kind ≠ 0 → memGet t.mem.scratch a = memGet s.mem.scratch a) ∧
    memGet t.mem.host a = memGet s.mem.host a)

/-- A store of the thread to a place needs no new recovery entry: it is not durable, or the agent has its entry (R323, R326). -/
def entered (s : State) (h : Holder) (pl : Place) : Prop :=
  (s.pkg.recov.find h.id.inst).isSome = true ∨ (pl.kind = 4 ∧ (s.chain pl.ch).cellar = false)

/-- A store of the thread to a chain or Cellar place can be issued: the chain entry buffer has room, the chain is not being freed, and a
first durable store finds a recovery entry (R313, R322, R326). -/
def canIssue (s : State) (h : Holder) (pl : Place) : Prop :=
  (pl.kind = 3 ∨ (pl.kind = 4 ∧ chainEntries s h.id.die < 512 ∧ chainClosing s pl.ch = false)) ∧
  (entered s h pl ∨ recovPick s h.id.die ≠ none) ∧ h.id.die < s.dies.length

/-- A store of `n` bytes of `v` at a place has become the youngest pending store of the thread's die, as `x`. No byte of any memory has
changed, but for the recovery entry that a first durable store takes (R313, R323, R326). -/
def joinsPending (s t : State) (h : Holder) (pl : Place) (n v : Nat) (x : Pending) : Prop :=
  (t.die h.id.die).m.pend = (s.die h.id.die).m.pend ++ [x] ∧ x.agent = .holder h.id.inst ∧ x.cls = .ct ∧ x.epoch = h.th.sys.pepoch.toNat ∧
  x.line = pl.addr / 64 * 64 ∧ x.ch = (if pl.kind = 4 then some pl.ch else none) ∧ x.off = pl.addr % 64 ∧ x.width = n ∧
  x.mask = byteMask (pl.addr % 64) n ∧ x.val = lineOf (pl.addr % 64) (v % 256 ^ n) ∧
  (entered s h pl → t.mem = s.mem) ∧
  ∀ e, ¬ entered s h pl → recovPick s h.id.die = some e → t.pkg.recov.find h.id.inst = some { die := h.id.die, entry := e, ended := none } ∧
    t.mem.scratch = s.mem.scratch ∧ (Memory.wf s.mem.bytes = true → ∀ a, a < recovAddr h.id.die e ∨ recovAddr h.id.die e + 32 ≤ a →
      memGet t.mem.bytes a = memGet s.mem.bytes a)

/-- The loads and their widths in bytes (R300). -/
def loadTable : List (Nat × (I3 → Instr)) := [(1, .ldB), (2, .ldH), (4, .ldW), (8, .ldD)]

/-- The stores, their widths and the value stored (R300): `q` is true where the value is popped from SQ. -/
def storeTable : List (Nat × Bool × (I3 → Instr)) :=
  [(1, false, .stB), (2, false, .stH), (4, false, .stW), (8, false, .stD), (1, true, fun f => .stBSq f.a f.imm),
   (2, true, fun f => .stHSq f.a f.imm), (4, true, fun f => .stWSq f.a f.imm), (8, true, fun f => .stDSq f.a f.imm)]

/-- Sign extension of the low `8 * n` bits of a number. -/
def signedOf (n v : Nat) : Int := (BitVec.ofNat (8 * n) v).toInt

/-- The atomics of R301: width, instruction, whether QD has a meaning, and the new word made of the word found, of d and of b. -/
def atomicTable : List (Nat × (RA → Instr) × (Nat → Nat → Nat → Nat)) :=
  [(4, .aaddW, fun o _ b => (o + b) % 2 ^ 32), (8, .aaddD, fun o _ b => (o + b) % 2 ^ 64),
   (4, .aminW, fun o _ b => if signedOf 4 b < signedOf 4 o then b % 2 ^ 32 else o), (8, .aminD, fun o _ b => if signedOf 8 b < signedOf 8 o then b else o),
   (4, .amaxW, fun o _ b => if signedOf 4 o < signedOf 4 b then b % 2 ^ 32 else o), (8, .amaxD, fun o _ b => if signedOf 8 o < signedOf 8 b then b else o),
   (4, .axchgW, fun _ _ b => b % 2 ^ 32), (8, .axchgD, fun _ _ b => b),
   (4, fun f => .acasW ⟨f.d, f.a, f.b, f.qb⟩, fun o d b => if o = d % 2 ^ 32 then b % 2 ^ 32 else o),
   (8, fun f => .acasD ⟨f.d, f.a, f.b, f.qb⟩, fun o d b => if o = d then b else o)]

/-- The address of an access with its offset (R300): register a plus the offset, sign-extended, EXT giving it 32 bits. -/
def accAddr (t : Thread) (a : Reg) (imm : BitVec 16) : W64 := ofZ ((t.a a).toInt + immInt t imm)

/-! ## Special registers (R122 to R133) -/

/-- What MFS reads of each special register. -/
def srValue (s : State) (h : Holder) (sr : Nat) : W64 :=
  match sr with
  | 0 => ofN h.id.inst
  | 1 => if h.id.gang = 2 ^ 32 - 1 then ofZ (-1) else ofN (h.id.mem % 64 * 2 ^ 32 + h.id.gang)
  | 2 => ofN (h.id.die * 2 ^ 12 + h.id.row * 2 ^ 8 + h.id.col)
  | 3 => ofN (h.id.cls * 2 ^ 16 + h.id.h * 2 ^ 8 + h.id.w)
  | 4 => if h.id.parent = 2 ^ 32 - 1 then ofZ (-1) else ofN h.id.parent
  | 5 => h.id.mode
  | 6 => h.th.sys.tvec
  | 7 => h.th.sys.epc
  | 8 => h.th.sys.ecause
  | 9 => h.th.sys.eaddr
  | 10 => h.th.sys.repst
  | 11 => (s.die h.id.die).fcyc
  | 12 => h.th.sys.pepoch
  | _ => ofN (h.th.sys.nbound.toNat * 2 ^ 8 + (if h.th.sys.serr then 4 else 0) + (if h.th.sys.run then 2 else 0) + (if h.th.sys.wake then 1 else 0))

/-- A bit of a special register that MTS writes (R127 to R131). -/
def mtsBit (sr i : Nat) : Bool :=
  match sr with
  | 6 => decide (i < 13)
  | 7 => decide (i < 13)
  | 8 => decide (i < 20)
  | 9 => true
  | 10 => decide (i < 6) || (decide (8 ≤ i) && decide (i < 14)) || i == 15
  | _ => false

/-- The five registers that MTS writes, by number. -/
def srField (r : SysRegs) (sr : Nat) : W64 :=
  match sr with
  | 6 => r.tvec
  | 7 => r.epc
  | 8 => r.ecause
  | 9 => r.eaddr
  | _ => r.repst

/-! ## Queue operands (R75, R120, R134) -/

/-- A unit's inward queue. -/
def inwardQueue (e : Bool) (t : Thread) : List W64 := if e then t.lq else t.sq
/-- A unit's outward queue. -/
def outwardQueue (e : Bool) (t : Thread) : List W64 := if e then t.sq else t.lq
/-- The words that an instruction with operands a and b pops. -/
def popCount (qa qb : Bool) : Nat := (if qa then 1 else 0) + (if qb then 1 else 0)
/-- A source operand: the `k`th word of the inward queue, or a register. -/
def sourceOf (e q : Bool) (k : Nat) (r : Reg) (t : Thread) : W64 := if q then (inwardQueue e t).getD k 0 else t.get e r

/-- The instruction has popped `n` words from the unit's inward queue, `v` has gone to the outward queue or to register d, nothing else
has changed, and the thread goes on. -/
def queued (e qd : Bool) (n : Nat) (d : Reg) (v : W64) (old new : Thread) : Prop :=
  inwardQueue e new = (inwardQueue e old).drop n ∧ outwardQueue e new = outwardQueue e old ++ (if qd then [v] else []) ∧
  (if qd then regsSame old new else wrote e d v old new) ∧ quiet { old with lq := new.lq, sq := new.sq } new ∧ advanced old new

/-- The functions of three operands with their queue forms: the unit, the instruction, and the function, FLUSH of MODE first. -/
def queueTable3 : List (Bool × (R3 → Instr) × (Bool → W64 → W64 → W64)) :=
  intTable.map (fun p => (p.1, p.2.1, fun _ => p.2.2)) ++ divTable.map (fun p => (true, p.1, fun _ => p.2)) ++
    fpTable.map (fun p => (true, p.1, p.2)) ++ [(true, .bfx, fun _ a b => fieldOf a (b.toNat % 256) (b.toNat / 256 % 256))]

/-- The functions of one operand with their queue forms. -/
def queueTable2 : List (Bool × (R2 → Instr) × (Bool → W64 → W64)) :=
  unaryTable.map (fun p => (p.1, p.2.1, fun _ => p.2.2)) ++ fpUnaryTable.map (fun p => (true, p.1, p.2))

/-! ## How an instruction of the control thread ends -/

/-- Only the thread changes, and it goes on with register d of the A-unit holding `v`. -/
def answered (o : Out) (s : State) (h : Holder) (d : Reg) (v : W64) : Prop :=
  ∃ th, o = .next (s.setH s.cur { h with th := th }) ∧ wrote false d v h.th th ∧ quiet h.th th ∧ advanced h.th th

/-- Only the thread changes, and it goes on with every register as before. -/
def wentOn (o : Out) (s : State) (h : Holder) : Prop :=
  ∃ th, o = .next (s.setH s.cur { h with th := th }) ∧ regsSame h.th th ∧ quiet h.th th ∧ advanced h.th th

/-- The thread's handler is entered, and nothing else has changed (R150). -/
def trappedTo (o : Out) (s : State) (h : Holder) (cause info : Nat) (ea : W64) : Prop :=
  o = .next (s.setH s.cur { h with th := h.th.enter false cause info ea })

/-- After an instruction that changed more than the thread: the holder's record is now `h'`, register d of the A-unit holds `v`,
and the thread has gone on. -/
def answers (t : State) (h h' : Holder) (d : Reg) (v : W64) : Prop :=
  t.me? = some h' ∧ wrote false d v h.th h'.th ∧ quiet h.th h'.th ∧ advanced h.th h'.th

/-- A handler is installed and none is running, and every store of the thread is accepted, done or durable (R121, R127). -/
def handles (s : State) (h : Holder) : Prop := ctAccepted s h = true ∧ h.th.sys.en = true ∧ h.th.sys.inh = false

/-- The thread of holder `h` has stopped for good at index `k`, with a record of a cause, INFO and ADDR (R431, R433, R434): an instance whose
frames can be had is racked, the record naming the first of them; any other holder is killed, behind its record. -/
def parksOrDies (o : Out) (s : State) (h : Holder) (cause info addr k : Nat) : Prop :=
  let record (frame : Nat) : FaultRec := ⟨cause, info, h.id.die, h.id.kind.src, h.id.inst, addr, frame / 2 ^ 16 * 2 ^ 16 + k⟩
  let parks : Prop := h.id.kind = .callee ∨ h.id.kind = .member
  (∀ s2 g, parks → rack s h 0 .parked = some s2 → s2.h? h.id.inst = some g → o = .next (postFault s2 h.id.pid (record (g.saved.frames.headD 0)))) ∧
  (parks → rack s h 0 .parked = none → o = .next (killHolder (postFault s h.id.pid (record 0)) h)) ∧
  (¬ parks → o = .next (killHolder (postFault s h.id.pid (record 0)) h))

/-! ## The task pool (R388, R389) -/

/-- A ready TCB of a process enters the pool of a die at once: no earlier record of the process stands in its hold chain, the holding
buffer or its ring, and the pool is not full. -/
def poolHasRoom (s : State) (pid d : Nat) : Prop :=
  ovPhead s pid d = 0 ∧ inHolding s pid d = false ∧ (s.die d).p.pool.length < 4096 ∧ ringHolds s pid d = false

/-- The pool of a die has gained a record of a TCB with AGE 0 and the next SEQ. -/
def joinedPool (s t : State) (pid d tcb prio : Nat) : Prop :=
  (t.die d).p.pool = (s.die d).p.pool ++ [{ tcb := tcb, pid := pid, prio := prio, seq := ((s.die d).p.poolSeq + 1).toNat }]

/-! ## The regions -/

/-- Holder `i` of record `h` is a region whose elements fire, in a cycle that is not gated (R447), and `c` is a cell of it. -/
def regionAt (s : State) (i c : Nat) (h : Holder) : Prop :=
  s.h? i = some h ∧ h.id.inst = i ∧ h.active = true ∧ s.gated = false ∧ c < h.id.ncells ∧ c < h.dp.cells.length

/-- No token has left its source in part: every consumer of a token takes it in one step (R219, R220). -/
def noneBegun (h : Holder) : Prop := ∀ c < h.dp.cells.length, (h.cell c).begun c = []

/-- A destination's head leaves with it alone: it stands in the destination's own link, or no other consumer takes it (R219). -/
def leavesAlone (h : Holder) (r : DstRef) : Prop :=
  ∀ src, h.sourceOf hopFuel r = some src → src = .link r ∨
    (h.together src = [src] ∧ ∀ t, (h.atSource src).1 = some t → h.takers t src = [r.code])

/-- The head at an input port was brought by an endpoint, or stands in a merge or in the port's own link. -/
def headOwn (h : Holder) (c id : Nat) : Prop :=
  h.dp.feeds.getD (c * 128 + id) [] ≠ [] ∨ h.merged c id = true ∨ ∀ r ∈ h.feeding c id, h.sourceOf hopFuel r.1 = some (.link r.1)

/-- The head at an input port leaves with the port alone. -/
def headAlone (h : Holder) (c id : Nat) : Prop := headOwn h c id ∨ ∀ r ∈ h.feeding c id, leavesAlone h r.1

/-- The step changes the record of holder `i`, which becomes `h'`, and nothing else. -/
def onlyHolder (o : Out) (s : State) (i : Nat) (h' : Holder) : Prop := o = .next (s.setH i h')

/-- After the step holder `i` has the record `h'`. -/
def leaves (o : Out) (i : Nat) (t : State) (h' : Holder) : Prop := o = .next t ∧ t.h? i = some h'

end Sys2Proof
end

