-- ==== Sys2Proof/Certificates/Slice0/Obligations.lean ====
section
/-! DEFINITION. Statements for the provers, one definition each, from the numbered rules of spec/. -/

open Sys2Proof Sys2Proof.Machine

/-! ## Integer register instructions -/

/-- R134, R135: a three-operand integer function on registers completes; d of its unit holds the function of the table, and no
other register, flag, special register, holder, die or byte of memory has changed. -/
def Sys2Proof.Clause.IntegerFunctionsOfThreeRegisters : Prop :=
  ∀ p ∈ intTable, ∀ (f : R3) (s : State) (h : Holder), s.me? = some h → f.qd = false → f.qa = false → f.qb = false →
    ∃ th, exec (p.2.1 f) s = .next (s.setH s.cur { h with th := th }) ∧
      wrote p.1 f.d (p.2.2 (h.th.get p.1 f.a) (h.th.get p.1 f.b)) h.th th ∧ quiet h.th th ∧ advanced h.th th

/-- R136: DIV, DIVU, REM and REMU complete for every pair of operands, a zero divisor included. -/
def Sys2Proof.Clause.DivisionNeverTraps : Prop :=
  ∀ p ∈ divTable, ∀ (f : R3) (s : State) (h : Holder), s.me? = some h → f.qd = false → f.qa = false → f.qb = false →
    ∃ th, exec (p.1 f) s = .next (s.setH s.cur { h with th := th }) ∧
      wrote true f.d (p.2 (h.th.s f.a) (h.th.s f.b)) h.th th ∧ quiet h.th th ∧ advanced h.th th

/-- R135: the one-operand functions and SEL on registers; SEL reads d before it writes it. -/
def Sys2Proof.Clause.UnaryFunctionsAndSelect : Prop :=
  (∀ p ∈ unaryTable, ∀ (f : R2) (s : State) (h : Holder), s.me? = some h → f.qd = false → f.qa = false →
    ∃ th, exec (p.2.1 f) s = .next (s.setH s.cur { h with th := th }) ∧
      wrote p.1 f.d (p.2.2 (h.th.get p.1 f.a)) h.th th ∧ quiet h.th th ∧ advanced h.th th) ∧
  ∀ (f : RT) (s : State) (h : Holder), s.me? = some h → f.qa = false → f.qb = false →
    ∃ th, exec (.sel f) s = .next (s.setH s.cur { h with th := th }) ∧
      wrote true f.d (if h.th.s f.d = 0 then h.th.s f.b else h.th.s f.a) h.th th ∧ quiet h.th th ∧ advanced h.th th

/-- R135, R136: the integer functions on registers. -/
def Obligations.IntegerFunctions : Prop := Clause.IntegerFunctionsOfThreeRegisters ∧ Clause.DivisionNeverTraps ∧ Clause.UnaryFunctionsAndSelect

/-- R138: BFX and BFXI extract, BFI and BFII insert; off and wid come from b, or from the immediate. -/
def Sys2Proof.Clause.BitFieldExtractAndInsert : Prop :=
  ∀ (s : State) (h : Holder), s.me? = some h →
  (∀ f : R3, f.qd = false → f.qa = false → f.qb = false →
    ∃ th, exec (.bfx f) s = .next (s.setH s.cur { h with th := th }) ∧
      wrote true f.d (fieldOf (h.th.s f.a) ((h.th.s f.b).toNat % 256) ((h.th.s f.b).toNat / 256 % 256)) h.th th ∧
      quiet h.th th ∧ advanced h.th th) ∧
  (∀ f : Bf, ∃ th, exec (.bfxi f) s = .next (s.setH s.cur { h with th := th }) ∧
      wrote true f.d (fieldOf (h.th.s f.a) f.off f.wid) h.th th ∧ quiet h.th th ∧ advanced h.th th) ∧
  (∀ f : RT, f.qa = false → f.qb = false →
    ∃ th v, exec (.bfi f) s = .next (s.setH s.cur { h with th := th }) ∧ wrote true f.d v h.th th ∧
      inserted (h.th.s f.d) (h.th.s f.a) v ((h.th.s f.b).toNat % 256) ((h.th.s f.b).toNat / 256 % 256) ∧
      quiet h.th th ∧ advanced h.th th) ∧
  (∀ f : Bf, ∃ th v, exec (.bfii f) s = .next (s.setH s.cur { h with th := th }) ∧ wrote true f.d v h.th th ∧
      inserted (h.th.s f.d) (h.th.s f.a) v f.off f.wid ∧ quiet h.th th ∧ advanced h.th th)

/-- R137, R143: the immediate functions, the shifts by an immediate amount; EXT gives the immediate 32 bits. -/
def Sys2Proof.Clause.ImmediateFunctions : Prop :=
  (∀ p ∈ immTable, ∀ (f : I3) (s : State) (h : Holder), s.me? = some h →
    ∃ th, exec (p.2.1 f) s = .next (s.setH s.cur { h with th := th }) ∧
      wrote p.1 f.d (p.2.2 h.th (h.th.get p.1 f.a) f.imm) h.th th ∧ quiet h.th th ∧ advanced h.th th) ∧
  ∀ p ∈ shiftTable, ∀ (f : Sh) (s : State) (h : Holder), s.me? = some h →
    ∃ th, exec (p.2.1 f) s = .next (s.setH s.cur { h with th := th }) ∧
      wrote p.1 f.d (p.2.2 (h.th.get p.1 f.a) f.n) h.th th ∧ quiet h.th th ∧ advanced h.th th

/-- R137, R138, R143: the functions with an immediate, and the bit fields. -/
def Obligations.ImmediateAndBitFieldFunctions : Prop := Clause.ImmediateFunctions ∧ Clause.BitFieldExtractAndInsert

/-- R75, R134, R139: the queue forms of the register functions: each queue operand is the head of the unit's inward queue, a first,
and a queue destination is appended to the unit's outward queue; the pops are made before the push is counted. Nothing else changes. -/
def Sys2Proof.Clause.QueueOperandForms : Prop :=
  ∀ (s : State) (h : Holder), s.me? = some h →
  let fl := modeBit h.id.mode 20
  (∀ p ∈ queueTable3, ∀ f : R3, popCount f.qa f.qb ≤ (inwardQueue p.1 h.th).length → (f.qd = true → (outwardQueue p.1 h.th).length < 16) →
    ∃ th, exec (p.2.1 f) s = .next (s.setH s.cur { h with th := th }) ∧
      queued p.1 f.qd (popCount f.qa f.qb) f.d
        (p.2.2 fl (sourceOf p.1 f.qa 0 f.a h.th) (sourceOf p.1 f.qb (popCount f.qa false) f.b h.th)) h.th th) ∧
  (∀ p ∈ queueTable2, ∀ f : R2, popCount f.qa false ≤ (inwardQueue p.1 h.th).length → (f.qd = true → (outwardQueue p.1 h.th).length < 16) →
    ∃ th, exec (p.2.1 f) s = .next (s.setH s.cur { h with th := th }) ∧
      queued p.1 f.qd (popCount f.qa false) f.d (p.2.2 fl (sourceOf p.1 f.qa 0 f.a h.th)) h.th th) ∧
  ∀ f : RT, popCount f.qa f.qb ≤ h.th.lq.length →
    let a := sourceOf true f.qa 0 f.a h.th
    let b := sourceOf true f.qb (popCount f.qa false) f.b h.th
    let ends (i : Instr) (v : W64) : Prop :=
      ∃ th, exec i s = .next (s.setH s.cur { h with th := th }) ∧ queued true false (popCount f.qa f.qb) f.d v h.th th
    ends (.sel f) (if h.th.s f.d = 0 then b else a) ∧
    ends (.fma f) (fpOut fl f32 ((fpIn fl f32 (h.th.s f.d)).add ((fpIn fl f32 a).mul (fpIn fl f32 b)))) ∧
    ∃ v, inserted (h.th.s f.d) a v (b.toNat % 256) (b.toNat / 256 % 256) ∧ ends (.bfi f) v

/-- R120, R121: a queue operand of an empty queue, or a push to a full one, raises QUEUE with INFO 0 LQ empty, 1 LQ full, 2 SQ empty,
3 SQ full; with a handler the trap is taken with nothing popped and no register written. Of the register functions, loads, stores,
atomics, MFS and MTS. -/
def Sys2Proof.Clause.QueueFaultsHaveNoOtherEffect : Prop :=
  ∀ (s : State) (h : Holder), s.me? = some h → handles s h →
    let faults (i : Instr) (info : Nat) : Prop := exec i s = .next (s.setH s.cur { h with th := h.th.enter false cQUEUE info 0 })
    let short (e qa qb : Bool) : Prop := (inwardQueue e h.th).length < popCount qa qb
    let full (e : Bool) : Prop := 16 ≤ (outwardQueue e h.th).length
    (∀ p ∈ queueTable3, ∀ f : R3,
      (short p.1 f.qa f.qb → (f.qd = true → ¬ full p.1) → faults (p.2.1 f) (if p.1 then 0 else 2)) ∧
      (¬ short p.1 f.qa f.qb → f.qd = true → full p.1 → faults (p.2.1 f) (if p.1 then 3 else 1))) ∧
    (∀ p ∈ queueTable2, ∀ f : R2,
      (short p.1 f.qa false → (f.qd = true → ¬ full p.1) → faults (p.2.1 f) (if p.1 then 0 else 2)) ∧
      (¬ short p.1 f.qa false → f.qd = true → full p.1 → faults (p.2.1 f) (if p.1 then 3 else 1))) ∧
    (∀ f : RT, short true f.qa f.qb → faults (.sel f) 0 ∧ faults (.fma f) 0 ∧ faults (.bfi f) 0) ∧
    (∀ p ∈ loadTable, ∀ f : I3, f.d = 0 → full false → faults (p.2 f) 1) ∧
    (∀ p ∈ storeTable, ∀ f : I3, p.2.1 = true → h.th.sq = [] → faults (p.2.2 f) 2) ∧
    (∀ p ∈ atomicTable, ∀ f : RA,
      (f.qb = true → h.th.sq = [] → (f.qd = true → ¬ full false) → faults (p.2.1 f) 2) ∧
      (p ∈ atomicTable.take 8 → f.qd = true → full false → (f.qb = true → h.th.sq ≠ []) → faults (p.2.1 f) 1)) ∧
    ∀ x sr : Reg, (full false → faults (.mfs x sr true) 1) ∧ (full true → faults (.mts sr x true) 3)

/-- R75, R120, R134: operands in LQ and SQ. -/
def Obligations.QueueOperands : Prop := Clause.QueueOperandForms ∧ Clause.QueueFaultsHaveNoOtherEffect

/-! ## Floating point -/

/-- R139, R140, R51, R65: the floating-point functions on registers, each rounded once, FLUSH of MODE applied to inputs and result;
FMA adds the exact product to d. -/
def Obligations.FloatingPointFunctions : Prop :=
  ∀ (s : State) (h : Holder), s.me? = some h →
  (∀ p ∈ fpTable, ∀ f : R3, f.qd = false → f.qa = false → f.qb = false →
    ∃ th, exec (p.1 f) s = .next (s.setH s.cur { h with th := th }) ∧
      wrote true f.d (p.2 (modeBit h.id.mode 20) (h.th.s f.a) (h.th.s f.b)) h.th th ∧ quiet h.th th ∧ advanced h.th th) ∧
  (∀ p ∈ fpUnaryTable, ∀ f : R2, f.qd = false → f.qa = false →
    ∃ th, exec (p.1 f) s = .next (s.setH s.cur { h with th := th }) ∧
      wrote true f.d (p.2 (modeBit h.id.mode 20) (h.th.s f.a)) h.th th ∧ quiet h.th th ∧ advanced h.th th) ∧
  ∀ f : RT, f.qa = false → f.qb = false →
    ∃ th, exec (.fma f) s = .next (s.setH s.cur { h with th := th }) ∧
      (let fl := modeBit h.id.mode 20
       wrote true f.d (fpOut fl f32 ((fpIn fl f32 (h.th.s f.d)).add ((fpIn fl f32 (h.th.s f.a)).mul (fpIn fl f32 (h.th.s f.b))))) h.th th) ∧
      quiet h.th th ∧ advanced h.th th

/-- R50, R55, R63: converting a code's own value to its own format gives the code back, for every float format and every code that is
no NaN, under either rounding. -/
def Sys2Proof.Clause.FormatsRoundTripEveryCode : Prop :=
  ∀ f ∈ [f32, bf16, f16, e2m1, e2m3, e3m2, e3m4, e4m3, e5m2], ∀ c < 2 * f.sign, (f.dec c).isNan = false →
    ∀ rtz, f.enc rtz false (f.dec c) = c

/-- R63: under either rounding a finite value between two neighbouring finite codes of one sign goes to one of the two; under RTZ to
the lower. Stated for FP32 on positive values. -/
def Sys2Proof.Clause.RoundingPicksANeighbour : Prop :=
  ∀ (c m : Nat) (e : Int), c + 1 < f32.inf → (f32.dec c).le (.fin false m e) = true → (FV.fin false m e).lt (f32.dec (c + 1)) = true →
    f32.enc true false (.fin false m e) = c ∧
    (f32.enc false false (.fin false m e) = c ∨ f32.enc false false (.fin false m e) = c + 1)

/-- R51 to R65: the number formats give back every code, and an encoding rounds to a neighbour. -/
def Obligations.FormatsRoundAndRoundTrip : Prop := Clause.FormatsRoundTripEveryCode ∧ Clause.RoundingPicksANeighbour

/-! ## Branches and jumps -/

/-- R141, R119, R85: a conditional branch. The unit that owns the registers pushes the outcome and goes on, at the target when the
condition holds and that is an index of the code store, else at the next word; nothing else of the thread changes. The other unit then
pops the outcome at the same word, and both stand at one word with empty queues. -/
def Sys2Proof.Clause.ConditionalBranches : Prop :=
  ∀ p ∈ branchTable, ∀ (f : Br) (s : State) (h : Holder), s.me? = some h →
    let taken := p.2.2 (h.th.get p.1 f.a) (h.th.get p.1 f.b)
    let target := (h.th.pc : Int) + f.off.toInt
    (taken = true → 0 ≤ target ∧ target ≤ 4095) →
    let next := if taken = true then target.toNat else h.th.pc + 1
    ∃ th x, exec (p.2.1 f) s = .next (s.setH s.cur { h with th := th }) ∧
      crossedTo h.th th p.1 next x ∧ x.1 = taken ∧ (taken = true → x.2.toNat = target.toNat) ∧
      th = { h.th with pcA := th.pcA, pcE := th.pcE, bqe := th.bqe, bqa := th.bqa, pfx := th.pfx, wait := th.wait } ∧
      (h.th.ahead = none → h.runs = true → pushesOutcome (h.th.word h.th.pc).toNat = true →
        ∃ th2, followTurn (s.setH s.cur { h with th := th }) s.cur = .next (s.setH s.cur { h with th := th2 }) ∧
          bothAt th2 next ∧ th2.bqe = [] ∧ th2.bqa = [] ∧ regsSame h.th th2)

/-- R118, R119: a unit that is behind passes a word: it pops the outcome of a branch, goes where a jump leads that the A-unit has taken alone,
and skips any other word. The A-unit runs ahead of a sequence of the E-unit, however many it has left; the E-unit then executes it, its
effect that of the instruction, while the A-unit stands where it stood. -/
def Sys2Proof.Clause.TheUnitBehindFollows : Prop :=
  (∀ (s : State) (h : Holder) (i : Nat), s.h? i = some h → h.runs = true → h.th.mayIssue = false → h.th.asleep = false →
    ∀ e, h.th.ahead = some e →
    let k := if e then h.th.pcA else h.th.pcE
    let w := (h.th.word k).toNat
    let q := if e then h.th.bqe else h.th.bqa
    (h.th.atLeft = false → ∃ th, threadTurn s i = .next (s.setH i { h with th := th }) ∧ regsSame h.th th ∧
      th = { h.th with pcA := th.pcA, pcE := th.pcE, bqe := th.bqe, bqa := th.bqa, lead := { h.th.lead with jumps := th.lead.jumps } } ∧
      (if e then th.pcE = h.th.pcE ∧ th.bqa = h.th.bqa else th.pcA = h.th.pcA ∧ th.bqe = h.th.bqe) ∧
      (pushesOutcome w = false → e = true ∨ isJump w = false → (if e then th.pcA else th.pcE) = k + 1 ∧ (if e then th.bqe else th.bqa) = q ∧ th.lead = h.th.lead) ∧
      (∀ off : BitVec 26, e = false → decodeWord w = .ok (.jmp off) ∨ decodeWord w = .ok (.jal off) →
        th.pcE = ((k : Int) + off.toInt).toNat ∧ th.bqa = q ∧ th.lead.jumps = h.th.lead.jumps - 1) ∧
      (pushesOutcome w = true → ∀ x l, q = x :: l →
        (if e then th.pcA else th.pcE) = (if x.1 = true then x.2.toNat else k + 1) ∧ (if e then th.bqe else th.bqa) = l ∧ th.lead = h.th.lead)) ∧
    ∀ ins po pu t g, h.th.lead.words ≠ 0 → h.th.eSeq h.th.pcE = some (1, po, pu) → decodeWord (h.th.word h.th.pcE).toNat = .ok ins →
      exec ins ({ s with cur := i }.setH i { h with th := h.th.asBehind }) = .next t → t.h? i = some g → g.th.pcE ≠ h.th.pcE →
      ∃ u g', threadTurn s i = .next u ∧ u.h? i = some g' ∧ u.mem = t.mem ∧ u.dies = t.dies ∧ g'.th.regs = g.th.regs ∧ g'.th.lq = g.th.lq ∧
        g'.th.sq = g.th.sq ∧ g'.th.pcE = g.th.pcE ∧ g'.th.pcA = h.th.pcA ∧ g'.th.bqa = h.th.bqa ∧ g'.th.lead.words + 1 = h.th.lead.words) ∧
  ∀ (t : Thread) (n po pu : Nat), t.ahead ≠ some true → t.pfx.len = 0 → t.wait = .none → t.resume = none → t.lead.even = false →
    t.eSeq t.pcA = some (n, po, pu) → t.lead.pops + po ≤ t.lq.length → t.sq.length + t.lead.pushes + pu ≤ 16 →
    t.leave.pcA = t.pcA + n ∧ t.leave.pcE = t.pcE ∧ regsSame t t.leave ∧ t.leave.lq = t.lq ∧ t.leave.sq = t.sq ∧
      t.leave.lead = { t.lead with words := t.lead.words + 1, pops := t.lead.pops + po, pushes := t.lead.pushes + pu }

/-- R142, R119: JMP and JAL take both units to the label, or an A-unit that is ahead, which the E-unit then follows; JAL leaves the next index in a31. JR and JALR go to the value of a, which the A-unit
pushes as a taken outcome; JALR leaves the next index in d, which is written after a is read. -/
def Sys2Proof.Clause.JumpsAndLinks : Prop :=
  ∀ (s : State) (h : Holder), s.me? = some h →
  (∀ off : BitVec 26, 0 ≤ (h.th.pc : Int) + off.toInt → (h.th.pc : Int) + off.toInt ≤ 4095 →
    let goes (th : Thread) : Prop := quiet { h.th with lead := th.lead } th ∧ th.sys = h.th.sys ∧
      (h.th.ahead ≠ some false → bothAt th ((h.th.pc : Int) + off.toInt).toNat ∧ th.lead = {}) ∧
      (h.th.ahead = some false → th.pcA = ((h.th.pc : Int) + off.toInt).toNat ∧ th.pcE = h.th.pcE ∧ th.pfx = {} ∧ th.wait = .none ∧
        th.lead = { h.th.lead with jumps := h.th.lead.jumps + 1 })
    (∃ th, exec (.jmp off) s = .next (s.setH s.cur { h with th := th }) ∧ goes th ∧ regsSame h.th th) ∧
    (∃ th, exec (.jal off) s = .next (s.setH s.cur { h with th := th }) ∧ goes th ∧ wrote false 31 (ofN (h.th.pc + 1)) h.th th)) ∧
  (∀ a : Reg, (h.th.a a).toNat ≤ 4095 →
    (∃ th, exec (.jr a) s = .next (s.setH s.cur { h with th := th }) ∧
      crossedTo h.th th false (h.th.a a).toNat (true, (h.th.a a).setWidth 12) ∧
      regsSame h.th th ∧ quiet { h.th with bqa := th.bqa } th ∧ th.sys = h.th.sys) ∧
    (∀ d : Reg, ∃ th, exec (.jalr ⟨d, a⟩) s = .next (s.setH s.cur { h with th := th }) ∧
      crossedTo h.th th false (h.th.a a).toNat (true, (h.th.a a).setWidth 12) ∧
      wrote false d (ofN (h.th.pc + 1)) h.th th ∧ quiet { h.th with bqa := th.bqa } th ∧ th.sys = h.th.sys))

/-- R78, R141, R142: a taken branch or a jump to a target that is no index of the code store traps ILL; UNIT is the unit that
evaluates, EADDR the word; no register is written. -/
def Sys2Proof.Clause.TransfersOutOfRangeTrapIll : Prop :=
  ∀ (s : State) (h : Holder), s.me? = some h → handles s h →
  (∀ p ∈ branchTable, ∀ f : Br, p.2.2 (h.th.get p.1 f.a) (h.th.get p.1 f.b) = true →
    ((h.th.pc : Int) + f.off.toInt < 0 ∨ 4095 < (h.th.pc : Int) + f.off.toInt) →
    exec (p.2.1 f) s = .next (s.setH s.cur { h with th := h.th.enter p.1 cILL 0 (ofN ((encode (p.2.1 f)).getD 0)) })) ∧
  (∀ off : BitVec 26, ((h.th.pc : Int) + off.toInt < 0 ∨ 4095 < (h.th.pc : Int) + off.toInt) →
    exec (.jmp off) s = .next (s.setH s.cur { h with th := h.th.enter false cILL 0 (ofN (0x32 * 2 ^ 26 + off.toNat)) }) ∧
    exec (.jal off) s = .next (s.setH s.cur { h with th := h.th.enter false cILL 0 (ofN (0x33 * 2 ^ 26 + off.toNat)) })) ∧
  (∀ a d : Reg, 4095 < (h.th.a a).toNat →
    exec (.jr a) s = .next (s.setH s.cur { h with th := h.th.enter false cILL 0 (ofN ((encode (.jr a)).getD 0)) }) ∧
    exec (.jalr ⟨d, a⟩) s = .next (s.setH s.cur { h with th := h.th.enter false cILL 0 (ofN ((encode (.jalr ⟨d, a⟩)).getD 0)) }))

/-- R78, R118, R119, R141, R142: branches and jumps, and the unit that follows. -/
def Obligations.ControlTransfers : Prop := Clause.ConditionalBranches ∧ Clause.TheUnitBehindFollows ∧ Clause.JumpsAndLinks ∧ Clause.TransfersOutOfRangeTrapIll

/-! ## Loads, stores and atomics -/

/-- R300, R297: a load at an aligned address whose line can be read, unpoisoned, writes the bytes zero-extended to a-register d, or appends
them to LQ when d is 0; nothing else changes, no byte of any memory. A holder with no unfenced write of its own finds what its line holds. -/
def Sys2Proof.Clause.LoadsReadTheBytesAtTheirAddress : Prop :=
  (∀ p ∈ loadTable, ∀ (f : I3) (s s1 : State) (h : Holder) (pl : Place) (l : Line × BitVec 16) (v : Line) (psn : BitVec 16), s.me? = some h →
    h.th.wait = .none → walkFree s h (accAddr h.th f.a f.imm) → ¬ combines s h (accAddr h.th f.a f.imm) pl →
    (accAddr h.th f.a f.imm).toNat % p.1 = 0 → resolveCt s h (accAddr h.th f.a f.imm) true false = .ok (pl, s1) →
    loadBarred s h = false → s.ownPending h.agent pl = false → bestGoes s h 0 false pl = true → s.lineAt h.id.die pl = some l →
    s.readAs h.id.inst .ct pl l = (v, psn) → poisonedAt psn (pl.addr % 64) p.1 = false → (f.d = 0 → h.th.lq.length < 16) →
    ∃ t th, exec (p.2 f) s = .next t ∧ threadOnly s t h th ∧
      (let w := ofN (v.toNat / 2 ^ (8 * (pl.addr % 64)) % 2 ^ (8 * p.1))
       if f.d = 0 then regsSame h.th th ∧ th = { th with lq := h.th.lq ++ [w] } ∧ quiet { h.th with lq := th.lq } th
       else wrote false f.d w h.th th ∧ quiet h.th th) ∧ advanced h.th th) ∧
  ∀ (s : State) (i : Nat) (cls : PathClass) (p : Place) (l : Line × BitVec 16), (∀ x ∈ s.unf, x.inst ≠ i) → s.readAs i cls p l = l

/-- R256, R257: a load of a clean line whose read can stand at a router of its path waits with nothing else of it changed, and its read
stands there, absorbed where it meets an open entry with room. One that is not absorbed is served in its turn, and has its line. Once its
line has come, the load takes its bytes from it. -/
def Sys2Proof.Clause.CleanLoadsCombine : Prop :=
  ∀ p ∈ loadTable, ∀ (f : I3) (s s1 : State) (h : Holder), s.me? = some h → (f.d = 0 → h.th.lq.length < 16) →
  (∀ pl : Place, h.id.inst = s.cur → h.th.wait = .none → walkFree s h (accAddr h.th f.a f.imm) →
    (accAddr h.th f.a f.imm).toNat % p.1 = 0 → resolveCt s h (accAddr h.th f.a f.imm) true false = .ok (pl, s1) →
    loadBarred s h = false → s.ownPending h.agent pl = false → combines s h (accAddr h.th f.a f.imm) pl →
    portFree s h 0 false = true → portHeld s h 0 pl = false → (∀ d ∈ s.dies, ∀ x ∈ d.m.combs, x.reqs ≠ []) →
    ∃ t id, exec (p.2 f) s = .next t ∧
      t.me? = some { h with th := { h.th with wait := .combined id pl.addr }, dp := { h.dp with came := false } } ∧ t.mem = s.mem ∧
      underWay t (threadReq h.id.inst id) = true ∧
      (meets s.acquired (pl.addr / 64) (readPath h.id.die (h.id.cellAt 0) pl.addr) = true → absorbed t (threadReq h.id.inst id) = true)) ∧
  (∀ id pa : Nat, h.id.inst = s.cur → h.th.wait = .combined id pa →
    (absorbed s (threadReq h.id.inst id) = true → exec (p.2 f) s = .next s) ∧
    (absorbed s (threadReq h.id.inst id) = false → sliceServes s h 0 ⟨1, pa, 0⟩ = true →
      ∃ t h', exec (p.2 f) s = .next t ∧ t.me? = some h' ∧ h'.th = { h.th with wait := .replied (s.plainLine pa) (s.physPoison pa) } ∧ t.mem = s.mem)) ∧
  ∀ (v : Line) (psn : BitVec 16), h.th.wait = .replied v psn → poisonedAt psn ((accAddr h.th f.a f.imm).toNat % 64) p.1 = false →
    ∃ th, exec (p.2 f) s = .next (s.setH s.cur { h with th := th }) ∧
      (let w := ofN (v.toNat / 2 ^ (8 * ((accAddr h.th f.a f.imm).toNat % 64)) % 2 ^ (8 * p.1))
       if f.d = 0 then regsSame h.th th ∧ th.lq = h.th.lq ++ [w] else wrote false f.d w h.th th ∧ quiet h.th th) ∧ advanced h.th th

/-- R289, R311, R315: the line of a scratchpad place, or of an HBM place that backs no chain, holds the bytes of the memory in rising
order of address. -/
def Sys2Proof.Clause.LineHoldsTheBytesOfItsMemory : Prop :=
  ∀ (s : State) (d : Nat) (p : Place) (v : Line) (psn : BitVec 16) (n : Nat), atOnce s p → s.lineAt d p = some (v, psn) →
    p.addr % 64 + n ≤ 64 → v.toNat / 2 ^ (8 * (p.addr % 64)) % 2 ^ (8 * n) = readN s p n

/-- R288, R354, R355: translation keeps the place of a byte in its 64-byte line, for every page size and kind. -/
def Sys2Proof.Clause.TranslationKeepsTheLineOffset : Prop :=
  ∀ (s s1 : State) (h : Holder) (a : W64) (rd wr : Bool) (p : Place), resolveCt s h a rd wr = .ok (p, s1) → p.addr % 64 = a.toNat % 64

/-- R256, R257, R289, R300, R355: loads, the places their addresses reach, and clean loads that combine. -/
def Obligations.LoadsReadTheirBytes : Prop := Clause.LoadsReadTheBytesAtTheirAddress ∧ Clause.CleanLoadsCombine ∧ Clause.LineHoldsTheBytesOfItsMemory ∧ Clause.TranslationKeepsTheLineOffset

/-- R300, R289: a store to an aligned address of scratchpad or HBM changes the bytes stored and no other byte of any memory; the value
is a-register d, or the head of SQ, which is popped; no register changes. `s1` is the state with the page copied first where the
page is copy-on-write (R367). -/
def Sys2Proof.Clause.StoresWriteOnlyTheirBytes : Prop :=
  ∀ p ∈ storeTable, ∀ (f : I3) (s s1 : State) (h : Holder) (pl : Place), s.me? = some h → walkFree s h (accAddr h.th f.a f.imm) →
    (accAddr h.th f.a f.imm).toNat % p.1 = 0 → cowFree s h (accAddr h.th f.a f.imm) → resolveCt s h (accAddr h.th f.a f.imm) false true = .ok (pl, s1) →
    bestGoes s1 h 0 true pl = true → pl.addr % 64 + p.1 ≤ 64 → atOnce s1 pl → Memory.wf (placeBytes s1 pl) = true → (p.2.1 = true → h.th.sq ≠ []) →
    ∃ t h', exec (p.2.2 f) s = .next t ∧ t.me? = some h' ∧
      readN t pl p.1 = (if p.2.1 then h.th.sq.headD 0 else h.th.a f.d).toNat % 2 ^ (8 * p.1) ∧ storedOnly s1 t pl p.1 ∧
      regsSame h.th h'.th ∧ quiet { h.th with sq := if p.2.1 then h.th.sq.tail else h.th.sq } h'.th ∧ advanced h.th h'.th

/-- R313, R323, R326: a store to a chain or Cellar page is issued, not yet made: it joins the pending stores of the agent with its class,
epoch, line, bytes and value, every byte of memory reads as before but for a new recovery entry, and the thread goes on. It waits while
the chain entry buffer is full, the chain is being freed, or no recovery entry is to be had. -/
def Sys2Proof.Clause.ChainAndCellarStoresBecomePending : Prop :=
  ∀ p ∈ storeTable, ∀ (f : I3) (s s1 : State) (h : Holder) (pl : Place), s.me? = some h → walkFree s h (accAddr h.th f.a f.imm) →
    (accAddr h.th f.a f.imm).toNat % p.1 = 0 → cowFree s h (accAddr h.th f.a f.imm) → resolveCt s h (accAddr h.th f.a f.imm) false true = .ok (pl, s1) →
    (pl.kind = 3 ∨ pl.kind = 4) → h.th.wait = .none → (p.2.1 = true → h.th.sq ≠ []) →
    (bestGoes s1 h 0 true pl = true → canIssue s1 h pl → ∃ t h' x, exec (p.2.2 f) s = .next t ∧ t.me? = some h' ∧ regsSame h.th h'.th ∧
      quiet { h.th with sq := if p.2.1 then h.th.sq.tail else h.th.sq } h'.th ∧ advanced h.th h'.th ∧
      joinsPending s1 t h pl p.1 (if p.2.1 then h.th.sq.headD 0 else h.th.a f.d).toNat x ∧ x.op = .store) ∧
    ((pl.kind = 4 ∧ (512 ≤ chainEntries s1 h.id.die ∨ chainClosing s1 pl.ch = true)) ∨ (¬ entered s1 h pl ∧ recovPick s1 h.id.die = none) →
      exec (p.2.2 f) s = .next s)

/-- R289, R300, R313, R323, R326: stores, at once or by way of a buffer. -/
def Obligations.StoresWriteTheirBytes : Prop := Clause.StoresWriteOnlyTheirBytes ∧ Clause.ChainAndCellarStoresBecomePending

/-- R301, R314, R323: an atomic on a scratchpad or HBM word: d, or LQ, receives the old word, zero-extended; the word becomes the function
of the table; no other byte of any memory changes, and of the special registers WAKE alone may be set (R153). An atomic on a chain or
Cellar page becomes pending with that function, no byte changes, and the thread waits for the word that it finds; that word then goes to
d, or LQ, and the thread goes on. -/
def Obligations.AtomicsReadModifyWriteOneWord : Prop :=
  ∀ p ∈ atomicTable, ∀ (f : RA) (s : State) (h : Holder), s.me? = some h → (f.qb = true → h.th.sq ≠ []) →
    (f.qd = true → p ∈ atomicTable.take 8 ∧ h.th.lq.length < 16) →
    let d := (h.th.a f.d).toNat
    let b := (if f.qb then h.th.sq.headD 0 else h.th.a f.b).toNat
    let got (old : Nat) (th : Thread) : Prop :=
      (if f.qd then regsSame h.th th else wrote false f.d (ofN old) h.th th) ∧
      quiet { h.th with sq := (if f.qb then h.th.sq.tail else h.th.sq), lq := (if f.qd then h.th.lq ++ [ofN old] else h.th.lq)
                        sys := { h.th.sys with wake := th.sys.wake } } th ∧
      (Tbl.risingFrom 0 s.hold = true → h.th.wakeSig = none → th.sys.wake = h.th.sys.wake) ∧ advanced h.th th
    (∀ (s1 : State) (pl : Place), h.th.wait = .none → walkFree s h (h.th.a f.a) → (h.th.a f.a).toNat % p.1 = 0 →
      cowFree s h (h.th.a f.a) → resolveCt s h (h.th.a f.a) true true = .ok (pl, s1) → bestGoes s1 h 0 true pl = true →
      (∀ (v : Line) (psn : BitVec 16), pl.addr % 64 + p.1 ≤ 64 → atOnce s1 pl → Memory.wf (placeBytes s1 pl) = true →
        s1.lineAt h.id.die pl = some (v, psn) → poisonedAt psn (pl.addr % 64) p.1 = false →
        ∃ t h', exec (p.2.1 f) s = .next t ∧ t.me? = some h' ∧ readN t pl p.1 = p.2.2 (readN s1 pl p.1) d b ∧
          storedOnly s1 t pl p.1 ∧ got (readN s1 pl p.1) h'.th) ∧
      ((pl.kind = 3 ∨ pl.kind = 4) → canIssue s1 h pl → h.id.inst = s.cur →
        ∃ t h' x, exec (p.2.1 f) s = .next t ∧ t.me? = some h' ∧ h'.th = { h.th with wait := .store x.id } ∧ joinsPending s1 t h pl p.1 b x ∧
          ∀ old < 2 ^ (8 * p.1), atomicNew (fun _ o _ => o) x.op p.1 old b = p.2.2 old d b)) ∧
    (∀ k, h.th.wait = .store k → exec (p.2.1 f) s = .next s) ∧
    ∀ old, h.th.wait = .stored old → ∃ th, exec (p.2.1 f) s = .next (s.setH s.cur { h with th := th }) ∧ got old th

/-- R300, R301, R121, R130: an access whose address is no multiple of its width traps ALIGN with the address in EADDR, before any
other effect; the queue checks come first. -/
def Obligations.MisalignedAccessesTrapAlign : Prop :=
  ∀ (s : State) (h : Holder), s.me? = some h → handles s h → h.th.wait = .none →
  (∀ p ∈ loadTable, ∀ f : I3, (f.d = 0 → h.th.lq.length < 16) → (accAddr h.th f.a f.imm).toNat % p.1 ≠ 0 →
    exec (p.2 f) s = .next (s.setH s.cur { h with th := h.th.enter false cALIGN 0 (accAddr h.th f.a f.imm) })) ∧
  (∀ p ∈ storeTable, ∀ f : I3, (p.2.1 = true → h.th.sq ≠ []) → (accAddr h.th f.a f.imm).toNat % p.1 ≠ 0 →
    exec (p.2.2 f) s = .next (s.setH s.cur { h with th := h.th.enter false cALIGN 0 (accAddr h.th f.a f.imm) })) ∧
  (∀ p ∈ atomicTable, ∀ f : RA, (f.qd = true → h.th.lq.length < 16) → (f.qb = true → h.th.sq ≠ []) → (h.th.a f.a).toNat % p.1 ≠ 0 →
    exec (p.2.1 f) s = .next (s.setH s.cur { h with th := h.th.enter false cALIGN 0 (h.th.a f.a) }))

/-! ## System instructions and traps -/

/-- R150, R129, R131, R145: what taking a trap saves and where it goes, when a handler is installed and none is running. EPC is the
index of the sequence, or the next one for TRAP; ECAUSE holds CAUSE, INFO, REPI and UNIT; registers and queues stand; both units are
at HANDLER; INH is set. -/
def Sys2Proof.Clause.TrapEntrySavesAndRedirects : Prop :=
  ∀ (s : State) (h : Holder) (u : Bool) (c i : Nat) (ea : W64), s.me? = some h → handles s h →
    c < 256 → i < 1024 → h.th.pc < 4096 →
    ∃ th, trap s u c i ea = s.setH s.cur { h with th := th } ∧ bothAt th (h.th.sys.tvec.toNat % 4096) ∧ th.bqe = [] ∧ th.bqa = [] ∧ regsSame h.th th ∧
      th.lq = h.th.lq ∧ th.sq = h.th.sq ∧ th.sys.epc = ofN (if c = cTRAP then h.th.pc + 1 else h.th.pc) ∧
      th.sys.ecause.toNat % 256 = c ∧ th.sys.ecause.toNat / 256 % 1024 = i ∧ th.sys.ecause.getLsbD 18 = h.th.pfx.rep.isSome ∧
      th.sys.ecause.getLsbD 19 = u ∧ th.sys.ecause.toNat < 2 ^ 20 ∧ th.sys.eaddr = ea ∧
      (∀ b < 64, th.sys.tvec.getLsbD b = (h.th.sys.tvec.getLsbD b || b == 15)) ∧
      (∀ last mask, h.th.pfx.rep = some (last, mask) → last < 64 → h.th.pfx.idx < 64 →
        th.sys.repst = ofN (2 ^ 15 + last * 2 ^ 8 + h.th.pfx.idx)) ∧
      (h.th.pfx.rep = none → th.sys.repst = h.th.sys.repst)

/-- R149, R77, R78: TRAP raises cause TRAP with its code, and a word that is no instruction raises ILL with the word in EADDR. UNIT 0 in
ECAUSE of both is the model's choice (log 42). -/
def Sys2Proof.Clause.TrapAndIllegalWordsTrap : Prop :=
  ∀ (s : State) (h : Holder), s.me? = some h → handles s h →
    (∀ code : BitVec 10, exec (.trap code) s = .next (s.setH s.cur { h with th := h.th.enter false cTRAP code.toNat 0 })) ∧
    ∀ w : W32, exec (.illAtDecode w) s = .next (s.setH s.cur { h with th := Thread.enter { h.th with pfx := {} } false cILL 0 (ofN w.toNat) })

/-- R152, R145: ERET in a handler, with EPC an index of the code store and no repeat sequence part done, clears INH and nothing else of
the special registers, and both units go on at EPC; outside a handler it traps ILL, with UNIT 0 (the model's choice, log 42). -/
def Sys2Proof.Clause.EretReturnsToEpc : Prop :=
  ∀ (s : State) (h : Holder), s.me? = some h →
    (ctAccepted s h = true → h.th.sys.inh = true → h.th.sys.epc.toNat ≤ 4095 → h.th.sys.repst.getLsbD 15 = false →
      ∃ th, exec .eret s = .next (s.setH s.cur { h with th := th }) ∧ bothAt th h.th.sys.epc.toNat ∧ regsSame h.th th ∧
        th.lq = h.th.lq ∧ th.sq = h.th.sq ∧ th.sys = { h.th.sys with tvec := th.sys.tvec } ∧
        ∀ b < 64, th.sys.tvec.getLsbD b = (h.th.sys.tvec.getLsbD b && b != 15)) ∧
    (handles s h →
      exec .eret s = .next (s.setH s.cur { h with th := h.th.enter false cILL 0 (ofN 0xB8400000) }))

/-- R150, R152: a handler entered by a trap other than TRAP returns to the word that trapped, with the registers it had. -/
def Sys2Proof.Clause.TrapThenEretResumesTheWord : Prop :=
  ∀ (s : State) (h : Holder) (u : Bool) (c i : Nat) (ea : W64), s.me? = some h → handles s h →
    c ≠ cTRAP → h.th.pc ≤ 4095 → h.th.pfx.rep = none → h.th.sys.repst.getLsbD 15 = false →
    ∃ th, exec .eret (trap s u c i ea) = .next (s.setH s.cur { h with th := th }) ∧ bothAt th h.th.pc ∧ regsSame h.th th ∧
      th.sys.inh = false ∧ th.sys.tvec = h.th.sys.tvec

/-- R152: the return from a handler. -/
def Obligations.TrapReturn : Prop := Clause.EretReturnsToEpc ∧ Clause.TrapThenEretResumesTheWord

/-- R146, R123 to R133: MFS copies the special register to an a-register; with bank 1 it joins LQ, which has room, and the head of LQ goes
to an s-register, which is the value itself when LQ was empty; MFS of CYCLE reads the die's counter. -/
def Sys2Proof.Clause.MfsReadsEverySpecialRegister : Prop :=
  ∀ (s : State) (h : Holder) (x sr : Reg) (bank : Bool), s.me? = some h → sr.val ≤ 13 → (bank = true → h.th.lq.length < 16) →
    let q := h.th.lq ++ [srValue s h sr.val]
    ∃ th, exec (.mfs x sr bank) s = .next (s.setH s.cur { h with th := th }) ∧
      wrote bank x (if bank then q.headD 0 else srValue s h sr.val) h.th th ∧
      quiet { h.th with lq := if bank then q.tail else h.th.lq } th ∧ advanced h.th th

/-- R148, R127 to R131: MTS writes the named bits of TVEC, EPC, ECAUSE, EADDR or REPST, never INH, and no other special register. With
bank 1 the value joins SQ, which has room, and what the register takes is the head of SQ. -/
def Sys2Proof.Clause.MtsWritesNamedBitsOnly : Prop :=
  ∀ (s : State) (h : Holder) (x sr : Reg) (bank : Bool), s.me? = some h → 6 ≤ sr.val → sr.val ≤ 10 → (bank = true → h.th.sq.length < 16) →
    h.th.pfx.rep = none →
    let q := h.th.sq ++ [h.th.s x]
    let v := if bank then q.headD 0 else h.th.a x
    ∃ th, exec (.mts sr x bank) s = .next (s.setH s.cur { h with th := th }) ∧ regsSame h.th th ∧ th.lq = h.th.lq ∧ th.sq = (if bank then q.tail else h.th.sq) ∧
      (∀ b < 64, (srField th.sys sr.val).getLsbD b = if mtsBit sr.val b then v.getLsbD b else (srField h.th.sys sr.val).getLsbD b) ∧
      (∀ n, 6 ≤ n → n ≤ 10 → n ≠ sr.val → srField th.sys n = srField h.th.sys n) ∧
      th.sys = { th.sys with pepoch := h.th.sys.pepoch, nbound := h.th.sys.nbound, serr := h.th.sys.serr, run := h.th.sys.run, wake := h.th.sys.wake } ∧
      passed h.th th (h.th.pc + h.th.pfx.len + 1)

/-- R122 to R133, R147, R148: MFS and MTS. -/
def Obligations.SpecialRegisters : Prop := Clause.MfsReadsEverySpecialRegister ∧ Clause.MtsWritesNamedBitsOnly

/-- R149, R153, R155: NOP does nothing but go on; SLEEP with WAKE set clears WAKE and goes on, otherwise the thread sleeps at the
SLEEP; an event that wakes it clears WAKE and takes it to the next word. -/
def Sys2Proof.Clause.NopSleepAndWake : Prop :=
  ∀ (s : State) (h : Holder), s.me? = some h →
    (∃ th, exec .nop s = .next (s.setH s.cur { h with th := th }) ∧ regsSame h.th th ∧ quiet h.th th ∧ advanced h.th th) ∧
    (h.th.asleep = false → h.th.sys.wake = true → ∃ th, exec .sleep s = .next (s.setH s.cur { h with th := th }) ∧ regsSame h.th th ∧
      th.asleep = false ∧ th.sys.wake = false ∧ advanced h.th th) ∧
    (h.th.asleep = false → h.th.sys.wake = false → exec .sleep s = .next (s.setH s.cur { h with th := { h.th with asleep := true } })) ∧
    (h.runs = true → h.th.asleep = true → h.th.sys.wake = true → h.ev.parity = false →
      ∃ th, exec (.threadWake s.cur) s = .next (s.setH s.cur { h with th := th }) ∧ regsSame h.th th ∧ th.asleep = false ∧
        th.sys.wake = false ∧ advanced h.th th)

/-- R156, R431: once every earlier instruction has completed, HALT is the normal end of the thread of a task or named residency, which then
issues nothing, and an instance is racked, whatever TVEC holds, with a record of cause HALT and its index; without the frames it is killed.
It waits for earlier stores, and an instance for the answers that it is owed (R421). DESIGN CHOICE (log 42): INFO and ADDR of that record are 0. -/
def Sys2Proof.Clause.HaltEndsAThread : Prop :=
  ∀ (s : State) (h : Holder), s.me? = some h →
    (ctAccepted s h = false → exec .halt s = .next s) ∧
    (ctAccepted s h = true → (h.id.kind = .task ∨ h.id.kind = .named) →
      exec .halt s = .next (s.setH s.cur { h with th := { h.th with halted := true, pfx := {} } }) ∧
      ∀ i : Nat, i = s.cur → ∀ t : State, exec .halt s = .next t → threadTurn t i = .next t) ∧
    (ctAccepted s h = true → (h.id.kind = .callee ∨ h.id.kind = .member) →
      (canSave s h = false → exec .halt s = .next s) ∧
      (canSave s h = true → parksOrDies (exec .halt s) s h cHALT 0 0 h.th.pc))

/-- R146, R153, R156, R431: NOP, SLEEP, wake and HALT. -/
def Obligations.NopSleepWakeAndHalt : Prop := Clause.NopSleepAndWake ∧ Clause.HaltEndsAThread

/-- R151, R431: a trap with no handler installed, or one while a handler runs, then with cause NESTED, stops the thread: EPC, ECAUSE, EADDR
and TVEC stand as they were, an instance is racked and a residency killed, and the record carries the cause and the index of the
sequence, or the next one for TRAP. -/
def Sys2Proof.Clause.UnhandledTrapsStopTheThread : Prop :=
  ∀ (s : State) (h : Holder) (u : Bool) (c i : Nat) (ea : W64), s.me? = some h → ctAccepted s h = true →
    (h.th.sys.en = false ∨ h.th.sys.inh = true) →
    (canSave s h = false → ∃ th, trap s u c i ea = s.setH s.cur { h with th := th } ∧ regsSame h.th th ∧ th.sys = h.th.sys ∧ th.pcA = h.th.pcA ∧ th.pcE = h.th.pcE) ∧
    (canSave s h = true → ∃ th, regsSame h.th th ∧ th.sys = h.th.sys ∧ th.lq = h.th.lq ∧ th.sq = h.th.sq ∧ th.copies = h.th.copies ∧ th.code = h.th.code ∧
      (let k := if c = cTRAP then h.th.pc + 1 else h.th.pc
       th.pcA = k ∧ th.pcE = k ∧ parksOrDies (.next (trap s u c i ea)) (s.setH s.cur { h with th := th }) { h with th := th }
         (if h.th.sys.inh = true then cNESTED else c) (if h.th.sys.inh = true then c else i) ea.toNat k))

/-- R77, R149 to R151, R431: what takes a trap, where it goes, and what one without a handler does. -/
def Obligations.TrapEntry : Prop := Clause.TrapEntrySavesAndRedirects ∧ Clause.TrapAndIllegalWordsTrap ∧ Clause.UnhandledTrapsStopTheThread

/-- R143, R144, R76: EXT and REP are taken up by the next word and change no register, queue, special register or memory; EXT after EXT,
and REP after a prefix, trap ILL. -/
def Sys2Proof.Clause.PrefixesJoinTheNextWord : Prop :=
  ∀ (s : State) (h : Holder), s.me? = some h →
    (∀ hi : BitVec 16, h.th.pfx.ext = none →
      exec (.ext hi) s = .next (s.setH s.cur { h with th := { h.th with pfx := { h.th.pfx with ext := some hi, hi := some hi, len := h.th.pfx.len + 1 } } })) ∧
    (∀ (last : Fin 64) (mask : BitVec 5), h.th.pfx = {} → h.th.resume = none →
      exec (.rep last mask) s = .next (s.setH s.cur { h with th := { h.th with pfx := { rep := some (last.val, mask), len := 1 } } })) ∧
    (handles s h →
      (∀ hi : BitVec 16, h.th.pfx.ext ≠ none →
        exec (.ext hi) s = .next (s.setH s.cur { h with th := Thread.enter { h.th with pfx := {} } false cILL 0 (ofN (0xF8000000 + hi.toNat)) })) ∧
      ∀ (last : Fin 64) (mask : BitVec 5), h.th.pfx.len ≠ 0 →
        exec (.rep last mask) s = .next (s.setH s.cur { h with
          th := Thread.enter { h.th with pfx := {} } false cILL 0 (ofN (0xFC000000 + last.val * 2 ^ 20 + mask.toNat * 2 ^ 15)) }))

/-- R144, R145: an instruction behind REP that is not at its last repeat leaves the thread at the same word with the next repeat due;
at the last repeat both units go on after the sequence and REPST is cleared. -/
def Sys2Proof.Clause.RepeatsRunToTheLast : Prop :=
  ∀ (t : Thread) (last : Nat) (mask : BitVec 5), t.pfx.rep = some (last, mask) →
    (t.pfx.idx < last → t.retire.pcA = t.pcA ∧ t.retire.pcE = t.pcE ∧ t.retire.pfx = { t.pfx with idx := t.pfx.idx + 1 } ∧ t.retire.sys = t.sys) ∧
    (last ≤ t.pfx.idx → passed t t.retire (t.pc + t.pfx.len + 1) ∧ t.retire.pfx = {} ∧
      t.retire.sys = { t.sys with repst := 0 }) ∧ t.retire.regs = t.regs

/-- R76, R143 to R145: EXT and REP. -/
def Obligations.PrefixedSequences : Prop := Clause.PrefixesJoinTheNextWord ∧ Clause.RepeatsRunToTheLast

/-! ## Ordering, sync objects and signals -/

/-- R298, R299, R327: XFENCE goes on when every write on a named class that precedes it is accepted, and closes every read in flight to
later joiners; it waits otherwise. PSYNC waits while a named durable store that precedes it is not durable. PBAR adds 1 to PEPOCH and
goes on; the pending durable stores it does not order move to the new epoch. No register changes. -/
def Obligations.FencesAndEpochs : Prop :=
  ∀ (mask : BitVec 6) (s : State) (h : Holder), s.me? = some h →
  let precedes (x : Pending) : Prop := x.agent = h.agent ∧ (x.cls = .ct ∨ (x.cls = .bk ∧ x.copy = none))
  ((∀ x ∈ s.pendings, precedes x → maskHas mask x.cls = false) →
    ∃ t h', exec (.xfence mask) s = .next t ∧ t.me? = some h' ∧ regsSame h.th h'.th ∧ quiet h.th h'.th ∧ advanced h.th h'.th ∧
      t.mem = s.mem ∧ (∀ d, ∀ c ∈ (t.die d).m.combs, c.opened = false) ∧ ∀ d, (t.die d).m.combs.length = (s.die d).m.combs.length) ∧
  (∀ x ∈ s.pendings, precedes x → maskHas mask x.cls = true → exec (.xfence mask) s = .next s) ∧
  ((∀ x ∈ durablePending s h.agent, precedes x → maskHas mask x.cls = false) → wentOn (exec (.psync mask) s) s h) ∧
  (∀ x ∈ durablePending s h.agent, precedes x → maskHas mask x.cls = true → exec (.psync mask) s = .next s) ∧
  ∃ t h', exec (.pbar mask) s = .next t ∧ t.me? = some h' ∧ h'.th.sys.pepoch.toNat = (h.th.sys.pepoch.toNat + 1) % 2 ^ 64 ∧
    regsSame h.th h'.th ∧ h'.th.lq = h.th.lq ∧ h'.th.sq = h.th.sq ∧ advanced h.th h'.th ∧
    ∀ d, (t.die d).m.pend = (s.die d).m.pend.map fun x =>
      if x.agent = h.agent ∧ ¬ ((x.cls = .ct ∨ (x.cls = .bk ∧ x.copy = none)) ∧ maskHas mask x.cls = true) then { x with epoch := x.epoch + 1 } else x

/-- R303, R304, R314: ACQ of a well-formed sync object of its scope goes on with no register and no byte of memory changed. REL waits
until the agent's writes to the bound data that precede it are accepted. It then adds 1 to GEN, bytes 48 to 55 of an object in HBM, and
changes no other byte; the add on an object of a chain becomes pending, and the thread goes on once it has been made. -/
def Sys2Proof.Clause.AcquireAndRelease : Prop :=
  ∀ (a : Reg) (scope : Fin 8) (s : State) (h : Holder), s.me? = some h →
  (∀ (s1 : State) (p : Place) (v : Nat), h.th.wait = .none →
    (syncObject s h (h.th.a a) scope.val false = .ok (p, v, s1) →
      ∃ t h', exec (.acq a scope) s = .next t ∧ t.me? = some h' ∧ regsSame h.th h'.th ∧ quiet h.th h'.th ∧ advanced h.th h'.th ∧
        t.mem = s1.mem) ∧
    (syncObject s h (h.th.a a) scope.val true = .ok (p, v, s1) →
      let gen : Place := { p with addr := p.addr + 48 }
      ((∃ x ∈ writesOpen s h.agent, boundData v x.va = true) → exec (.rel a scope) s = .next s) ∧
      ((∀ x ∈ writesOpen s h.agent, boundData v x.va = false) →
        (p.kind ≠ 4 → p.kind ≠ 0 → atOnce s1 p → Memory.wf s1.mem.bytes = true →
          ∃ t h', exec (.rel a scope) s = .next t ∧ t.me? = some h' ∧ regsSame h.th h'.th ∧ quiet h.th h'.th ∧ advanced h.th h'.th ∧
            readN t gen 8 = (readN s1 gen 8 + 1) % 2 ^ 64 ∧ storedOnly s1 t gen 8) ∧
        (p.kind = 4 → canIssue s1 h gen → h.id.inst = s.cur → ∃ t h' x, exec (.rel a scope) s = .next t ∧ t.me? = some h' ∧
          h'.th = { h.th with wait := .store x.id } ∧ joinsPending s1 t h gen 8 1 x ∧ x.op = .add)))) ∧
  (∀ k, h.th.wait = .store k → exec (.rel a scope) s = .next s) ∧ ∀ old, h.th.wait = .stored old → wentOn (exec (.rel a scope) s) s h

/-- R303, R304: the checks of ACQ and REL: an address that is no multiple of 64 traps ALIGN, one outside virtual memory SYNC with
INFO 3, and an object whose SCOPE is another one SYNC with INFO 1. -/
def Sys2Proof.Clause.SyncObjectChecks : Prop :=
  ∀ (a : Reg) (scope : Fin 8) (s : State) (h : Holder), s.me? = some h → h.th.wait = .none → handles s h →
  ((h.th.a a).toNat % 64 ≠ 0 → trappedTo (exec (.acq a scope) s) s h cALIGN 0 (h.th.a a) ∧
    trappedTo (exec (.rel a scope) s) s h cALIGN 0 (h.th.a a)) ∧
  ((h.th.a a).toNat % 64 = 0 → ((h.th.a a).toNat / 2 ^ 48 = 0x1000 ∨ (h.th.a a).toNat / 2 ^ 56 = 0x20) →
    trappedTo (exec (.acq a scope) s) s h cSYNC 3 (h.th.a a) ∧ trappedTo (exec (.rel a scope) s) s h cSYNC 3 (h.th.a a)) ∧
  ∀ (p : Place) (v : Line), resolveCt s h (h.th.a a) true false = .ok (p, s) → addrForm (h.th.a a) = .virtual →
    (h.th.a a).toNat % 64 = 0 → p.kind ≠ 3 → s.ownPending h.agent p = false → s.lineAt h.id.die p = some (v, 0) → walkFree s h (h.th.a a) →
    bestGoes s h 0 false p = true → syncOk v.toNat = true → v.toNat / 2 ^ 64 % 8 ≠ scope.val → trappedTo (exec (.acq a scope) s) s h cSYNC 1 (h.th.a a)

/-- R303, R304, R314: ACQ and REL. -/
def Obligations.SyncObjects : Prop := Clause.AcquireAndRelease ∧ Clause.SyncObjectChecks

/-- R391, R392, R393, R153, R314: SIGADD waits for the writes that precede it, adds b to a signal word of HBM and wakes the threads whose
last SIGWAIT named it; the add on a word of a chain becomes pending, and the thread goes on once it has been made. SIGWAIT goes on
with the word in d when its condition holds, or at once when bit 2 of the code is set; otherwise it waits. A code above 7 traps. -/
def Obligations.SignalInstructions : Prop :=
  ∀ (s s1 : State) (h : Holder) (p : Place) (w : Nat), s.me? = some h →
  (∀ (a b : Reg) (scope : Fin 8), (∀ k, h.th.wait = .store k → exec (.sigadd a b scope) s = .next s) ∧
    (∀ old, h.th.wait = .stored old → wentOn (exec (.sigadd a b scope) s) s h) ∧
    (h.th.wait = .none → sigPlace s h (h.th.a a) true = .ok (p, s1) →
      (writesAccepted s h = false → exec (.sigadd a b scope) s = .next s) ∧
      (writesAccepted s h = true → bestGoes s1 h 0 true p = true →
        (sigWord s1 h p = .ok w → p.kind ≠ 4 → p.kind ≠ 0 → p.addr % 8 = 0 → atOnce s1 p → Memory.wf s1.mem.bytes = true →
          ∃ t h', exec (.sigadd a b scope) s = .next t ∧ t.me? = some h' ∧ regsSame h.th h'.th ∧ advanced h.th h'.th ∧
            quiet { h.th with sys := { h.th.sys with wake := h'.th.sys.wake } } h'.th ∧
            readN t p 8 = (w + (h.th.a b).toNat) % 2 ^ 64 ∧ storedOnly s1 t p 8 ∧
            (h.th.a b ≠ 0 → ∀ i x, s1.h? i = some x → x.th.wakeSig = some p.key → ∃ y, t.h? i = some y ∧ y.th.sys.wake = true)) ∧
        (p.kind = 4 → canIssue s1 h p → h.id.inst = s.cur → ∃ t h' x, exec (.sigadd a b scope) s = .next t ∧ t.me? = some h' ∧
          h'.th = { h.th with wait := .store x.id } ∧ joinsPending s1 t h p 8 (h.th.a b).toNat x ∧ x.op = .add)))) ∧
  (∀ (f : S3) (scope : Fin 8), (h.th.a f.d).toNat < 8 → sigPlace s h (h.th.a f.a) false = .ok (p, s1) → sigWord s1 h p = .ok w →
    let c := (h.th.a f.d).toNat
    let v := ofN w
    let x := h.th.a f.b
    let holds := (c % 4 = 0 ∧ v = x) ∨ (c % 4 = 1 ∧ v ≠ x) ∨ (c % 4 = 2 ∧ v.toInt < x.toInt) ∨ (c % 4 = 3 ∧ x.toInt ≤ v.toInt)
    (holds ∨ 4 ≤ c → bestGoes s1 h 0 false p = true → ∃ t h', exec (.sigwait f scope) s = .next t ∧ t.me? = some h' ∧ wrote false f.d v h.th h'.th ∧
      quiet { h.th with wakeSig := some p.key } h'.th ∧ advanced h.th h'.th ∧ t.mem = s1.mem) ∧
    (¬ holds → c < 4 → exec (.sigwait f scope) s = .next s)) ∧
  ∀ (f : S3) (scope : Fin 8), handles s h → 8 ≤ (h.th.a f.d).toNat → trappedTo (exec (.sigwait f scope) s) s h cSIGNAL 1 (h.th.a f.a)

/-! ## Channels and messages -/

/-- R223, R224, R225, R120: QPUSH appends its word at the other end of the link and sets WAKE there; it waits while that queue holds 16
words, or while no link reaches that die (log 36), drops the word at a CLOSED port or when the other end has gone, and traps PORT at a FREE port or one of a receive. With bank 1
the value joins SQ, which must have room, and the word that leaves is the head of SQ. -/
def Sys2Proof.Clause.QpushSendsAlongTheLink : Prop :=
  ∀ (x : Reg) (bank : Bool) (p : Fin 16) (s : State) (h : Holder), s.me? = some h →
  (bank = true → 16 ≤ h.th.sq.length → handles s h → trappedTo (exec (.qpush x bank p) s) s h cQUEUE 3 0) ∧
  ((bank = true → h.th.sq.length < 16) →
    let sq := if bank then h.th.sq ++ [h.th.s x] else h.th.sq
    let w := if bank then sq.headD 0 else h.th.a x
    let after : Thread := { h.th with sq := if bank then sq.tail else sq }
    (∀ (i q : Nat) (y : Holder), ((h.port p).st = .child ∨ (h.port p).st = .parent) → peerOf h p = (i, q) → i ≠ s.cur →
      s.h? i = some y → q < y.ports.length →
      ((y.port q).q.length < 16 → reaches s h.id.die y.id.die = true → ∃ t h' y', exec (.qpush x bank p) s = .next t ∧ t.me? = some h' ∧ regsSame h.th h'.th ∧
        quiet after h'.th ∧ advanced h.th h'.th ∧ t.h? i = some y' ∧ (y'.port q).q = (y.port q).q ++ [(w, false)] ∧
        (∀ k, k ≠ q → y'.port k = y.port k) ∧ y'.th = { y.th with sys := { y.th.sys with wake := true } } ∧ t.mem = s.mem) ∧
      (16 ≤ (y.port q).q.length ∨ reaches s h.id.die y.id.die = false → exec (.qpush x bank p) s = .next s)) ∧
    ((h.port p).st = .closed ∨ (((h.port p).st = .child ∨ (h.port p).st = .parent) ∧ s.h? (peerOf h p).1 = none) →
      ∃ th, exec (.qpush x bank p) s = .next (s.setH s.cur { h with th := th }) ∧ regsSame h.th th ∧ quiet after th ∧ advanced h.th th) ∧
    (handles s h → ((h.port p).st = .free → trappedTo (exec (.qpush x bank p) s) s h cPORT 0 0) ∧
      ((h.port p).st = .recv → trappedTo (exec (.qpush x bank p) s) s h cPORT 1 0)))

/-- R224, R226, R307, R120: QPOP writes the oldest word to x; a CLOSED port becomes FREE with its last word. An empty CLOSED port becomes
FREE with trap PORT 2, a FREE one traps PORT 0, a poisoned word is taken with trap POISON, and any other empty port makes it wait. With
bank 1 the word joins LQ, which must have room, and what x receives is the head of LQ. -/
def Sys2Proof.Clause.QpopTakesTheOldestWord : Prop :=
  ∀ (x : Reg) (bank : Bool) (p : Fin 16) (s : State) (h : Holder), s.me? = some h →
  (bank = true → 16 ≤ h.th.lq.length → handles s h → trappedTo (exec (.qpop x bank p) s) s h cQUEUE 1 0) ∧
  ((bank = true → h.th.lq.length < 16) →
    (∀ (w : W64) (rest : List (W64 × Bool)), (h.port p).q = (w, false) :: rest →
      let lq := if bank then h.th.lq ++ [w] else h.th.lq
      ∃ t h', exec (.qpop x bank p) s = .next t ∧ t.me? = some h' ∧ wrote bank x (if bank then lq.headD 0 else w) h.th h'.th ∧
        quiet { h.th with lq := if bank then lq.tail else lq } h'.th ∧ advanced h.th h'.th ∧
        (h'.port p).q = rest ∧ (h'.port p).st = (if (h.port p).st = .closed ∧ rest = [] then .free else (h.port p).st) ∧
        (∀ q, q ≠ p.val → h'.port q = h.port q) ∧ t.mem = s.mem) ∧
    ((h.port p).q = [] → ((h.port p).st = .child ∨ (h.port p).st = .parent ∨ (h.port p).st = .recv) → exec (.qpop x bank p) s = .next s) ∧
    (handles s h →
      ((h.port p).q = [] → (h.port p).st = .free → trappedTo (exec (.qpop x bank p) s) s h cPORT 0 0) ∧
      ((h.port p).q = [] → (h.port p).st = .closed → ∃ t h', exec (.qpop x bank p) s = .next t ∧ t.me? = some h' ∧
        h'.th = h.th.enter false cPORT 2 0 ∧ (h'.port p).st = .free ∧ ∀ q, q ≠ p.val → h'.port q = h.port q) ∧
      ∀ (w : W64) (rest : List (W64 × Bool)), (h.port p).q = (w, true) :: rest →
        ∃ t h', exec (.qpop x bank p) s = .next t ∧ t.me? = some h' ∧ h'.th = h.th.enter false cPOISON 0 0 ∧ (h'.port p).q = rest))

/-- R225, R226, R120: QPUSH and QPOP. -/
def Obligations.ChannelPorts : Prop := Clause.QpushSendsAlongTheLink ∧ Clause.QpopTakesTheOldestWord

/-- R251, R435, R443: a SEND with a reserved bit set, or a package number without bit 59, writes 3; one to another package without PODID, or
with no port up, writes 4, the latter setting SERR; any other leaves as a packet of n words with its tag, and the thread waits for the answer. -/
def Sys2Proof.Clause.SendLeavesAsAPacket : Prop :=
  ∀ (f : S3) (n1 : Fin 8) (s : State) (h : Holder), s.me? = some h → h.th.wait = .none →
    let a := (h.th.a f.a).toNat
    let remote := a / 2 ^ 59 % 2 = 1
    let malformed := a / 2 ^ 60 ≠ 0 ∨ (¬ remote ∧ a / 2 ^ 48 % 2 ^ 11 ≠ 0)
    let unset := remote ∧ s.host.podid.getLsbD 63 = false
    let unlinked := remote ∧ s.host.podid.getLsbD 63 = true ∧ anyZlkUp s = false
    (malformed → answered (exec (.send f n1) s) s h f.d 3) ∧
    (¬ malformed → unset → answered (exec (.send f n1) s) s h f.d 4) ∧
    (¬ malformed → unlinked → h.id.inst = s.cur → ∃ t h', exec (.send f n1) s = .next t ∧ t.me? = some h' ∧ wrote false f.d 4 h.th h'.th ∧
      quiet { h.th with sys := { h.th.sys with serr := true } } h'.th ∧ advanced h.th h'.th) ∧
    (¬ malformed → ¬ unset → ¬ unlinked → h.id.die < s.dies.length →
      ∃ t k, exec (.send f n1) s = .next t ∧ t.me? = some { h with th := { h.th with wait := .send k.id } } ∧ t.mem = s.mem ∧
        (t.die h.id.die).m.net = (s.die h.id.die).m.net ++ [k] ∧ k.src = h.id.inst ∧ k.dst = a % 2 ^ 32 ∧
        k.msg.tag.toNat = a / 2 ^ 32 % 2 ^ 16 ∧ k.msg.words.length = n1.val + 1 ∧
        ∀ i ≤ n1.val, k.msg.words.getD i 0 = h.th.a (Fin.ofNat 32 (f.b.val + i)))

/-- R247, R248, R249, R252: RECV and RECVW answer 2 when 32 receives are posted, 3 when the port is in use, 4 for a bad maximum; else
they take the oldest overflow message that matches, header and words, or post the receive, at which RECV goes on and RECVW waits. -/
def Sys2Proof.Clause.ReceivesMatchOrPost : Prop :=
  ∀ (f : S3) (p : Fin 16) (s : State) (h : Holder), s.me? = some h → h.th.wait = .none → h.id.inst = s.cur → h.ports.length = 16 →
    let a := (h.th.a f.a).toNat
    let m := (h.th.a f.b).toNat
    let r : Recv := { src := BitVec.ofNat 32 a, tag := BitVec.ofNat 16 (a / 2 ^ 32), mask := BitVec.ofNat 16 (a / 2 ^ 48), port := p, max := m }
    (32 ≤ h.recvs.length → answered (exec (.recv f p) s) s h f.d 2 ∧ answered (exec (.recvw f p) s) s h f.d 2) ∧
    (h.recvs.length < 32 → (h.port p).usable = false → answered (exec (.recv f p) s) s h f.d 3 ∧ answered (exec (.recvw f p) s) s h f.d 3) ∧
    (h.recvs.length < 32 → (h.port p).usable = true → (m < 1 ∨ 8 < m) →
      answered (exec (.recv f p) s) s h f.d 4 ∧ answered (exec (.recvw f p) s) s h f.d 4) ∧
    (h.recvs.length < 32 → (h.port p).usable = true → 1 ≤ m → m ≤ 8 → (∀ x ∈ h.oflow, r.matches x = false) →
      (∃ t h', exec (.recv f p) s = .next t ∧ answers t h h' f.d 0 ∧ h'.recvs = h.recvs ++ [r] ∧ (h'.port p).st = .recv ∧
        h'.oflow = h.oflow) ∧
      (∃ t h', exec (.recvw f p) s = .next t ∧ t.me? = some h' ∧ h'.th = { h.th with wait := .recvw p.val f.d.val } ∧
        h'.recvs = h.recvs ++ [r] ∧ (h'.port p).st = .recv)) ∧
    (h.recvs.length < 32 → (h.port p).usable = true → (h.port p).q = [] → 1 ≤ m → m ≤ 8 → ∀ (l1 l2 : List Msg) (x : Msg), h.oflow = l1 ++ x :: l2 →
      (∀ y ∈ l1, r.matches y = false) → r.matches x = true →
      ∀ c ∈ [(.recv f p : Instr), .recvw f p], ∃ t h', exec c s = .next t ∧ t.me? = some h' ∧
        wrote false f.d 1 h.th h'.th ∧ advanced h.th h'.th ∧ h'.th.sys.wake = true ∧ h'.oflow = l1 ++ l2 ∧ h'.recvs = h.recvs ∧
        (h'.port p).st = .closed ∧ (h'.port p).q = ((msgHeader x m) :: x.words.take m).map (fun w => (w, false)))

/-- R251, R252: SEND, RECV and RECVW. -/
def Obligations.MessageInstructions : Prop := Clause.SendLeavesAsAPacket ∧ Clause.ReceivesMatchOrPost

/-! ## Bulk copies and streams -/

/-- R259, R260: BCOPY answers 0x104 with every handle in use, then what its descriptors fail with, else the number of the lowest free
handle, which becomes busy with the copy. BWAIT waits for the handles it names, goes on when none of them is busy or failed, and a
failed one, or a number above 16, traps BULK. -/
def Obligations.BulkCopyInstructions : Prop :=
  ∀ (s : State) (h : Holder), s.me? = some h →
  (∀ (f : S3) (c : Reg),
    ((∀ x ∈ h.th.copies, x.st ≠ .free) → answered (exec (.bcopy f c) s) s h f.d 0x104) ∧
    (∀ (l1 l2 : List Copy) (x : Copy), h.th.copies = l1 ++ x :: l2 → (∀ y ∈ l1, y.st ≠ .free) → x.st = .free → h.th.copies.length ≤ 16 →
      let e := bcopyCheck h (h.th.a f.a).toNat (h.th.a f.b).toNat (h.th.a c).toNat
      (e ≠ 0 → answered (exec (.bcopy f c) s) s h f.d (ofN e)) ∧
      (e = 0 → ∃ th u, exec (.bcopy f c) s = .next { s.setH s.cur { h with th := th } with unf := u } ∧ wrote false f.d (ofN (l1.length + 1)) h.th th ∧
        advanced h.th th ∧
        th.copies = l1 ++ { st := .busy, dst := h.th.a f.a, src := h.th.a f.b, len := (h.th.a c).toNat } :: l2 ∧
        quiet { h.th with copies := th.copies } th))) ∧
  ∀ a : Reg, h.th.copies.length = 16 →
    let n := (h.th.a a).toNat
    let named (i : Nat) : Prop := i < 16 ∧ (n = 0 ∨ i + 1 = n)
    (n ≤ 16 → (∀ i, named i → (h.th.copies.getD i {}).st = .free) → wentOn (exec (.bwait a) s) s h) ∧
    (n ≤ 16 → (∃ i, named i ∧ (h.th.copies.getD i {}).st = .busy) → exec (.bwait a) s = .next s) ∧
    (handles s h → 16 < n → trappedTo (exec (.bwait a) s) s h cBULK 0 0) ∧
    (handles s h → n ≤ 16 → (∀ i, named i → (h.th.copies.getD i {}).st ≠ .busy) → ∀ i x, named i → (h.th.copies.getD i {}).st = .failed x →
      (∀ j, named j → (h.th.copies.getD j {}).st ≠ .free → i ≤ j) →
      ∃ t h', exec (.bwait a) s = .next t ∧ t.me? = some h' ∧ (h'.th.copies.getD i {}).st = .free ∧ h'.th.sys.eaddr = ofN x ∧
        h'.th.sys.ecause.toNat % 256 = cBULK ∧ h'.th.sys.ecause.toNat / 256 % 1024 = i + 1)

/-- R229, R403: SBIND answers 1 for a number that is no endpoint, 2 for one bound for the next phase, 3 while RUN = 1, 4 for a bad base
or extent, 5 for a host range that does not admit the binding; G adds 6 for a bad rate and 7 when a charge does not fit. Accepted, the
endpoint holds the binding, NBOUND gains 1, and for G every charge is taken; refused, none is. -/
def Sys2Proof.Clause.SbindChecksAndBinds : Prop :=
  ∀ (f : S3) (ep : Fin 32) (s : State) (h : Holder), s.me? = some h → h.id.inst = s.cur →
    let e := epField h.th ep
    let base := (h.th.a f.a).toNat
    let ext := (h.th.a f.b).toNat
    let rate := (h.th.a f.d).toNat % 2 ^ 32
    let badRange := base % 64 ≠ 0 ∨ ext = 0 ∨ ext % 64 ≠ 0 ∨ 2 ^ 40 < ext
    let host := if addrForm (h.th.a f.a) = .hostRange then hostBind s h e base ext else none
    let begun := e < h.eps.length ∧ (h.ep e).bind = none ∧ h.th.sys.run = false ∧ ¬ badRange
    let open_ := begun ∧ (addrForm (h.th.a f.a) = .hostRange → host ≠ none)
    let cs := chargesOf s h e base ext rate
    let fits := ∀ c ∈ cs, s.pkg.res.getD c.1 0 + c.2 ≤ resBudget c.1
    (∀ g : Bool, let i : Instr := if g then .sbindG f ep else .sbindBe f ep
      (h.eps.length ≤ e → answered (exec i s) s h f.d 1) ∧
      (e < h.eps.length → h.th.sys.run = false → (h.ep e).bind ≠ none → answered (exec i s) s h f.d 2) ∧
      (e < h.eps.length → h.th.sys.run = true → answered (exec i s) s h f.d 3) ∧
      (e < h.eps.length → (h.ep e).bind = none → h.th.sys.run = false → badRange → answered (exec i s) s h f.d 4) ∧
      (begun → addrForm (h.th.a f.a) = .hostRange → host = none → answered (exec i s) s h f.d 5) ∧
      (open_ → (g = true → 1 ≤ rate ∧ rate ≤ 65536 ∧ fits) →
        ∃ t h', exec i s = .next t ∧ t.me? = some h' ∧ wrote false f.d 0 h.th h'.th ∧ advanced h.th h'.th ∧
          (h'.ep e).bind = some { g := g, rate := rate, base := base, extent := ext, host := host, charges := if g then cs else [] } ∧
          quiet { h.th with sys := { h.th.sys with nbound := h.th.sys.nbound + 1 } } h'.th ∧ (∀ k, k ≠ e → h'.ep k = h.ep k) ∧
          (g = false → t.pkg = s.pkg) ∧ t.mem = s.mem)) ∧
    (open_ → (rate = 0 ∨ 65536 < rate) → answered (exec (.sbindG f ep) s) s h f.d 6) ∧
    (open_ → 1 ≤ rate → rate ≤ 65536 → ¬ fits → answered (exec (.sbindG f ep) s) s h f.d 7)

/-- R230, R231, R232: SGO sets RUN, clears SERR and starts every endpoint's counts again; with RUN = 1 it traps STREAM 0. SBAR waits
while RUN = 1. SEOS marks a running IN endpoint once, where it stands, and does nothing else; a wrong endpoint traps STREAM 1. -/
def Sys2Proof.Clause.PhasesStartAndEnd : Prop :=
  ∀ (s : State) (h : Holder), s.me? = some h →
  (h.th.sys.run = false → ∃ t h', exec .sgo s = .next t ∧ t.me? = some h' ∧ regsSame h.th h'.th ∧ advanced h.th h'.th ∧
    quiet { h.th with sys := { h.th.sys with run := true, serr := false } } h'.th ∧ h'.eps.length = h.eps.length ∧
    (∀ x ∈ h'.eps, x.issued = 0 ∧ x.inrnd = 0 ∧ x.round = 0 ∧ x.acked = 0 ∧ x.sent = 0 ∧ x.written = 0 ∧ x.held = [] ∧ x.seos = false ∧ x.eosOut = false) ∧
    (∀ e, (h'.ep e).bind = (h.ep e).bind ∧ (h'.ep e).gr = (h.ep e).gr ∧ (h'.ep e).cfgNow = (h.ep e).scfg) ∧
    h'.dp.cfg = h.dp.cfg ∧ t.mem = s.mem) ∧
  (handles s h → h.th.sys.run = true → trappedTo (exec .sgo s) s h cSTREAM 0 0) ∧
  (h.th.sys.run = false → wentOn (exec .sbar s) s h) ∧ (h.th.sys.run = true → exec .sbar s = .next s) ∧
  ∀ ep : Fin 32, let e := epField h.th ep
    (h.eps.length ≤ e ∨ (h.ep e).gr.out = true → handles s h → trappedTo (exec (.seos ep) s) s h cSTREAM 1 0) ∧
    (e < h.eps.length → (h.ep e).gr.out = false → (h.th.sys.run = false ∨ (h.ep e).eosOut = true ∨ (h.ep e).seos = true) →
      wentOn (exec (.seos ep) s) s h) ∧
    (e < h.eps.length → (h.ep e).gr.out = false → h.th.sys.run = true → (h.ep e).eosOut = false → (h.ep e).seos = false →
      ∃ t h', exec (.seos ep) s = .next t ∧ t.me? = some h' ∧ regsSame h.th h'.th ∧ quiet h.th h'.th ∧ advanced h.th h'.th ∧
        h'.ep e = { h.ep e with seos := true, seosAt := (h.ep e).issued } ∧ ∀ k, k ≠ e → h'.ep k = h.ep k)

/-- R233: SCFG traps STREAM with INFO 2 while RUN = 1, 3 for a bad count or address, 4 for more than 4,096 frames queued, 5 for a wrong
endpoint, in that order; else its frames join the endpoint's queue. -/
def Sys2Proof.Clause.ScfgQueuesFrames : Prop :=
  ∀ (a b : Reg) (ep : Fin 32) (s : State) (h : Holder), s.me? = some h →
    let e := epField h.th ep
    let n := (h.th.a b).toNat
    let bad := n = 0 ∨ 4096 < n ∨ (h.th.a a).toNat % 32 ≠ 0
    let tooMany := e < h.eps.length ∧ 4096 < (h.ep e).queued + n
    let wrong := h.eps.length ≤ e ∨ (h.ep e).gr.out = true
    (handles s h →
      (h.th.sys.run = true → trappedTo (exec (.scfg a b ep) s) s h cSTREAM 2 0) ∧
      (h.th.sys.run = false → bad → trappedTo (exec (.scfg a b ep) s) s h cSTREAM 3 (h.th.a a)) ∧
      (h.th.sys.run = false → ¬ bad → tooMany → trappedTo (exec (.scfg a b ep) s) s h cSTREAM 4 0) ∧
      (h.th.sys.run = false → ¬ bad → ¬ tooMany → wrong → trappedTo (exec (.scfg a b ep) s) s h cSTREAM 5 0)) ∧
    (h.th.sys.run = false → ¬ bad → ¬ tooMany → ¬ wrong → ∃ t h', exec (.scfg a b ep) s = .next t ∧ t.me? = some h' ∧ regsSame h.th h'.th ∧
      quiet h.th h'.th ∧ advanced h.th h'.th ∧ h'.ep e = { h.ep e with scfg := (h.ep e).scfg ++ [((h.th.a a).toNat, n)] } ∧
      (∀ k, k ≠ e → h'.ep k = h.ep k) ∧ t.mem = s.mem)

/-- R229 to R233: SBIND, SGO, SBAR, SEOS and SCFG. -/
def Obligations.BindingsAndPhases : Prop := Clause.SbindChecksAndBinds ∧ Clause.PhasesStartAndEnd ∧ Clause.ScfgQueuesFrames

/-! ## Tag tables, regions and chains -/

/-- R371, R372, R373: the four tag instructions on entry j of the table of a cell of the region: the result word, and the one entry
that changes. Only registers, the tables' entries and HITS change. -/
def Sys2Proof.Clause.TagTableInstructions : Prop :=
  ∀ (s : State) (h : Holder) (d a b : Reg) (row col j : Nat), s.me? = some h → row < h.id.h → row < 16 → col < h.id.w → col < 32 → j < 256 →
    col * h.id.h + row < h.dp.cells.length →
    let sel (v : W64) (n : Nat) : Prop := v.toNat = n * 2 ^ 16 + col * 16 + row
    let x := h.cell (col * h.id.h + row)
    let ends (o : Out) (v : Nat) (k : Nat) (e : TagEnt) (hits : BitVec 16) : Prop := ∃ t h', o = .next t ∧ answers t h h' d (ofN v) ∧
      (h'.cell (col * h.id.h + row)).tag k = e ∧ (h'.cell (col * h.id.h + row)).hits = hits ∧
      (∀ i, i ≠ k → (h'.cell (col * h.id.h + row)).tag i = x.tag i) ∧ t.mem = s.mem
    let key := (h.th.a a).toNat
    let has (i : Nat) : Prop := (x.tag i).valid = true ∧ (x.tag i).key.toNat = key
    (sel (h.th.a b) 0 → key < 2 ^ 48 →
      (has j → (∀ i < j, ¬ has i) → ends (exec (.tlook ⟨d, a, b⟩) s) (key * 2 ^ 8 + j) j { x.tag j with last := x.hits + 1 } (x.hits + 1)) ∧
      ((∀ i < 256, ¬ has i) → (x.tag j).valid = false → (∀ i < j, (x.tag i).valid = true) →
        ends (exec (.tlook ⟨d, a, b⟩) s) (2 ^ 63 + j) j (x.tag j) x.hits) ∧
      (let age (i : Nat) : Nat := (x.hits - (x.tag i).last).toNat
       (∀ i < 256, ¬ has i ∧ (x.tag i).valid = true) → (x.tag j).pin = false → (∀ i < 256, (x.tag i).pin = false → age i ≤ age j) →
        (∀ i < j, (x.tag i).pin = false → age i < age j) → ends (exec (.tlook ⟨d, a, b⟩) s) (2 ^ 63 + j) j (x.tag j) x.hits) ∧
      ((∀ i < 256, ¬ has i ∧ (x.tag i).valid = true ∧ (x.tag i).pin = true) →
        ends (exec (.tlook ⟨d, a, b⟩) s) (2 ^ 63 + 2 ^ 59) j (x.tag j) x.hits)) ∧
    (sel (h.th.a b) j → key < 2 ^ 48 →
      ((x.tag j).pin = true → ends (exec (.tfill ⟨d, a, b⟩) s) (2 ^ 61 + j) j (x.tag j) x.hits) ∧
      ((x.tag j).pin = false → (∀ i < 256, i ≠ j → ¬ has i) → ends (exec (.tfill ⟨d, a, b⟩) s) j j
        { valid := true, pin := false, key := BitVec.ofNat 48 key, last := x.hits + 1 } (x.hits + 1)) ∧
      ((x.tag j).pin = false → ∀ k < 256, k ≠ j → has k → (∀ i < k, i ≠ j → ¬ has i) →
        ends (exec (.tfill ⟨d, a, b⟩) s) (2 ^ 60 + k) j (x.tag j) x.hits)) ∧
    (sel (h.th.a a) j →
      ((x.tag j).pin = true → ends (exec (.tevict ⟨d, a⟩) s) (2 ^ 61 + j) j (x.tag j) x.hits) ∧
      ((x.tag j).pin = false → ends (exec (.tevict ⟨d, a⟩) s)
        ((if (x.tag j).valid = true then 0 else 2 ^ 63) + (x.tag j).key.toNat * 2 ^ 8 + j) j { x.tag j with valid := false } x.hits) ∧
      ((h.th.a b).toNat < 2 → ends (exec (.tpin ⟨d, a, b⟩) s) ((if (x.tag j).pin = true then 2 ^ 61 else 0) + j) j
        { x.tag j with pin := decide ((h.th.a b).toNat = 1) } x.hits))

/-- R372: a tag instruction whose selector has a bit it does not define, or names a cell outside the region, answers bit 62 and changes
nothing else. -/
def Sys2Proof.Clause.TagInstructionsOutsideTheRegion : Prop :=
  ∀ (s : State) (h : Holder) (d a b : Reg), s.me? = some h →
    let bad (v : W64) : Prop := v.toNat / 2 ^ 9 % 2 ^ 7 ≠ 0 ∨ v.toNat / 2 ^ 24 ≠ 0 ∨ h.id.w ≤ v.toNat / 2 ^ 4 % 2 ^ 5 ∨ h.id.h ≤ v.toNat % 2 ^ 4
    let err (o : Out) : Prop := answered o s h d (ofN (2 ^ 62))
    (bad (h.th.a b) → err (exec (.tlook ⟨d, a, b⟩) s) ∧ err (exec (.tfill ⟨d, a, b⟩) s)) ∧
    (bad (h.th.a a) → err (exec (.tevict ⟨d, a⟩) s) ∧ err (exec (.tpin ⟨d, a, b⟩) s))

/-- R371 to R373: the tag tables. -/
def Obligations.TagInstructions : Prop := Clause.TagTableInstructions ∧ Clause.TagInstructionsOutsideTheRegion

/-- R370: RALLOC answers 1 for operands out of range, 3 with 16 regions held, 4 without an arena, 2 with no run of free blocks, and
otherwise the address of the lowest run, which joins the list. RFREE answers 1 for no region of the holder; else it waits for the writes
that precede it, takes the region off the list and answers 0. The order of RALLOC's checks is the model's (log 16). -/
def Sys2Proof.Clause.RegionInstructions : Prop :=
  ∀ (s : State) (h : Holder), s.me? = some h →
  (∀ f : S3, let a := (h.th.a f.a).toNat
    let b := (h.th.a f.b).toNat
    let n := (a + 65535) / 65536
    (a = 0 ∨ 2 ^ 36 < a ∨ 16 < b → answered (exec (.ralloc f) s) s h f.d 1) ∧
    (1 ≤ a → a ≤ 2 ^ 36 → b ≤ 16 →
      (16 ≤ h.regions.length → answered (exec (.ralloc f) s) s h f.d 3) ∧
      (h.regions.length < 16 → arena s h.id.pid = none → answered (exec (.ralloc f) s) s h f.d 4) ∧
      ∀ ab nb bm, h.regions.length < 16 → arena s h.id.pid = some (ab, nb, bm) →
        let fits (i : Nat) : Prop := i + n ≤ nb ∧ (ab / 65536 + i) % 2 ^ b = 0 ∧ ∀ k < n, blockUsed s h.id.pid bm (i + k) = false
        ((∀ i, ¬ fits i) → answered (exec (.ralloc f) s) s h f.d 2) ∧
        ∀ i, fits i → (∀ j < i, ¬ fits j) → ∃ t h', exec (.ralloc f) s = .next t ∧ answers t h h' f.d (ofN ((ab / 65536 + i) * 65536 % 2 ^ 48)) ∧
          h'.regions = h.regions ++ [(ab / 65536 + i, n)])) ∧
  ∀ f : S2, let a := (h.th.a f.a).toNat
    ((∀ r ∈ h.regions, r.1 * 65536 ≠ a) → answered (exec (.rfree f) s) s h f.d 1) ∧
    ((∃ r ∈ h.regions, r.1 * 65536 = a) → writesAccepted s h = false → exec (.rfree f) s = .next s) ∧
    ∀ (l1 l2 : List (Nat × Nat)) (r : Nat × Nat), h.regions = l1 ++ r :: l2 → r.1 * 65536 = a → (∀ y ∈ l1, y.1 * 65536 ≠ a) →
      writesAccepted s h = true → ∃ t h', exec (.rfree f) s = .next t ∧ answers t h h' f.d 0 ∧ h'.regions = l1 ++ l2

/-- R368: RFORK answers 1 for operands that are no multiples of 64 KiB, a bad length, or ranges that overlap; the status of the first
page that fails; and otherwise, once its writes are accepted and no access is open through a source leaf (R358), the number of leaves
written times 2^32. -/
def Sys2Proof.Clause.RforkChecksFirst : Prop :=
  ∀ (f : S3) (c : Reg) (s : State) (h : Holder), s.me? = some h →
    let a := (h.th.a f.a).toNat
    let b := (h.th.a f.b).toNat
    let n := (h.th.a c).toNat
    let bad := a % 65536 ≠ 0 ∨ b % 65536 ≠ 0 ∨ n % 65536 ≠ 0 ∨ n = 0 ∨ 2 ^ 40 < n ∨ (a < b + n ∧ b < a + n)
    (bad → answered (exec (.rfork f c) s) s h f.d 1) ∧
    (¬ bad → ∀ x, s.ctx? h.id.pid = some x →
      (∀ e, forkLeaves s h.id.pid x.ptroot a b (b + n) (n / 65536 + 1) b = .error e → answered (exec (.rfork f c) s) s h f.d (ofN e)) ∧
      (∀ l, forkLeaves s h.id.pid x.ptroot a b (b + n) (n / 65536 + 1) b = .ok l →
        let open_ : Prop := ∃ y ∈ l, frameOpen s h.id.pid (2 ^ 32 - 1) y.1 = true
        (writesAccepted s h = false ∨ open_ → exec (.rfork f c) s = .next s) ∧
        (writesAccepted s h = true → ¬ open_ → ∃ t h', exec (.rfork f c) s = .next t ∧ answers t h h' f.d (ofN (l.length * 2 ^ 32)))))

/-- R367, R370: RALLOC, RFREE and RFORK. -/
def Obligations.RegionsAndFork : Prop := Clause.RegionInstructions ∧ Clause.RforkChecksFirst

/-- R319, R320, R322, R330: CHLINK waits while its descriptor's line only waits, and while a CHFREE of another agent drains the chain that it
names by its id, and answers 2 for a malformed or unreadable descriptor
or a bad extent, 1 for an ADOPT of no orphan, 3 for a backing that fails R321, 4 without a free entry and 8 for an orphan of another kind
or other backings; done, the lowest free entry, the one asked for or the orphan is an ACTIVE chain of the caller's process with the links
in order, its SEQ and EPOCH as they were (log 39), and the backings of a new chain in HBM read zero. -/
def Sys2Proof.Clause.ChlinkMakesAChain : Prop :=
  ∀ (f : S3) (s : State) (h : Holder), s.me? = some h →
    let np := (h.th.a f.b).toNat
    (descLine s h (h.th.a f.a) = .error .wait → walkFree s h (h.th.a f.a) → exec (.chlink f) s = .next s) ∧
    (∀ c i, descLine s h (h.th.a f.a) = .error (.trap c i) → answered (exec (.chlink f) s) s h f.d 2) ∧
    ∀ v psn, descLine s h (h.th.a f.a) = .ok (v, psn) →
    (chDesc v psn = none → answered (exec (.chlink f) s) s h f.d 2) ∧
    ∀ x, chDesc v psn = some x →
      let held : Prop := (x.adopt = true ∨ x.req = true) ∧ chainHeld s h x.id = true
      (held → exec (.chlink f) s = .next s) ∧ (¬ held →
      let makes (k : Nat) (bs : List Nat) : Prop := ∃ t h', exec (.chlink f) s = .next t ∧ answers t h h' f.d (ofN (k * 2 ^ 8)) ∧
        (let c := t.chain k
         c.st = .active ∧ c.owner = h.id.pid ∧ c.np = np ∧ c.cellar = x.cellar ∧ c.seq = (s.chain k).seq ∧ c.epoch = (s.chain k).epoch ∧ c.links.map (·.pb) = bs ∧
         c.links.map (·.die) = bs.map dieOfPa) ∧
        (∀ i, i ≠ k → t.chain i = s.chain i) ∧
        (x.adopt = false → x.cellar = false → ∀ b ∈ bs, backingParts s k b (np * 2 ^ 24) = [] → ∀ i < np * 2 ^ 24, memGet t.mem.bytes (b + i) = 0)
      (x.adopt = true → (s.chain x.id).st ≠ .orphan → answered (exec (.chlink f) s) s h f.d 1) ∧
      ((x.adopt = true → (s.chain x.id).st = .orphan) → np < 1 ∨ 4096 < np → answered (exec (.chlink f) s) s h f.d 2) ∧
      ((x.adopt = true → (s.chain x.id).st = .orphan) → 1 ≤ np → np ≤ 4096 →
        (backings s h.id.pid np x = none → answered (exec (.chlink f) s) s h f.d 3) ∧
        ∀ bs, backings s h.id.pid np x = some bs →
          let same : Prop := (s.chain x.id).cellar = x.cellar ∧ (s.chain x.id).links.map (·.pb) = bs
          (x.adopt = true → ¬ same → answered (exec (.chlink f) s) s h f.d 8) ∧
          (x.adopt = true → same → makes x.id bs) ∧
          (x.adopt = false → (if x.req = true then (s.chain x.id).st ≠ .free else ∀ i < 64, (s.chain i).st ≠ .free) →
            answered (exec (.chlink f) s) s h f.d 4) ∧
          ∀ k, x.adopt = false → (if x.req = true then k = x.id else k < 64 ∧ ∀ i < k, (s.chain i).st ≠ .free) →
            (s.chain k).st = .free → makes k bs))

/-- R309, R319, R322: CHSTAT answers the state word of a chain of the caller's process, and 1 for any other; it changes nothing. CHFREE
answers 5 for a chain that is re-linked, waits while stores or dirty lines remain, and then frees the entry. Both wait while another
agent's CHFREE drains the chain. -/
def Sys2Proof.Clause.ChstatAndChfree : Prop :=
  ∀ (f : S2) (s : State) (h : Holder), s.me? = some h →
    let n := (h.th.a f.a).toNat
    let c := s.chain n
    let mine := n < 64 ∧ c.st ≠ .free ∧ c.owner = h.id.pid
    let quietNow := (∀ x ∈ s.pendings, x.ch ≠ some n) ∧ ∀ l ∈ c.links, l.dirty = [] ∧ l.fwd = [] ∧ l.acks = []
    (¬ mine → answered (exec (.chstat f) s) s h f.d 1 ∧ answered (exec (.chfree f) s) s h f.d 1) ∧
    (mine → chainHeld s h n = true → exec (.chstat f) s = .next s ∧ exec (.chfree f) s = .next s) ∧
    (mine → chainHeld s h n = false →
      let frees (v : W64) (c' : Chain) : Prop := ∃ t h', exec (.chfree f) s = .next t ∧ answers t h h' f.d v ∧ t.chain n = c' ∧
        ∀ i, i ≠ n → t.chain i = s.chain i
      answered (exec (.chstat f) s) s h f.d (ofN (c.st.code * 2 ^ 8 + (if c.cellar = true then 2 ^ 11 else 0) + (c.links.length - 1) * 2 ^ 12 +
        c.linkBits * 2 ^ 16 + (match c.cand with | some l => l.die * 2 ^ 24 + min c.prog 63 * 2 ^ 26 | none => 0) + c.epoch.toNat * 2 ^ 32)) ∧
      (c.busy = true → frees 5 { c with closing := none }) ∧
      (c.busy = false → ¬ quietNow → exec (.chfree f) s = .next (s.modChain n fun c => { c with closing := some h.id.inst })) ∧
      (c.busy = false → quietNow → frees 0 { c with st := .free, owner := 0, closing := none }))

/-- R318, R319, R322: CHADD answers 1, 3, 5, 6 and 7 in that order, and otherwise starts a candidate link in state CATCHUP. CHDROP answers
1, 2, 5, 6 and 7, and otherwise takes the link out, in order, and waits in RELINK until the lines forwarded again have been taken, when
EPOCH gains 1; then it answers 0. It waits first until the stores that it makes done may become durable (R325). Both wait while a CHFREE of another agent drains the chain. -/
def Sys2Proof.Clause.ChainsGainAndLoseLinks : Prop :=
  ∀ (f : S3) (s : State) (h : Holder), s.me? = some h →
    let n := (h.th.a f.a).toNat
    let v := (h.th.a f.b).toNat
    let c := s.chain n
    let mine := n < 64 ∧ c.st ≠ .free ∧ c.owner = h.id.pid
    (¬ mine → answered (exec (.chadd f) s) s h f.d 1) ∧
    (mine → chainHeld s h n = true → exec (.chadd f) s = .next s) ∧
    (mine → chainHeld s h n = false →
      (2 ^ 48 ≤ v ∨ backing s h.id.pid v c.np c.cellar = none → answered (exec (.chadd f) s) s h f.d 3) ∧
      ∀ b, v < 2 ^ 48 → backing s h.id.pid v c.np c.cellar = some b →
        (c.busy = true → answered (exec (.chadd f) s) s h f.d 5) ∧
        (c.busy = false → (∃ l ∈ c.links, l.die = dieOfPa b) → answered (exec (.chadd f) s) s h f.d 6) ∧
        (c.busy = false → (∀ l ∈ c.links, l.die ≠ dieOfPa b) → c.links.length = 4 → answered (exec (.chadd f) s) s h f.d 7) ∧
        (c.busy = false → (∀ l ∈ c.links, l.die ≠ dieOfPa b) → c.links.length ≠ 4 →
          ∃ t h', exec (.chadd f) s = .next t ∧ answers t h h' f.d 0 ∧ t.mem = s.mem ∧
            t.chain n = { c with cand := some { die := dieOfPa b, pb := b }, prog := 0, st := .catchup } ∧ ∀ i, i ≠ n → t.chain i = s.chain i)) ∧
    (h.th.wait = .none → ¬ mine → answered (exec (.chdrop f) s) s h f.d 1) ∧
    (h.th.wait = .none → mine → chainHeld s h n = true → exec (.chdrop f) s = .next s) ∧
    (h.th.wait = .none → mine → chainHeld s h n = false →
      (3 < v → answered (exec (.chdrop f) s) s h f.d 2) ∧
      (v ≤ 3 → c.busy = true → answered (exec (.chdrop f) s) s h f.d 5) ∧
      (v ≤ 3 → c.busy = false → (∀ l ∈ c.links, l.die ≠ v) → answered (exec (.chdrop f) s) s h f.d 6) ∧
      (v ≤ 3 → c.busy = false → (∃ l ∈ c.links, l.die = v) → c.links.length = 1 → answered (exec (.chdrop f) s) s h f.d 7) ∧
      ∀ (l1 l2 : List ChainLink) (l : ChainLink), v ≤ 3 → c.busy = false → c.links = l1 ++ l :: l2 → l.die = v → (∀ x ∈ l1, x.die ≠ v) →
        l1.length + l2.length ≠ 0 → (dropMay s n l1.length = false → exec (.chdrop f) s = .next s) ∧
        (dropMay s n l1.length = true → h.id.inst = s.cur → ∃ t h', exec (.chdrop f) s = .next t ∧ t.me? = some h' ∧ regsSame h.th h'.th ∧
          h'.th.wait = .relink n c.epoch.toNat ∧ h'.th.pcA = h.th.pcA ∧ h'.th.pcE = h.th.pcE ∧ (t.chain n).links.map (·.die) = (l1 ++ l2).map (·.die) ∧
          (t.chain n).owner = c.owner ∧
          (((t.chain n).moving = true ∧ (t.chain n).st = .relink ∧ (t.chain n).epoch = c.epoch) ∨
            ((t.chain n).moving = false ∧ (t.chain n).epoch.toNat = (c.epoch.toNat + 1) % 2 ^ 32)))) ∧
    ∀ k e, h.th.wait = .relink k e →
      ((s.chain k).epoch.toNat = e ∧ (s.chain k).moving = true → exec (.chdrop f) s = .next s) ∧
      (¬ ((s.chain k).epoch.toNat = e ∧ (s.chain k).moving = true) → answered (exec (.chdrop f) s) s h f.d 0)

/-- R318 to R322, R330: CHLINK, CHSTAT, CHFREE, CHADD and CHDROP. -/
def Obligations.ChainInstructions : Prop := Clause.ChlinkMakesAChain ∧ Clause.ChstatAndChfree ∧ Clause.ChainsGainAndLoseLinks

/-! ## Calls and tasks -/

/-- R347: CALL answers 4 for a malformed a or a port in use, 1 for an entry the Function Table does not hold, 2 for a wrong number of
arguments, 3 when no region is possible, in that order, and changes nothing else, and then 5 and the cause where the function's mapping
fails. It waits while the entry's line only waits; where no region is free at once, so that the caller may be frozen, for what a freeze waits
for (R421); and while the function is being mapped (R336). That an entry which does not translate answers 1 is log 26, and the Shape Cache is
that of the caller's die (log 28). -/
def Sys2Proof.Clause.CallChecksInOrder : Prop :=
  ∀ (f : S3) (n : Fin 32) (s : State) (h : Holder), s.me? = some h → h.th.wait = .none →
    let a := (h.th.a f.a).toNat
    let badA := a / 2 ^ 36 ≠ 0 ∨ (h.port (a / 2 ^ 32 % 16)).usable = false
    (badA → answered (exec (.call f n) s) s h f.d 4) ∧
    (¬ badA → ftWaits s h.id.pid h.id.die (a % 2 ^ 32) = true → exec (.call f n) s = .next s) ∧
    (¬ badA → ftWaits s h.id.pid h.id.die (a % 2 ^ 32) = false →
      (∀ x, readFt s h.id.pid h.id.die (a % 2 ^ 32) = .error x → answered (exec (.call f n) s) s h f.d 1) ∧
      ∀ e, readFt s h.id.pid h.id.die (a % 2 ^ 32) = .ok e →
        let settled : Prop := h.id.kind = .named ∨ findFresh s (wantOf h e.w e.h e.cls) ≠ none ∨ canSave s h = true
        (n.val ≠ e.nargs → answered (exec (.call f n) s) s h f.d 2) ∧
        (n.val = e.nargs → (wantOf h e.w e.h e.cls).possible s = false → answered (exec (.call f n) s) s h f.d 3) ∧
        (¬ settled → n.val = e.nargs → (wantOf h e.w e.h e.cls).possible s = true → exec (.call f n) s = .next s) ∧
        (settled → n.val = e.nargs → (wantOf h e.w e.h e.cls).possible s = true →
          (∀ s2, shapeFor s h.id.die h.id.pid (a % 2 ^ 32) e (0, h.id.inst) = .wait s2 → exec (.call f n) s = .next s2) ∧
          ∀ c ed s2, shapeFor s h.id.die h.id.pid (a % 2 ^ 32) e (0, h.id.inst) = .fail c ed s2 → s2.me? = some h →
            ∃ t h', exec (.call f n) s = .next t ∧ answers t h h' f.d (ofN (5 + c * 256))))

/-- R336, R338, R347: a CALL that passes its checks and whose function stands in the Shape Cache claims the first free region in the order of R338 (the Shape Cache is that of the caller's die, log 28): the
callee has a free INST, the caller's process and die mask, and its arguments, its region is claimed, and its load has started; the
caller waits with its result still to come. -/
def Sys2Proof.Clause.CallClaimsARegion : Prop :=
  ∀ (f : S3) (n : Fin 32) (s s1 : State) (h : Holder) (e : FnEntry) (x : ShapeEnt) (d c r : Nat), s.me? = some h → h.th.wait = .none →
    h.id.inst = s.cur →
    let a := (h.th.a f.a).toNat
    let i := s1.newInst.1
    a / 2 ^ 36 = 0 → (h.port (a / 2 ^ 32 % 16)).usable = true → ftWaits s h.id.pid h.id.die (a % 2 ^ 32) = false →
    (h.id.kind = .named ∨ findFresh s (wantOf h e.w e.h e.cls) ≠ none ∨ canSave s h = true) → readFt s h.id.pid h.id.die (a % 2 ^ 32) = .ok e → n.val = e.nargs →
    (wantOf h e.w e.h e.cls).possible s = true → shapeFor s h.id.die h.id.pid (a % 2 ^ 32) e (0, h.id.inst) = .hit x s1 →
    s1.h? i = none → s1.me? = some h → (∀ q m, (s1.area q m).st = 2 → (s1.area q m).owner ≠ s.cur ∧ (s1.area q m).owner ≠ i) →
    (∀ q, (s1.die q).p.queue = []) →
    (wantOf h e.w e.h e.cls).find s1 = some (d, c, r) →
    ∃ t k, exec (.call f n) s = .next t ∧ t.h? i = some k ∧ k.id.inst = i ∧ k.id.pid = h.id.pid ∧ k.id.parent = h.id.inst ∧
      k.id.kind = .callee ∧ k.id.dieMask = h.id.dieMask ∧ k.id.die = d ∧ k.id.col = c ∧ k.id.row = r ∧ k.id.life = .loading ∧
      k.fn.args.length = n.val ∧ t.me? = some { h with th := { h.th with wait := .call f.d.val (a / 2 ^ 32 % 16) i } }

/-- R336, R338, R347: CALL. -/
def Obligations.CallInstruction : Prop := Clause.CallChecksInOrder ∧ Clause.CallClaimsARegion

/-- R349, R280, R120: RET with the number of words its function gives, no phase, no busy copy and room in the caller's port ends the
instance: its record is gone and the words stand in the caller's port, which is CLOSED; a gang member's words are discarded. With bank 1
the words cross SQ, which must have room for them. It waits for earlier stores, a phase, a copy or room, or while no link reaches the
caller (log 36), and traps CALLX 1 in a task or named residency
and CALLX 0 for a wrong number. -/
def Sys2Proof.Clause.RetEndsTheInstance : Prop :=
  ∀ (x : Reg) (n : Fin 32) (bank : Bool) (s : State) (h : Holder), s.me? = some h → h.id.inst = s.cur →
    let regs (e : Bool) : List W64 := (List.range n.val).map fun i => h.th.get e (Fin.ofNat 32 (x.val + i))
    let ws := if bank then (h.th.sq ++ regs true).take n.val else regs false
    let ends : Prop := h.id.kind = .callee ∨ h.id.kind = .member
    let still : Prop := ctAccepted s h = true ∧ h.th.sys.run = false ∧ (∀ c ∈ h.th.copies, c.st ≠ .busy) ∧ (∀ p ∈ h.ports, p.st ≠ .child) ∧
      h.regions = [] ∧ h.saved = {} ∧ h.fn.foldedOn = none ∧ Tbl.risingFrom 0 s.hold = true
    (bank = true → n.val ≠ 0 → 16 < h.th.sq.length + n.val → handles s h → trappedTo (exec (.ret x n bank) s) s h cQUEUE 3 0) ∧
    ((bank = true → h.th.sq.length + n.val ≤ 16) →
      (ends → n.val = h.fn.nres → ctAccepted s h = false → ∃ k, exec (.ret x n bank) s = .next (s.setH s.cur { h with th := { h.th with lead := k } })) ∧
      (ends → n.val = h.fn.nres → ctAccepted s h = true → (h.th.sys.run = true ∨ ∃ c ∈ h.th.copies, c.st = .busy) → exec (.ret x n bank) s = .next s) ∧
      (handles s h → (h.id.kind = .task ∨ h.id.kind = .named) → trappedTo (exec (.ret x n bank) s) s h cCALLX 1 0) ∧
      (handles s h → ends → n.val ≠ h.fn.nres → trappedTo (exec (.ret x n bank) s) s h cCALLX 0 0) ∧
      (h.id.kind = .member → n.val = h.fn.nres → still → ∃ t, exec (.ret x n bank) s = .next t ∧ t.h? h.id.inst = none) ∧
      (h.id.kind = .callee → n.val = h.fn.nres → still → s.pkg.gangs = [] →
        ∀ c : Holder, s.h? h.id.parent = some c → h.id.parent ≠ h.id.inst → h.id.callerPort < c.ports.length →
          (c.port h.id.callerPort).st = .child → (c.port h.id.callerPort).peer = h.id.inst →
          (16 < (c.port h.id.callerPort).q.length + n.val ∨ reaches s h.id.die c.id.die = false → exec (.ret x n bank) s = .next s) ∧
          ((c.port h.id.callerPort).q.length + n.val ≤ 16 → reaches s h.id.die c.id.die = true →
            ∃ t c', exec (.ret x n bank) s = .next t ∧ t.h? h.id.inst = none ∧ t.h? h.id.parent = some c' ∧
              (c'.port h.id.callerPort).st = .closed ∧
              (c'.port h.id.callerPort).q = (c.port h.id.callerPort).q ++ ws.map fun w => (w, false))))

/-- R350, R351, R352: WAITC answers 2 for a malformed operand, waits while a port it names is CHILD, and then answers 0 for a CLOSED
port and 1 otherwise. CANCEL answers 1, 2 or 3 for what it may not reclaim, 1 also where no link reaches
it (log 36). GBAR goes on at once outside a gang; in a gang it counts
once and goes on when every live member has counted as often. -/
def Sys2Proof.Clause.WaitcCancelAndGbar : Prop :=
  ∀ (s : State) (h : Holder), s.me? = some h →
  (∀ f : S2, let a := (h.th.a f.a).toNat
    let malformed := a / 2 ^ 4 % 2 ^ 4 ≠ 0 ∨ a / 2 ^ 9 ≠ 0
    let named (p : Nat) : Prop := p < 16 ∧ (a / 2 ^ 8 % 2 = 1 ∨ p = a % 16)
    (malformed → answered (exec (.waitc f) s) s h f.d 2) ∧
    (¬ malformed → (∃ p, named p ∧ (h.port p).st = .child) → exec (.waitc f) s = .next s) ∧
    (¬ malformed → (∀ p, named p → (h.port p).st ≠ .child) → (∃ p, named p ∧ (h.port p).st = .closed) → answered (exec (.waitc f) s) s h f.d 0) ∧
    (¬ malformed → (∀ p, named p → (h.port p).st ≠ .child ∧ (h.port p).st ≠ .closed) → answered (exec (.waitc f) s) s h f.d 1)) ∧
  (∀ f : S2, let r := (cancelTarget s h (h.th.a f.a).toNat).filter fun x => reaches s h.id.die x.id.die
    (r = none → answered (exec (.cancel f) s) s h f.d 1) ∧
    (∀ x, r = some x → x.id.kind = .member → answered (exec (.cancel f) s) s h f.d 2) ∧
    (∀ x, r = some x → x.id.kind ≠ .member → h.id.inst ∈ subtree s x.id.inst → answered (exec (.cancel f) s) s h f.d 3)) ∧
  (h.id.gang = 2 ^ 32 - 1 → wentOn (exec .gbar s) s h) ∧
  (h.id.gang ≠ 2 ^ 32 - 1 → h.th.wait = .none → ∀ g, s.pkg.gangs.find h.id.gang = some g → s.cur ∈ g.members →
    ((∀ m ∈ g.members, m ≠ s.cur → ∀ x, s.h? m = some x → h.th.gbar + 1 ≤ x.th.gbar) →
      ∃ th, exec .gbar s = .next (s.setH s.cur { h with th := th }) ∧ regsSame h.th th ∧ advanced h.th th ∧ th.gbar = h.th.gbar + 1) ∧
    ((∃ m ∈ g.members, m ≠ s.cur ∧ ∃ x, s.h? m = some x ∧ x.th.gbar < h.th.gbar + 1) →
      exec .gbar s = .next (s.setH s.cur { h with th := { h.th with wait := .gbar, gbar := h.th.gbar + 1 } })))

/-- R351: a CANCEL of a callee that has no callees reclaims it: d holds the count 1 in bits 63:32 with status 0, the callee's record is
gone, and the port that named it is CLOSED and empty. -/
def Sys2Proof.Clause.CancelReclaimsACallee : Prop :=
  ∀ (f : S2) (s : State) (h x : Holder) (p : Nat), s.me? = some h → h.id.inst = s.cur → (h.th.a f.a).toNat = p → p < h.ports.length → p < 16 →
    (h.port p).st = .child → (h.port p).peer = x.id.inst → s.h? x.id.inst = some x → reaches s h.id.die x.id.die = true → x.id.kind = .callee → x.id.life = .placed →
    x.id.parent = h.id.inst → x.id.callerPort = p → x.id.inst ≠ s.cur → (∀ e ∈ s.hold, e.2.id.kind = .callee → e.2.id.parent ≠ x.id.inst) →
    x.regions = [] → x.saved = {} → x.fn.foldedOn = none → Tbl.risingFrom 0 s.hold = true → s.pkg.gangs = [] →
    ∃ t h', exec (.cancel f) s = .next t ∧ t.me? = some h' ∧ wrote false f.d (ofN (2 ^ 32)) h.th h'.th ∧ advanced h.th h'.th ∧
      t.h? x.id.inst = none ∧ (h'.port p).st = .closed ∧ (h'.port p).q = []

/-- R348 to R351: RET, WAITC, CANCEL and GBAR. -/
def Obligations.ReturnsAndCancels : Prop := Clause.RetEndsTheInstance ∧ Clause.WaitcCancelAndGbar ∧ Clause.CancelReclaimsACallee

/-- R379, R380, R389, R390: TSUB and TDEC answer 1 for a malformed operand; else they wait for the writes that precede them and answer 2
when a page of the run is no HBM page that may be written, or finds no frame for its copy. TSUB waits while the process holds a TCB of the die in its hold chain, or
while a Function Table line that its checks read only waits, and else
admits the run and answers N times 2^32: a TCB of STATE INIT or DONE with PRED not 0 is WAIT on the caller's die, one with PRED 0 is READY
and joins the pool. TDEC answers 3 when PRED is 0, and else decrements it and answers the new PRED; a WAIT task whose PRED reaches 0 is
READY, joins the pool of its die, and sets bit 8. -/
def Obligations.TaskCounterInstructions : Prop :=
  ∀ (f : S2) (s : State) (h : Holder), s.me? = some h →
    let a := (h.th.a f.a).toNat
    let base := a / 2 ^ 6 % 2 ^ 42 * 64
    let n := a / 2 ^ 48 % 2 ^ 12 + 1
    let badSub := a % 64 ≠ 0 ∨ a / 2 ^ 60 ≠ 0
    let badDec := a % 64 ≠ 0 ∨ a / 2 ^ 48 ≠ 0
    let pid := h.id.pid
    let ends (o : Out) (v : Nat) (t : State) : Prop := o = .next t ∧ ∃ h', t.me? = some h' ∧ wrote false f.d (ofN v) h.th h'.th ∧ advanced h.th h'.th
    (badSub → answered (exec (.tsub f) s) s h f.d 1) ∧ (badDec → answered (exec (.tdec f) s) s h f.d 1) ∧
    (¬ badSub → writesAccepted s h = false → exec (.tsub f) s = .next s) ∧ (¬ badDec → writesAccepted s h = false → exec (.tdec f) s = .next s) ∧
    (¬ badSub → writesAccepted s h = true →
      (tcbHome s pid base = none ∨ (∃ e, runPages pid base n s = .error e) → answered (exec (.tsub f) s) s h f.d 2) ∧
      ∀ u, runPages pid base n s = .ok u →
      (ovPhead s pid h.id.die ≠ 0 ∨ runWaits s pid h.id.die base n = true → exec (.tsub f) s = .next s) ∧
      (runWaits s pid h.id.die base n = false → ovPhead s pid h.id.die = 0 → (∃ t, ends (exec (.tsub f) s) (n * 2 ^ 32) t) ∧
       ∀ pa s1, n = 1 → tcbHome s pid base = some (pa, s1) → tcbHome s1 pid base = some (pa, s1) → atOnce s1 ⟨1, pa, 0⟩ → Memory.wf s1.mem.bytes = true →
        h.id.die < 4 → h.id.die < s1.dies.length →
        let v := (s1.plainLine pa).toNat
        let p : Place := ⟨1, pa + 4, 0⟩
        let admits (st : Nat) (t : State) : Prop := ends (exec (.tsub f) s) (2 ^ 32) t ∧ readN t p 1 = h.id.die * 32 + st ∧ storedOnly s1 t p 1
        tcbOk s1 pid h.id.die v = true → tcbSt v = 0 ∨ tcbSt v = 4 →
        (tcbPred v ≠ 0 → ∃ t, admits 1 t) ∧
        (let s2 := s1.physSetN (pa + 4) 1 (h.id.die * 32 + 2)
         tcbPred v = 0 → poolHasRoom s2 pid h.id.die → ∃ t, admits 2 t ∧ joinedPool s2 t pid h.id.die base (tcbPrio v)))) ∧
    (¬ badDec → writesAccepted s h = true →
      (tcbHome s pid a = none → answered (exec (.tdec f) s) s h f.d 2) ∧
      ∀ pa s1, tcbHome s pid a = some (pa, s1) →
        let v := (s1.plainLine pa).toNat
        let p : Place := ⟨1, pa, 0⟩
        (tcbPred v = 0 → ∃ t, ends (exec (.tdec f) s) 3 t ∧ t.mem = s1.mem) ∧
        (atOnce s1 p → Memory.wf s1.mem.bytes = true →
          (2 ≤ tcbPred v ∨ (tcbPred v = 1 ∧ tcbSt v ≠ 1) →
            ∃ t, ends (exec (.tdec f) s) ((tcbPred v - 1) * 2 ^ 32) t ∧ readN t p 2 = tcbPred v - 1 ∧ storedOnly s1 t p 2) ∧
          (tcbPred v = 1 → tcbSt v = 1 → ∃ t, ends (exec (.tdec f) s) (2 ^ 8) t) ∧
          (let s2 := tcbSetSt (s1.physSetN pa 2 0) pa 2
           tcbPred v = 1 → tcbSt v = 1 → poolHasRoom s2 pid (tcbDie v) → tcbDie v < s2.dies.length →
            ∃ t, ends (exec (.tdec f) s) (2 ^ 8) t ∧ joinedPool s2 t pid (tcbDie v) a (tcbPrio v) ∧ readN t p 2 = 0 ∧
              readN t ⟨1, pa + 4, 0⟩ 1 = tcbDie v * 32 + (if tcbPend v = true then 2 ^ 7 else 0) + v / 2 ^ 35 % 4 * 8 + 2)))

/-! ## The datapath -/

/-- R162, R163, R176, R190, R198: a stage whose register is free takes its named heads: DATA heads give the lane function of its
operation in every lane, a FLT head passes, and an EOS or DMK at every head passes as one. The reducer and the LUT island take one
token and hold its result. Nothing outside the region's record changes. -/
def Obligations.StagesReducersAndLutsFire : Prop :=
  ∀ (s : State) (i c : Nat) (h : Holder), regionAt s i c h → noneBegun h →
  (∀ k ≤ 5, let w := h.stage c k
    (∀ n ∈ stageHeads w, n ≠ 0 → headAlone h c (n - 1)) →
    k < (h.cell c).pipes.length → sOp w ≠ 0 → isReducer w = false → (h.pipe c k).full = false → stageHeads w ≠ [] →
    let src (n : Nat) : Token := if n = 5 then constTok (sConst w) else if n = 7 then constTok 0 else if n < 5 then (h.srcHead c k n).getD {} else {}
    let a := src (sSrcA w)
    let b := src (sSrcB w)
    let x := src (sSrcC w)
    let reads := (if (opReads w).1 then [a] else []) ++ (if (opReads w).2.1 then [b] else []) ++ (if (opReads w).2.2 then [x] else [])
    ((∀ n ∈ stageHeads w, ∃ t, h.srcHead c k n = some t ∧ t.counts = true) → sAcc w = false →
      sOp w ∉ [0x33, 0x34, 0x49, 0x4A, 0x58, 0x59] →
      ∃ h', onlyHolder (exec (.stageFire i c k) s) s i h' ∧
        (h'.pipe c k).tok = lanewise reads fun j => laneOp (modeBit h.id.mode 20) w (a.lane j) (b.lane j) (x.lane j)) ∧
    (∀ (l1 l2 : List Nat) (n : Nat) (t : Token), stageHeads w = l1 ++ n :: l2 → h.srcHead c k n = some t → t.kind = .flt →
      (∀ m ∈ stageHeads w, ∃ u, h.srcHead c k m = some u ∧ u.kind ≠ .cfg ∧ (m ∈ l1 → u.kind ≠ .flt)) →
      ∃ h', onlyHolder (exec (.stageFire i c k) s) s i h' ∧ (h'.pipe c k).tok = t) ∧
    ∀ (n : Nat) (l : List Nat) (t : Token), stageHeads w = n :: l → h.srcHead c k n = some t → (t.kind = .eos ∨ t.kind = .dmk) →
      (h.pipe c k).opn = false → (∀ m ∈ l, ∃ u, h.srcHead c k m = some u ∧ u.kind = t.kind) →
      ∃ h', onlyHolder (exec (.stageFire i c k) s) s i h' ∧ (h'.pipe c k).tok = t) ∧
  (∀ k ≤ 5, isReducer (h.stage c k) = true → (∀ j < k, isReducer (h.stage c j) = false) → k < (h.cell c).pipes.length →
    (h.pipe c k).full = false → ∀ t, (h.cell c).tree = some t → t.kind ≠ .cfg →
    ∃ h', onlyHolder (exec (.reducerFire i c) s) s i h' ∧ (h'.cell c).tree = none ∧
      (h'.pipe c k).tok = if t.counts = true then reduceTok (modeBit h.id.mode 20) (h.stage c k) t else t) ∧
  ∀ t, h.head c idLuti = some t → headAlone h c idLuti → t.counts = true → h.lutiOn c = true → (h.cell c).lout.tok = none →
    ∃ h', onlyHolder (exec (.lutiFire i c) s) s i h' ∧ (h'.cell c).lout.tok = some (h.lutTok c t)

/-- R189, R219, R220, R221: a DATA token leaves its output register, or a link, into every destination in one step; the feeder's value
enters an empty tree; a merge, at an input port or an edge port, takes a head that is no marker, round-robin after the input served last
where its arbitration is 1 and the lowest otherwise. A step that takes a token at a 0-slot link happens with every other consumer of that
token, or not at all: after it no token has left its source in part. -/
def Obligations.TokensMoveIntoEveryLink : Prop :=
  ∀ (s : State) (i c : Nat) (h : Holder), regionAt s i c h →
  (noneBegun h → ∀ (src : Source) (x : Mover) (t : Token), h.atSource src = (some t, []) → t.counts = true → h.takers t src = [] →
    h.together src = [src] → h.space (h.sinksOf t src) = true →
    ((∃ p : PortId, x = .emit p ∧ portNum p < 64 ∧ src = .port c (portNum p) ∧ h.epAt true c (portNum p) = none) ∨
     ∃ tile e d, x = .hop tile e d ∧ src = .link ⟨c, tile, e, d⟩ ∧ h.behindOld ⟨c, tile, e, d⟩ = false ∧ ∀ r ∈ h.sinksOf t src, r.1.cell ≠ c ∨ r.1.key ≠ tile * 64 + e * 4 + d) →
    ((h.sinksOf t src).map fun r => (r.1.cell, r.1.key)).Nodup → (∀ r ∈ h.sinksOf t src, r.1.cell < h.dp.cells.length ∧ r.2.2 ≠ 0) →
    ∃ h', onlyHolder (exec (.elementFire i c x) s) s i h' ∧ (∀ r ∈ h.sinksOf t src, (h'.link r.1).q = (h.link r.1).q ++ [t]) ∧
      h'.th = h.th ∧ h'.eps = h.eps) ∧
  (noneBegun h → ∀ k ≤ 5, sOp (h.stage c k) ≠ 0 → sRed (h.stage c k) = true → (∀ j < k, sOp (h.stage c j) = 0 ∨ sRed (h.stage c j) = false) →
    (h.pipe c k).full = true → (h.pipe c k).tRed = false → (h.cell c).tree = none →
    ∃ h', onlyHolder (exec (.elementFire i c .treeTake) s) s i h' ∧ (h'.cell c).tree = some (h.pipe c k).tok) ∧
  (noneBegun h → ∀ (p : PortId) (k arb : Nat) (r : DstRef) (t : Token),
    let key := if portNum p < 64 then portNum p else edgeKey (edgeTile p) (portNum p)
    let ins := h.mergeIns c key
    arb ≠ 0 → ((h.cell c).merges.getD key {}).tok = none →
    (∀ x ∈ ins, x.2 = arb) → ins[k]? = some (r, arb) → h.headOf r = some t → t.marker = false → leavesAlone h r → (t.kind = .cfg → h.sourceOf hopFuel r = some (.link r)) →
    let live (n : Nat) : Prop := ∃ q u, ins[n]? = some (q, arb) ∧ h.headOf q = some u ∧ u.marker = false
    let last := ((h.cell c).merges.getD key {}).last
    (∀ n < k, live n → arb = 1 ∧ last < k ∧ n ≤ last) → (arb = 1 → k ≤ last → ∀ n, last < n → ¬ live n) →
    ∃ h', onlyHolder (exec (.swmMerge i c p) s) s i h' ∧ (h'.cell c).merges.getD key {} = { tok := some t, last := k }) ∧
  (h.owed = [] → ∀ (k : Nat) (q : PortId) (m : Mover),
    ∀ x ∈ [Instr.stageFire i c k, .lutiFire i c, .swmMerge i c q, .mxWeightToken i c, .mxrow i c, .mxSegmentEnd i c, .cfgApply i c q,
      .murdRequest i c k, .muwrWrite i c k, .muatUpdate i c k, .musvWrite i c k, .cbWrite i c k, .reorderEmit i c, .cornerTurnEmit i c,
      .xlatTranslate i c, .agenEmit i c k, .elementFire i c m],
    ∃ t, exec x s = .next t ∧ ∀ g, t.h? i = some g → g.active = true → g.owed = [])

/-- R202, R203, R205, R207: a weight token fills the next part of the macro being loaded, which is loaded with its last token; a token
at in0 joins the row being gathered; a whole row is applied, adding each column's group, and with EMIT row its N / 16 tokens are due
and the accumulators start again; an in0 segment without commands ends with EOS. -/
def Obligations.MatrixTileMoves : Prop :=
  ∀ (s : State) (i c : Nat) (h : Holder), regionAt s i c h → noneBegun h → mxMacen (h.mxWord c) ≠ 0 →
    let w := h.mxWord c
    let x := (h.cell c).mx
    let fl := modeBit h.id.mode 20
    (∀ t, x.wdone = false → h.head c (idMx 1) = some t → headAlone h c (idMx 1) → t.counts = true → x.ldm < 4 →
      ∃ h', onlyHolder (exec (.mxWeightToken i c) s) s i h' ∧
        (x.ldp + 1 ≠ mxTm w → (h'.cell c).mx.ldp = x.ldp + 1 ∧ (h'.cell c).mx.ldm = x.ldm ∧ (x.ldp = 0 → (h'.cell c).mx.loaded.getLsbD x.ldm = false)) ∧
        (x.ldp + 1 = mxTm w → (h'.cell c).mx.ldp = 0 ∧ (h'.cell c).mx.ldm = nextMac w x.ldm ∧ (h'.cell c).mx.loaded.getLsbD x.ldm = true) ∧
        ∀ m ≠ x.ldm, (h'.cell c).mx.loaded.getLsbD m = x.loaded.getLsbD m) ∧
    (∀ t, mxKA w = false → x.rbuf.length < mxRowLen x → h.head c (idMx 0) = some t → headAlone h c (idMx 0) → t.counts = true →
      ∃ h', onlyHolder (exec (.mxrow i c) s) s i h' ∧
        (h'.cell c).mx.rbuf = x.rbuf ++ (elemsOf (mxA w) t).map fun e => e.map (cbCode (mxA w) ((h.cell c).table 6 (mxA w / 64)))) ∧
    (mxKA w = false → mxRowLen x ≤ x.rbuf.length → x.wdone = true → (mxKB w = true → x.kdone = true) →
      (mxEmit w = 0 → x.outq = [] → h.mxCanSend c (mxK w) = true → ∃ h', onlyHolder (exec (.mxrow i c) s) s i h' ∧ (h'.cell c).mx.rbuf = x.rbuf.drop (mxRowLen x) ∧
        (h'.cell c).mx.outq.length = mxCols w / 16 ∧ (h'.cell c).mx.acc = [] ∧ (h'.cell c).mx.rows = x.rows + 1) ∧
      (mxEmit w = 1 → ∃ h', onlyHolder (exec (.mxrow i c) s) s i h' ∧ (h'.cell c).mx.rbuf = x.rbuf.drop (mxRowLen x) ∧
        (h'.cell c).mx.outq = x.outq ∧ (h'.cell c).mx.rows = x.rows + 1 ∧ (h'.cell c).mx.rc = (x.rc + 1) % (mxRows w + 1) ∧
        (x.nact = 0 → ∀ n < mxCols w,
          let row := (x.rbuf.take 128).map fun e => e.map fun v => if v = poisonCode then Elem.bad else decodeElem fl (fun _ => 0) (held16 (mxA w)) v
          (h'.cell c).mx.acc.getD (x.rc * 128 + n) negZero =
            fadd32 fl (x.acc.getD (x.rc * 128 + n) negZero) (mxGroup fl w x 0 row x.first n).1))) ∧
    (∀ t, h.head c (idMx 0) = some t → headAlone h c (idMx 0) → t.kind = .eos → x.wdone = true → x.rbuf = [] → mxK w = false → h.mxIn1 c = false → mxEmit w = 0 →
      x.flts = [] → ∃ h', onlyHolder (exec (.mxSegmentEnd i c) s) s i h' ∧ (h'.cell c).mx.outq = x.outq ++ [(eosTok, none)] ∧
        (h'.cell c).mx.wdone = false ∧ (h'.cell c).mx.rc = 0 ∧ (h'.cell c).mx.rows = 0 ∧ (h'.cell c).mx.ldp = 0 ∧ (h'.cell c).mx.acc = x.acc)

/-- R235: a CFG at a CU input whose frame names the stage that reads it, legal there, is taken, and the frame is in force; any other
CFG at the stage is sent on. -/
def Obligations.ConfigurationInBand : Prop :=
  ∀ (s : State) (i c n k : Nat) (h : Holder) (t : Token), regionAt s i c h → noneBegun h → n < 4 → headAlone h c n → h.stageIn c n = some k → k < 6 →
    k < (h.cell c).pipes.length → h.srcHead c k (n + 1) = some t → t.kind = .cfg → (h.pipe c k).full = false → (h.pipe c k).opn = false →
    let f := t.frame
    (f.kind = 0 → f.target = k → f.col = h.cellCol c → f.row = h.cellRow c → headerOk h.id.w h.id.h (t.val.toNat % 2 ^ 256) = true →
      (∀ g : Holder, g.id = h.id → g.dp.cfg = h.dp.cfg → g.eps = h.eps → g.inbandOk f = true) →
      ∃ h', onlyHolder (exec (.cfgApply i c ⟨0, n⟩) s) s i h' ∧ h'.pay c 0 k f.part = f.pay.toNat) ∧
    (h.ownFrame c [(0, k), (0, 6)] t = none → f.kind ≠ 2 ∨ 4 ≤ f.target ∨ headOwn h c n →
      (sOp (h.stage c k) = 0x4A → (h.passTable c k t).dp.illegal = none) → ∃ h', onlyHolder (exec (.cfgApply i c ⟨0, n⟩) s) s i h' ∧ (h'.pipe c k).tok = t)

/-! ## Memory-unit ports, buffers, generators and endpoints -/

/-- R237, R240, R315: a read port takes the next head into its request queue, and gives the oldest request the next reorder entry; the
reply, in chain class or not, puts the line in that entry. -/
def Sys2Proof.Clause.ReadPortsRequestAndReceive : Prop :=
  ∀ (s : State) (i c p : Nat) (h : Holder), regionAt s i c h → p < 4 → (h.cell c).ports.length = 4 → muType (h.muWord c p) = 1 →
  (∀ t, noneBegun h → (h.mu c p).reqs = [] → h.head c (idMuIn0 p) = some t → headAlone h c (idMuIn0 p) → t.counts = true →
    ∃ h', onlyHolder (exec (.murdRequest i c p) s) s i h' ∧ (h'.mu c p).reqs = [(t, {})]) ∧
  (∀ t u rest pl, noneBegun h → (h.mu c p).reqs = (t, u) :: rest → (h.mu c p).rob.length < 16 → t.counts = true → muPlace s h c t = .ok pl →
    h.reqGoes s c false (h.muEndpoint c p) pl = true →
    ∃ t' h', leaves (exec (.murdRequest i c p) s) i t' h' ∧ (h'.mu c p).reqs = rest ∧
      (h'.mu c p).rob = (h.mu c p).rob ++ [{ id := (h.mu c p).tail, req := t, at_ := s.now h.id.die, escaped := (h.mu c p).rob.any fun r => r.res.isNone && r.escaped }] ∧ (h'.mu c p).tail = (h.mu c p).tail + 1 ∧ t'.mem = s.mem) ∧
  ∀ (e : Nat) (r : RobEnt) (l1 l2 : List RobEnt) (pl : Place) (v : Line) (psn : BitVec 16), c < 512 → (h.mu c p).rob = l1 ++ r :: l2 → r.id = e → r.res = none →
    (∀ y ∈ l1 ++ l2, y.id ≠ e) → muPlace s h c r.req = .ok pl → absorbed s (i, c, p, e) = false → s.ownPending h.agent pl = false →
    h.lineServed s c (h.muEndpoint c p) pl = true → s.lineAt h.id.die pl = some (v, psn) → ∀ ins : Instr, ins = (if pl.kind = 4 then .chainRead i c p e else .muResponse i c p e) →
    ∃ t' h', leaves (exec ins s) i t' h' ∧ (∃ r' ∈ (h'.mu c p).rob, r'.id = e ∧ r'.req = r.req ∧ r'.res = some (lineTok (s.readAs i .fs pl (v, psn)).1 (s.readAs i .fs pl (v, psn)).2)) ∧ t'.mem = s.mem

/-- R237, R238, R239: a write port writes the valid lanes of its oldest pair to the line, an atomic port replaces each acting word by
the function of it and the operand lane, and a save port writes its token to the next line of its window; no other byte of any memory
changes. Lines of scratchpad or HBM. -/
def Sys2Proof.Clause.WritePortsWriteTheirLanes : Prop :=
  ∀ (s : State) (i c p : Nat) (h : Holder) (t u : Token) (rest : List (Token × Token)) (pl : Place), regionAt s i c h → noneBegun h → p < 4 →
    (h.cell c).ports.length = 4 → pl.addr % 64 = 0 → atOnce s pl → Memory.wf (placeBytes s pl) = true →
  ((h.mu c p).reqs = (t, u) :: rest → muPlace s h c t = .ok pl → h.lineGoes s c true (h.muEndpoint c p) pl = true →
    (muType (h.muWord c p) = 2 → ∃ t' h', leaves (exec (.muwrWrite i c p) s) i t' h' ∧ (h'.mu c p).reqs = rest ∧ storedOnly s t' pl 64 ∧
      ∀ j < 16, readN t' { pl with addr := pl.addr + 4 * j } 4 = if u.ok j = true then u.lane j else readN s { pl with addr := pl.addr + 4 * j } 4) ∧
    (muType (h.muWord c p) = 4 → muRes (h.muWord c p) = false → ∀ v, s.lineAt 0 pl = some (v, 0) →
      ∃ t' h', leaves (exec (.muatUpdate i c p) s) i t' h' ∧ (h'.mu c p).reqs = rest ∧ storedOnly s t' pl 64 ∧
        ∀ j < 16, let old := readN s { pl with addr := pl.addr + 4 * j } 4
          readN t' { pl with addr := pl.addr + 4 * j } 4 = if u.ok j = true ∧ u.bad j = false then
            atomicNew fadd32 (muatOp (modeBit h.id.mode 20) (muAop (h.muWord c p))) 4 old (u.lane j) else old)) ∧
  (muType (h.muWord c p) = 5 → h.head c (idMuIn0 p) = some t → headAlone h c (idMuIn0 p) → t.counts = true → (h.mu c p).svpos ≠ muWsize (h.muWord c p) →
    pl = ⟨0, scratchKey h.id.die (h.id.cellAt c) (64 * (muWbase (h.muWord c p) + (h.mu c p).svpos)), 0⟩ →
    ∃ t' h', leaves (exec (.musvWrite i c p) s) i t' h' ∧ (h'.mu c p).svpos = (h.mu c p).svpos + 1 ∧ storedOnly s t' pl 64 ∧
      ∀ j < 16, t.ok j = true → readN t' { pl with addr := pl.addr + 4 * j } 4 = t.lane j)

/-- R237 to R240: the ports of a memory unit. -/
def Obligations.MemoryUnitPorts : Prop := Clause.ReadPortsRequestAndReceive ∧ Clause.WritePortsWriteTheirLanes

/-- R241 to R245: a buffer's writer puts its token in the slot at WPTR, and its reader takes the slot at RPTR; WPTR and RPTR run round
the buffer and FILL counts. A reorder element and a corner-turn node take tokens up to their room, also while their output is
blocked, and give a block's tokens once it has arrived. -/
def Obligations.BuffersAndBlocks : Prop :=
  ∀ (s : State) (i c p : Nat) (h : Holder), regionAt s i c h → noneBegun h → p < 4 → (h.cell c).cbs.length = 8 →
    let w := h.muWord c p
    let n := muCb w
    let b := h.cb c n
    (∀ t, muType w = 3 → muReader w = false → h.head c (idMuIn0 p) = some t → headAlone h c (idMuIn0 p) → t.counts = true → cbEn (h.cbWord c n) = true →
      b.fill < cbSize (h.cbWord c n) → Memory.wf s.mem.scratch = true →
      ∃ t' h', leaves (exec (.cbWrite i c p) s) i t' h' ∧ (h'.cb c n).fill = b.fill + 1 ∧ (h'.cb c n).wptr = (b.wptr + 1) % cbSize (h.cbWord c n) ∧
        (h'.cb c n).rptr = b.rptr ∧ readN t' (cbPlace h c n b.wptr) 64 = t.val.toNat ∧ storedOnly s t' (cbPlace h c n b.wptr) 64) ∧
    (∀ v psn, muType w = 3 → muReader w = true → b.fill ≠ 0 → h.canEmit c (idMuOut p) = true → (b.side.getD b.rptr (.data, 0, 0)).1 = .data →
      s.lineAt h.id.die (cbPlace h c n b.rptr) = some (v, psn) →
      ∃ h', onlyHolder (exec (.cbRead i c p) s) s i h' ∧ (h'.cb c n).fill = b.fill - 1 ∧ (h'.cb c n).rptr = (b.rptr + 1) % cbSize (h.cbWord c n) ∧
        (h'.cb c n).wptr = b.wptr) ∧
    (∀ el t, h.reordEl c = some el → (h.cell c).reord.held = [] →
      (el.out (h.cell c).reord = none ∨ ((∃ u, el.out (h.cell c).reord = some (some u)) ∧ h.canEmit c idReord = false)) →
      h.head c idReord = some t → headAlone h c idReord → t.counts = true →
      (h.cell c).reord.toks.length < 64 → ∃ h', onlyHolder (exec (.reorderEmit i c) s) s i h' ∧
        (h'.cell c).reord.inPos = (h.cell c).reord.inPos + 1 ∧ (h'.cell c).reord.toks.find (h.cell c).reord.inPos = some t) ∧
    (∀ el t, h.reordEl c = some el → (h.cell c).reord.held = [] → el.out (h.cell c).reord = some (some t) → t.counts = true →
      h.canEmit c idReord = true → ∃ h', onlyHolder (exec (.reorderEmit i c) s) s i h' ∧ (h'.cell c).reord.outPos = (h.cell c).reord.outPos + 1) ∧
    (∀ el t, h.cturnEl c = some el → (h.cell c).cturn.held = [] →
      (el.out (h.cell c).cturn = none ∨ ((∃ u, el.out (h.cell c).cturn = some (some u)) ∧ h.canEmit c idCturn = false)) →
      el.room (h.cell c).cturn = true → h.head c idCturn = some t → headAlone h c idCturn → t.counts = true → ∃ h', onlyHolder (exec (.cornerTurnEmit i c) s) s i h' ∧
        (h'.cell c).cturn.inPos = (h.cell c).cturn.inPos + 1 ∧ (h'.cell c).cturn.toks.find (h.cell c).cturn.inPos = some t) ∧
    ∀ el, h.cturnEl c = some el → (h.cell c).cturn.held = [] → h.canEmit c idCturn = true →
      let size := 2 ^ (h.pay c 1 13 0 % 8)
      let b := (h.cell c).cturn
      b.outPos / size * size + size ≤ b.inPos →
      ∃ h', onlyHolder (exec (.cornerTurnEmit i c) s) s i h' ∧ (h'.cell c).cturn.outPos = b.outPos + 1

/-- R228, R356, R357, R361, R395, R415, R232: a generator emits the next address of its binding, ISSUED gaining 64; a port endpoint
delivers the next line; a translation operator sends on a token that its held translation serves, and for another starts a walk, shares
one of its process and granule, or waits in order of arrival while every walk is busy; a walk's translation is then held; a round that
every sink has acknowledged is discarded; a drained phase ends. -/
def Obligations.EndpointsDeliverAndEnd : Prop :=
  ∀ (s : State) (i c : Nat) (h : Holder), regionAt s i c h →
  (∀ (g e : Nat) (b : Binding), let w := h.agenWord c g
    let st := (h.cell c).agens.getD g {}
    noneBegun h → g < (h.cell c).agens.length → g < 2 → w ≠ 0 → agMode w ≠ 1 → h.canEmit c (idAgen g) = true → h.genEp c g = some e → (h.ep e).gr.out = false →
    h.inNext e st.done = .data → (h.ep e).bind = some b → 0 ≤ agOff w (agIdx w st.n) → agOff w (agIdx w st.n) + 64 ≤ b.extent →
    ∃ h', onlyHolder (exec (.agenEmit i c g) s) s i h' ∧ (h'.ep e).issued = (h.ep e).issued + 64 ∧ (h'.ep e).inrnd = ((h.ep e).inrnd + 1) % 1024 ∧
      ((h'.cell c).agens.getD g {}).n = st.n + 1) ∧
  (∀ (e id : Nat) (b : Binding) (v : Line) (psn : BitVec 16) (s1 : State), e < h.eps.length → (h.ep e).gr.out = false →
    epSite (h.ep e).gr.place = some (c, id) → h.dp.feeds.getD (c * 128 + id) [] = [] → (h.ep e).cfgNow = [] → (h.ep e).replay = [] → (h.ep e).bind = some b →
    let pl := portPlace s h b (h.ep e).issued false
    h.portDue e = .data → h.lineGoes s c false (some e) pl = true → isWithheld s h { ep := some e } = false → cutOff s h.id.die pl = false →
    portJoins s h b c (h.ep e) pl = false → portRead s h b e (h.ep e) = .ok (v, psn, s1) →
    ∃ t' h', leaves (exec (.inEndpointDeliver i e) s) i t' h' ∧ (h'.ep e).issued = (h.ep e).issued + 64 ∧
      h'.dp.feeds.getD (c * 128 + id) [] = [lineTok v psn] ∧ t'.mem = s.mem) ∧
  (∀ t, let w := h.xlatWord c
    let x := (h.cell c).xlat
    let d := h.id.die
    let gran := t.addr / 65536
    noneBegun h → w ≠ 0 → h.canEmit c idXlat = true → h.head c idXlat = some t → headAlone h c idXlat → t.counts = true → t.addrOk = true →
    t.sp = false → t.phys = false →
    (∀ y, x.held = some y → (x.looked = true ∨ t.newpg = false) → y.serves t.addr (accRd w) (accWr w) = true →
      ∃ h', onlyHolder (exec (.xlatTranslate i c) s) s i h' ∧
        (h'.cell c).xlat = { held := some y, looked := false, made := x.made.put (y.base / 65536) y.w }) ∧
    (x.held = none → isWithheld s h { cell := some c } = false → awaitsWalk s d i c = false → d < s.dies.length →
      let same (y : Walk) : Prop := y.pid = h.id.pid ∧ y.gran = gran
      ((∀ y ∈ walksOn s d, ¬ same y) → (walksOn s d).length < 1024 → (s.die d).m.misses = [] →
        ∃ t', exec (.xlatTranslate i c) s = .next t' ∧ walksOn t' d = walksOn s d ++ [⟨h.id.pid, gran, [(i, c)]⟩] ∧ t'.h? i = some h) ∧
      ((∃ y ∈ walksOn s d, same y) → ∃ t', exec (.xlatTranslate i c) s = .next t' ∧ t'.h? i = some h ∧
        (walksOn t' d).map (fun y => (y.pid, y.gran)) = (walksOn s d).map (fun y => (y.pid, y.gran)) ∧ (∀ y ∈ walksOn t' d, same y → (i, c) ∈ y.who)) ∧
      ((∀ y ∈ walksOn s d, ¬ same y) → (1024 ≤ (walksOn s d).length ∨ (s.die d).m.misses ≠ []) →
        ∃ t', exec (.xlatTranslate i c) s = .next t' ∧ t'.h? i = some h ∧ walksOn t' d = walksOn s d ∧
          (t'.die d).m.misses = (s.die d).m.misses ++ [(h.id.pid, gran, i, c)]))) ∧
  (∀ (d : Nat) (l1 l2 : List Walk) (x : Walk) (t : Token) (e : Xent) (s1 : State), walksOn s d = l1 ++ x :: l2 → d < s.dies.length →
    x.who = [(i, c)] → (s.die d).m.misses = [] → h.head c idXlat = some t → x.gran = t.addr / 65536 → c < 512 →
    (accWr (h.xlatWord c) = true → cowWaits (s.modM d fun m => { m with walks := l1 ++ l2 }) h.id.pid t.addr i = false) →
    xlatOf (s.modM d fun m => { m with walks := l1 ++ l2 }) h.id.pid t.addr (accRd (h.xlatWord c)) (accWr (h.xlatWord c)) = .ok (e, s1) →
    ∃ t' h', leaves (exec (.translationWalk d l1.length) s) i t' h' ∧ (h'.cell c).xlat.held = some e ∧ (h'.cell c).xlat.looked = true ∧
      walksOn t' d = l1 ++ l2) ∧
  (∀ e, e < h.eps.length → (h.ep e).gr.out = false → h.th.sys.run = true → (h.ep e).acked < (h.ep e).round →
    (∀ k ∈ (h.ep e).gr.sinks, h.sinkAcked k ((h.ep e).acked + 1) = true) → streamsAccepted s h = true →
    ∃ h', onlyHolder (exec (.roundAck i e) s) s i h' ∧ (h'.ep e).acked = (h.ep e).acked + 1 ∧
      (∀ t ∈ (h'.ep e).held, t ∈ (h.ep e).held ∧ (h.ep e).acked + 1 < t.1)) ∧
  (h.th.sys.run = true → (∀ x ∈ h.eps, x.gr.out = true ∨ (x.eosOut = true ∧ x.replay = [] ∧ x.cfgNow = [])) → h.quiet = true →
    streamsAccepted s h = true → ∃ t' h', leaves (exec (.runFall i) s) i t' h' ∧ h'.th.sys.run = false ∧ h'.th.sys.nbound = 0 ∧
      h'.th.sys.wake = true ∧ (∀ x ∈ h'.eps, x.bind = none ∧ x.live = false) ∧ t'.mem = s.mem ∧ regsSame h.th h'.th)

/-! ## Recovery, pre-emption and invalidation -/

/-- R307, R427, R428: a rollback keeps the thread and memory, empties the region's elements, its posted receives and its overflow queue,
and replays the retained tokens; an
uncorrectable error of memory or of a scratchpad poisons the words of its line, the bytes staying; one of a thread's state kills its
region, for DAMAGED while it is drained or racked, and else for PARITY; a sleeping thread's is found by the sweep that wakes it. -/
def Obligations.RollbackAndUncorrectableErrors : Prop :=
  ∀ (s : State),
  (∀ (i : Nat) (h : Holder), s.h? i = some h → h.id.life = .placed →
    (h.ev.rollDue = true → ∃ t h', leaves (exec (.rollback i) s) i t h' ∧ h'.th = h.th ∧ h'.id = h.id ∧ h'.ev.rollDue = false ∧
      h'.ev.rollbacks = h.ev.rollbacks + 1 ∧ h'.dp.cfg = h.dp.phaseCfg ∧ h'.dp.feeds = [] ∧ h'.recvs = [] ∧ h'.oflow = [] ∧ t.mem = s.mem ∧
      (∀ e < h.eps.length, (h.ep e).gr.out = false → (h'.ep e).replay = (h.ep e).held) ∧
      ∀ c < h.dp.cells.length, (h'.cell c).links = [] ∧ (h'.cell c).outs = [] ∧ (h'.cell c).tree = none ∧ (h'.cell c).pipes = List.replicate 6 {} ∧
        (h'.cell c).mx.rbuf = [] ∧ (h'.cell c).tags = (h.cell c).tags ∧ (h'.cell c).tables = (h.cell c).phaseTables) ∧
    (h.ev.draining = true ∨ h.ev.rackBy ≠ none → exec (.uncorrectableError (.thread i)) s = .next (killRegion s h rDAMAGED 0)) ∧
    (h.ev.draining = false → h.ev.rackBy = none →
      (h.th.asleep = false → exec (.uncorrectableError (.thread i)) s = .next (killRegion s h rPARITY 0)) ∧
      (h.th.asleep = true → ∃ h', onlyHolder (exec (.uncorrectableError (.thread i)) s) s i h' ∧ h'.ev.parity = true ∧ h'.th = h.th))) ∧
  (∀ pa, paAssigned pa = true → s.pbLine? (normPa pa) = none → chainSite s (normPa pa) = none →
    ∃ t, exec (.uncorrectableError (.memLine pa)) s = .next t ∧ t.mem.bytes = s.mem.bytes ∧ t.mem.scratch = s.mem.scratch ∧ t.hold = s.hold ∧
      ∀ w, w ∈ t.mem.poison ↔ w ∈ s.mem.poison ∨ w / 16 = normPa pa / 64) ∧
  ∀ d cell off, cell < 512 → off < 2 ^ 20 →
    ∃ t, exec (.uncorrectableError (.scratchLine d cell off)) s = .next t ∧ t.mem.bytes = s.mem.bytes ∧ t.mem.scratch = s.mem.scratch ∧
      t.hold = s.hold ∧ ∀ w, w ∈ t.mem.scratchPoison ↔ w ∈ s.mem.scratchPoison ∨ w / 16 = scratchKey d cell off / 64

/-- R418 to R421, R424, R426: RACK turns away a target that is missing, named, or not placed or racked already (log 20) with results 1, 4 and 2, and otherwise is
BUSY while the holder is drained, or frozen where PREEMPT is 1; RESUME of a parked holder queues its image; DISCARD cancels it, and one
whose rollback, freeze, drain or restore it stops (R426). The
saving that follows a drain, its timeout or a freeze parks the holder with result 0, or with result 3 lets it go on in place when
the pool cannot supply the frames. -/
def Obligations.PreemptionCommands : Prop :=
  ∀ (s : State) (d : Nat), d < s.dies.length → (s.die d).r.prstat.getLsbD 63 = false →
  (∀ ins ∈ [Instr.rack d, .resume d, .discard d],
    (prTarget s d = none → ∃ t, exec ins s = .next t ∧ (t.die d).r.prstat = 1 ∧ t.hold = s.hold ∧ t.mem = s.mem) ∧
    ∀ h, prTarget s d = some h →
      (h.id.kind = .named → ∃ t, exec ins s = .next t ∧ (t.die d).r.prstat = 4 ∧ t.hold = s.hold ∧ t.mem = s.mem) ∧
      (h.id.kind = .callee → h.id.life ≠ .placed → h.id.life ≠ .parked → (ins = .discard d → h.id.life ≠ .restoring) → s.h? h.id.inst = some h →
        ∃ t, exec ins s = .next t ∧ (t.die d).r.prstat = 2 ∧ t.hold = s.hold ∧ t.mem = s.mem)) ∧
  ∀ h, prTarget s d = some h → s.h? h.id.inst = some h → h.id.kind = .callee →
    (h.id.life = .placed → h.ev.rackBy ≠ none → ∃ t, exec (.rack d) s = .next t ∧ (t.die d).r.prstat = 2 ∧ t.hold = s.hold ∧ t.mem = s.mem) ∧
    (h.id.life = .placed → h.ev.rackBy = none → ∃ t h', leaves (exec (.rack d) s) h.id.inst t h' ∧ (t.die d).r.prstat = 2 ^ 63 ∧ h'.ev.rackBy = some d ∧ h'.th = h.th ∧
      h'.ev.draining = (h.ev.draining || !modeBit h.id.mode 0) ∧ t.mem = s.mem) ∧
    (h.id.life = .parked → h.saved.fault = none → h.id.die < s.dies.length →
      ∃ t h', leaves (exec (.resume d) s) h.id.inst t h' ∧ h'.id.life = .ready ∧ (t.die d).r.prstat = 0 ∧ h'.th = h.th ∧
        (t.die h.id.die).p.queue = (s.die h.id.die).p.queue ++ [.image h.id.inst] ∧ t.mem = s.mem) ∧
    (h.id.life = .placed → h.ev.rollDue = false → h.ev.draining = false → h.ev.rackBy = none →
      ∃ t, exec (.discard d) s = .next t ∧ (t.die d).r.prstat = 2 ∧ t.hold = s.hold ∧ t.mem = s.mem) ∧
    (h.id.life = .parked ∨ h.id.life = .restoring ∨ (h.id.life = .placed ∧ (h.ev.rollDue = true ∨ h.ev.draining = true ∨ h.ev.rackBy ≠ none)) →
      exec (.discard d) s = .next (prResult (cancelTree s h.id.inst).1 d 0)) ∧
    (h.id.life = .placed → h.ev.rollDue = false → h.fn.foldedOn = none → h.answered = true → h.ev.rackBy = some d →
      ∀ ins k, ((ins = Instr.drain h.id.inst ∧ k = 1 ∧ h.ev.draining = true ∧ h.drained = true ∧ streamsAccepted s h = true) ∨
        (ins = .drainTimeout h.id.inst ∧ k = 1 ∧ h.ev.draining = true ∧ dmksOut s h = true ∧ ∃ c, h.ev.dmkAt = some c ∧ c + 4096 ≤ s.now h.id.die) ∨
        (ins = .freeze h.id.inst ∧ k = 0 ∧ h.ev.draining = false)) →
      (∀ s', rack s h k .parked = some s' → exec ins s = .next (prResult s' d 0)) ∧
      (poolCount s h.id.pid = 0 → ∃ t h', leaves (exec ins s) h.id.inst t h' ∧ (t.die d).r.prstat = 3 ∧ h'.th = h.th ∧ h'.id = h.id ∧
        h'.ev.draining = false ∧ h'.ev.rackBy = none ∧ t.mem = s.mem))

/-- R358, R363: XINV is ignored while BUSY, refuses a malformed range with 1 and an unknown PID with 2, and otherwise is BUSY until no
held translation of the range remains; a withheld access whose new walk succeeds is withheld no more and whose walk fails is walked
again 1 µs later; at the end of FAULTWAIT the region is drained, the access staying withheld until it is scanned out. -/
def Obligations.InvalidationAndWithheldAccesses : Prop :=
  ∀ (s : State),
  (∀ d, d < s.dies.length → let r := (s.die d).r
    (r.xinvs.getLsbD 63 = true → exec (.xinv d 1) s = .next s) ∧
    (r.xinvs.getLsbD 63 = false →
      let malformed := r.xinva.toNat % 2 ^ 16 ≠ 0 ∨ 32 < r.xinvl.toNat % 2 ^ 6 ∨ r.xinvl.toNat / 2 ^ 6 % 4 ≠ 0 ∨ r.xinvl.toNat / 2 ^ 9 ≠ 0
      ∃ t, exec (.xinv d 1) s = .next t ∧ t.hold = s.hold ∧ t.mem = s.mem ∧
        (malformed → (t.die d).r.xinvs = 1) ∧
        (¬ malformed → s.ctx? (r.xinva.toNat / 2 ^ 48) = none → (t.die d).r.xinvs = 2) ∧
        (¬ malformed → s.ctx? (r.xinva.toNat / 2 ^ 48) ≠ none → (t.die d).r.xinvs = 2 ^ 63)) ∧
    (r.xinvs.getLsbD 63 = true → accessesOpen s (r.xinva.toNat / 2 ^ 48) = false → s.pkg.withheld = [] →
      (∀ e ∈ s.hold, e.2.saved.fault = none) →
      ∃ t, exec (.xinvComplete d) s = .next t ∧ (t.die d).r.xinvs = 0 ∧ t.mem = s.mem ∧
        ∀ e ∈ t.hold, e.2.id.pid = r.xinva.toNat / 2 ^ 48 → ∀ x ∈ e.2.dp.cells, ∀ y, x.xlat.held = some y → xinvRange r y.gran = false)) ∧
  (∀ (l1 l2 : List Withheld) (x : Withheld) (i : Nat), s.pkg.withheld = l1 ++ x :: l2 → x.who = .holder i → x.cell = none →
    (x.next ≤ s.now x.die → (x.write = true → cowWaits s (withheldPid s x) x.va i = false) →
      (∀ e s1, xlatOf s (withheldPid s x) x.va x.read x.write = .ok (e, s1) →
        ∃ t, exec (.withheldRetry l1.length) s = .next t ∧ x ∉ t.pkg.withheld) ∧
      ∀ k, xlatOf s (withheldPid s x) x.va x.read x.write = .error k →
        ∃ t, exec (.withheldRetry l1.length) s = .next t ∧ { x with next := s.now x.die + 600, info := k } ∈ t.pkg.withheld ∧ t.hold = s.hold ∧ t.mem = s.mem) ∧
    ∀ h, s.h? i = some h → h.id.inst = i → h.id.kind ≠ .member → x.copy = none → h.saved.fault = none →
      x.since + 600 * (h.id.mode.toNat / 2 ^ 9 % 2 ^ 10) ≤ s.now x.die →
      ∃ t h', leaves (exec (.faultwaitExpiry l1.length) s) i t h' ∧ x ∈ t.pkg.withheld ∧ h'.ev.draining = true ∧ h'.saved.fault = some x.va ∧ h'.th = h.th)

/-! ## Links and messages -/

/-- R262, R443, R444: a short retrain, and a link coming up again, leave the link UP with one more completed retrain; a link that goes
down trains, with its bit of DEVEVT set. -/
def Obligations.LinksRetrain : Prop :=
  ∀ (s : State), s.dies.length = 4 → (∀ d < 4, (s.die d).r.ports.length = 12) →
  let up (w : W64) (v : W64) : Prop := v.getLsbD 63 = true ∧ v.getLsbD 62 = false ∧ v.toNat % 2 ^ 32 = (w.toNat % 2 ^ 32 + 1) % 2 ^ 32
  let training (w : W64) (v : W64) : Prop := v.getLsbD 63 = false ∧ v.getLsbD 62 = true ∧ v.toNat % 2 ^ 32 = w.toNat % 2 ^ 32
  (∀ l, linkIsUp s l = true → ∃ t, exec (.linkRetrain l) s = .next t ∧ t.hold = s.hold ∧ t.mem = s.mem ∧
    (∀ x ∈ linkEntries l, up (s.portWord x) (t.portWord x)) ∧ ∀ d < 4, ∀ k < 12, (d, k) ∉ linkEntries l → t.portWord (d, k) = s.portWord (d, k)) ∧
  (∀ p < 36, (s.portWord (p / 9, p % 9)).getLsbD 62 = true → ∃ t, exec (.zlkRetrain p) s = .next t ∧ t.hold = s.hold ∧ t.mem = s.mem ∧
    up (s.portWord (p / 9, p % 9)) (t.portWord (p / 9, p % 9))) ∧
  (∀ a b, linkEntries (.die a b) ≠ [] → (∀ x ∈ linkEntries (.die a b), (s.portWord x).getLsbD 62 = true) →
    ∃ t, exec (.dieLinkUp a b) s = .next t ∧ t.hold = s.hold ∧ t.mem = s.mem ∧ ∀ x ∈ linkEntries (.die a b), up (s.portWord x) (t.portWord x)) ∧
  (∀ p q, p < 36 → q < 36 → p ≠ q → linkIsUp s (.zlk p) = true → linkIsUp s (.zlk q) = true → (∀ d < 4, (s.die d).m.net = []) →
    (∀ e ∈ s.hold, ∀ x ∈ e.2.eps, ∀ b, x.bind = some b → b.g = true → bindsZlk s p e.2.id.die b = false) →
    ∃ t, exec (.linkDown (.zlk p)) s = .next t ∧ t.hold = s.hold ∧ t.mem = s.mem ∧ t.host.devevt = s.host.devevt ||| 1 ∧
      training (s.portWord (p / 9, p % 9)) (t.portWord (p / 9, p % 9))) ∧
  ∀ a b, linkIsUp s (.die a b) = true → (∀ d < 4, (s.die d).m.net = []) → (∀ e ∈ s.hold, e.2.id.die ≠ a ∧ e.2.id.die ≠ b) →
    (∀ x ∈ s.pendings, storeCrosses (min a b) (max a b) x = false) →
    (∀ e ∈ s.hold, ∀ x ∈ e.2.eps, ∀ y, x.bind = some y → y.g = true → chargesLink (min a b) (max a b) e.2.id.die y = false) →
    (∃ c, c < 4 ∧ c ≠ a ∧ c ≠ b ∧ linkUp s a c = true ∧ linkUp s b c = true) →
    ∃ t, exec (.linkDown (.die a b)) s = .next t ∧ t.hold = s.hold ∧ t.mem = s.mem ∧ t.host.devevt = s.host.devevt ||| 2 ∧
      ∀ x ∈ linkEntries (.die a b), training (s.portWord x) (t.portWord x)

/-! ## Messages, copies and transfers -/

/-- R248 to R251, R261: a message reaches its destination's agent in the order of its stream; the sender's d receives 2 when the
destination does not exist for it, 0 when a posted receive matches or the overflow list has room, and 1 otherwise; a match delivers
the header and words to the entry's port. After 4,096 slice cycles a packet and those behind it take the escape channel. -/
def Sys2Proof.Clause.MessagesArriveAndEscape : Prop :=
  ∀ (s : State) (d : Nat) (l1 l2 : List Packet) (p : Packet), d < s.dies.length → (s.die d).m.net = l1 ++ p :: l2 →
  ((∀ q ∈ l1, q.src ≠ p.src ∨ q.dst ≠ p.dst ∨ q.out ≠ none) → p.out = none → (∀ y, s.h? p.dst = some y → reaches s d y.id.die = true) →
    (∀ (x : Holder) (r : Reg), s.h? p.src = some x → x.th.wait = .send p.id → sendDest x.th = some r → p.src ≠ p.dst →
      ∃ t x', leaves (exec (.messageArrival d l1.length) s) p.src t x' ∧ (t.die d).m.net = l1 ++ l2 ∧ advanced x.th x'.th ∧ wrote false r
        (match s.h? p.dst with
         | none => 2
         | some y => if y.id.pid ≠ p.pid ∨ y.id.life = .resident then 2
                     else if (∃ e ∈ y.recvs, e.matches p.msg = true) ∨ y.oflow.length < 64 then 0 else 1) x.th x'.th) ∧
    ∀ (y : Holder) (k1 k2 : List Recv) (e : Recv), s.h? p.dst = some y → y.id.pid = p.pid → y.id.life = .placed → p.src ≠ p.dst →
      y.recvs = k1 ++ e :: k2 → (∀ m ∈ k1, m.matches p.msg = false) → e.matches p.msg = true → e.port < y.ports.length →
      ∃ t y', leaves (exec (.messageArrival d l1.length) s) p.dst t y' ∧ y'.recvs = k1 ++ k2 ∧ y'.th.sys.wake = true ∧ (y'.port e.port).st = .closed ∧
        (y'.port e.port).q = (y.port e.port).q ++ (msgHeader p.msg e.max :: p.msg.words.take e.max).map fun w => (w, false)) ∧
  (4096 ≤ 2 * (s.now d - p.at_) → p.escaped = false →
    ∃ t, exec (.escapeTimeout d l1.length) s = .next t ∧ t.hold = s.hold ∧ t.mem = s.mem ∧ (t.die d).m.net.length = (s.die d).m.net.length ∧
      ∀ (j : Nat) (q : Packet), (s.die d).m.net[j]? = some q →
        (t.die d).m.net[j]? = some (if l1.length ≤ j ∧ q.src = p.src ∧ q.dst = p.dst then { q with escaped := true } else q))

/-- R259, R260: a copy moves its next line, with the rest of its packet behind it, up to a 4 KiB boundary of its destination or its end, as
far as the port takes lines, and once every line is accepted its handle is free and WAKE is set. R441, R442: with a port
up, a peer's message joins the overflow list of a holder without a matching receive and status 0 leaves, its notify write is that of the
page, and its lines reach BAR4's addresses as a host access does: a write changes those bytes alone, what a read finds leaves, and an
unassigned range changes and returns nothing. R440: a raised vector that is not masked, with MSI-X on and the function unmasked, sends its message. -/
def Sys2Proof.Clause.CopiesTransfersAndInterrupts : Prop :=
  ∀ (s : State),
  (∀ (i n : Nat) (h : Holder), s.h? i = some h → h.id.inst = i → n < h.th.copies.length →
    isWithheld s h { copy := some n } = false →
    let x := h.th.copies.getD n {}
    x.st = .busy →
    (x.len ≤ x.pos → (∀ y ∈ s.pendings, y.agent ≠ h.agent ∨ y.copy ≠ some n) →
      ∃ t h', leaves (exec (.bcopyComplete i n) s) i t h' ∧ (h'.th.copies.getD n {}).st = .free ∧ h'.th.sys.wake = true ∧ regsSame h.th h'.th ∧ t.mem = s.mem) ∧
    ∀ (ps pd : Place) (v : Line) (r : Line × BitVec 16), x.pos + 64 ≤ x.len → dSpace x.src.toNat = 0 → dSpace x.dst.toNat = 0 →
      let src := bits x.src.toNat 0 48 + x.pos
      let dst := bits x.dst.toNat 0 48 + x.pos
      copyMeets s h x (cutOff s h.id.die) = none → s.missFor h.id.die h.id.pid i (missCopy n) [src / 65536, dst / 65536] = none →
      let s0 := s.forgetWalks h.id.die i (missCopy n)
      copyVa s0 h.id.pid i src false = .ok (ps, s0) → copyRead s0 h.id.die h.agent ps = .ok r → s0.readAs i .bk ps r = (v, 0) →
      bestGoes s0 h 0 false ps = true →
      let s1 := bestWent (s0.didRead i .bk ps) h 0 false ps
      copyVa s1 h.id.pid i dst true = .ok (pd, s1) → bestGoes s1 h 0 true pd = true → atOnce s pd → pd.addr % 64 = 0 →
      Memory.wf (placeBytes s pd) = true →
      ∃ t h', t.h? i = some h' ∧ (h'.th.copies.getD n {}).pos = x.pos + 64 ∧ regsSame h.th h'.th ∧ readN t pd 64 = v.toNat ∧ storedOnly s t pd 64 ∧
        (x.pos + 64 = x.len ∨ (dst + 64) % 4096 = 0 → exec (.bcopyComplete i n) s = .next t) ∧
        (x.pos + 64 < x.len → (dst + 64) % 4096 ≠ 0 → ∀ u e, bcopyPacket i n 63 t = (u, e) → (e = none ∨ e = some none) →
          exec (.bcopyComplete i n) s = .next u)) ∧
  (s.host.podid.getLsbD 63 = true → anyZlkUp s = true →
    (∀ pkg src dst tag ws y, s.h? dst = some y → y.id.life ≠ .resident →
      let m : Msg := { src := src, pkg := pkg, remote := true, tag := tag, words := ws.take 8 }
      (∀ r ∈ y.recvs, r.matches m = false) → y.oflow.length < 64 →
      exec (.zlkTransfer (.msg pkg src dst tag ws)) s = .next (goesOut (s.setH dst { y with oflow := y.oflow ++ [m] }) (.answer pkg src 0))) ∧
    (∀ d page off len v, exec (.zlkTransfer (.nwr d page off len v)) s = exec (.widx d page off len v) s) ∧
    ∀ (pa len : Nat) (v : W64), 0 < len → len ≤ 8 → pa + len ≤ 2 ^ 42 →
      (bar4Ok pa len = false → exec (.zlkTransfer (.memWrite pa len v)) s = .next s ∧
        exec (.zlkTransfer (.memRead pa len)) s = .next (goesOut s (.data pa len none))) ∧
      (bar4Ok pa len = true → pa % 64 + len ≤ 64 →
        let p : Place := ⟨1, normPa pa, 0⟩
        inCellar p.addr = false → (∀ i < len, inBacking s (p.addr + i) = false) → Memory.wf s.mem.bytes = true →
        exec (.zlkTransfer (.memRead pa len)) s = .next (goesOut s (.data pa len (some (readN s p len)))) ∧
        (iposAt s p.addr = false → iposAt s (normPa (pa + len - 1)) = false →
          ∃ t, exec (.zlkTransfer (.memWrite pa len v)) s = .next t ∧ t.hold = s.hold ∧ t.host = s.host ∧ readN t p len = v.toNat % 256 ^ len ∧
            storedOnly s t p len))) ∧
  ∀ v < 64, s.host.msixOn = true → s.host.msixMask = false → s.host.pending.getLsbD v = true → (msixWord s.host (2 * v + 1)).getLsbD 32 = false → s.host.msgAt.find v = none →
    ∃ t, exec (.msixMessage v) s = .next t ∧ t.host.sent = s.host.sent ++ [v] ∧ t.hold = s.hold ∧ t.mem = s.mem ∧
      ∀ k, t.host.pending.getLsbD k = (s.host.pending.getLsbD k && k != v)

/-- R248 to R262, R440 to R442: what the networks deliver. -/
def Obligations.MessagesCopiesAndTransfers : Prop := Clause.MessagesArriveAndEscape ∧ Clause.CopiesTransfersAndInterrupts

/-! ## Command queues -/

/-- A queue of a die, filed under its own QID. -/
def Sys2Proof.queueAt (s : State) (d qid : Nat) (q : Queue) : Prop := d < s.dies.length ∧ (s.die d).q.queues.find qid = some q ∧ q.qid = qid

/-- After the step the queue is `q`. -/
def Sys2Proof.queueNow (o : Out) (d qid : Nat) (t : State) (q : Queue) : Prop := o = .next t ∧ (t.die d).q.queues.find qid = some q

/-- R269, R268: a write of WIDX that advances W by 1 to S, and past RD by no more than S, is accepted; one that does not advance is
counted in IGN; one that runs over stops the queue with QOVERRUN, unless it is stopped, when it is counted; so is a partial write of
the word. -/
def Obligations.NotifyWrites : Prop :=
  ∀ (s : State) (d page : Nat) (q : Queue) (v : W64), pageQueue s d page = some q → queueAt s d q.qid q →
  let size := 2 ^ q.log2s
  let delta := (v.toNat + 2 ^ 64 - q.w.toNat) % 2 ^ 64
  let span := (v.toNat + 2 ^ 64 - q.rd.toNat) % 2 ^ 64
  let accepted := 0 < delta ∧ delta ≤ size ∧ span ≤ size
  ∃ t q', queueNow (exec (.widx d page 0 8 v) s) d q.qid t q' ∧ t.hold = s.hold ∧ q'.rd = q.rd ∧
    (accepted → q'.w = v ∧ q'.ign = q.ign ∧ q'.st = q.st ∧ t.mem = s.mem) ∧
    (¬ accepted → q'.w = q.w ∧
      (delta = 0 ∨ 2 ^ 63 < delta ∨ q.st = .stopped → q'.ign = q.ign + 1 ∧ q'.st = q.st ∧ t.mem = s.mem) ∧
      (0 < delta → delta ≤ 2 ^ 63 → q.st ≠ .stopped → q'.ign = q.ign ∧ q'.st = .stopped ∧ q'.last = 0x14)) ∧
    ∀ off len, off < 8 → (off ≠ 0 ∨ len ≠ 8) →
      ∃ u q2, queueNow (exec (.widx d page off len v) s) d q.qid u q2 ∧ q2.ign = q.ign + 1 ∧ q2.w = q.w ∧ q2.rd = q.rd ∧ u.mem = s.mem

/-- R266, R267, R270, R271, R273, R281: the packet whose turn it is starts, RD gaining 1: a malformed one stops the queue with BADPKT; a
NOP is done at once, an XFENCE once the stores that it names are accepted, and a COPY begins. A packet still stale 64 µs after its admission stops the queue with PKTNV. -/
def Sys2Proof.Clause.PacketsStart : Prop :=
  ∀ (s : State) (d qid : Nat) (q : Queue), queueAt s d qid q →
  (∀ l, turnOf s d = some qid → q.miss s d [q.packetAddr q.rd.toNat] = none → nextPkt s d q = .words l →
    (pktType (l.getD 0 0) ∈ [4, 5] → q.miss s d [l.getD 1 0] = none) → (pktType (l.getD 0 0) = 6 → packetStores s d qid (bits (l.getD 1 0) 0 6) = false) → (∀ x ∈ q.live, x.idx ≠ q.rd.toNat) →
    (pktOk l = false → ∃ t q', queueNow (exec (.packetStart d qid) s) d qid t q' ∧ q'.st = .stopped ∧ q'.last = 0x16 ∧ q'.rd = q.rd + 1 ∧
      q'.w = q.w ∧ t.hold = s.hold) ∧
    (pktOk l = true → pktType (l.getD 0 0) ∈ [0, 6, 7] → ∃ t q', queueNow (exec (.packetStart d qid) s) d qid t q' ∧
      q'.rd = q.rd + 1 ∧ q'.w = q.w ∧ q'.st = q.st ∧ t.mem = s.mem ∧ t.hold = s.hold ∧
      q'.running = q.live ++ [{ idx := q.rd.toNat, words := l.map (BitVec.ofNat 64)
                                st := if pktType (l.getD 0 0) = 7 then .copies 0 else .done }])) ∧
  (∀ (v : W64) (c : Nat) (l : List (W64 × Nat)) (w : Nat), q.admits = (v, c) :: l → q.st = .mapped → q.w ≠ q.rd → c + 38400 ≤ s.now d →
    word64 s q.pid (q.packetAddr q.rd.toNat) = some w → (w / 256 % 2 = 1 ↔ q.rd.toNat / 2 ^ q.log2s % 2 = 1) →
    ∃ t q', queueNow (exec (.pktnv d qid) s) d qid t q' ∧ q'.st = .stopped ∧ q'.last = 0x15 ∧ q'.rd = q.rd ∧ q'.w = q.w ∧ t.hold = s.hold)

/-- R274, R275, R277, R278: a done packet without SIG leaves its queue, and a residency that it loaded is then free
for BINDs; with SIG it leaves once 1 has been subtracted from its word; a
BIND is done when its phase has ended. A WAIT whose condition holds, or has held at an atomic on its
word, is done, and one whose time has run out stops the queue. A
CFGLOAD claims its cells and its load starts. -/
def Sys2Proof.Clause.PacketsComplete : Prop :=
  ∀ (s : State) (d qid : Nat) (q : Queue) (p : RunPkt) (l1 l2 : List RunPkt), queueAt s d qid q → q.dead = false →
    q.running = l1 ++ p :: l2 → (∀ x ∈ l1 ++ l2, x.idx ≠ p.idx) → qHeld s d qid p.idx = false → (s.die d).q.astat.getLsbD 63 = false →
  let header := (p.words.getD 0 0).toNat
  (p.st = .done → pktType header ≠ 8 → pktSig header = false → ∃ t q', queueNow (exec (.packetCompletion d qid p.idx) s) d qid t q' ∧
    q'.running = l1 ++ l2 ∧ q'.st = q.st ∧ q'.w = q.w ∧ q'.rd = q.rd ∧ t.mem = s.mem ∧
    ((∀ e ∈ s.hold, e.2.id.kind = .named → e.2.fn.packet ≠ some (d, qid, p.idx)) → t.hold = s.hold) ∧
    ∀ i h, s.h? i = some h → h.id.kind = .named → h.fn.packet = some (d, qid, p.idx) → t.h? i = some { h with fn := { h.fn with packet := none } }) ∧
  (∀ pl, p.st = .done → pktType header ≠ 8 → pktSig header = true → (p.words.getD 7 0).toNat % 8 = 0 →
    resolveVa s q.pid (p.words.getD 7 0).toNat true true = .ok (pl, s) → (pl.kind = 1 ∨ pl.kind = 2) → pl.addr % 8 = 0 → inCellar pl.addr = false →
    inBacking s pl.addr = false → s.physPoison pl.addr = 0 → Memory.wf s.mem.bytes = true →
    ∃ t q', queueNow (exec (.packetCompletion d qid p.idx) s) d qid t q' ∧ q'.running = l1 ++ l2 ∧
      readN t pl 8 = (readN s pl 8 + (2 ^ 64 - 1)) % 2 ^ 64 ∧ storedOnly s t pl 8) ∧
  (∀ i h, p.st = .bindRuns i → s.h? i = some h → h.th.sys.run = false → ∃ t q', queueNow (exec (.packetCompletion d qid p.idx) s) d qid t q' ∧
    q'.running = l1 ++ { p with st := .done } :: l2 ∧ t.mem = s.mem ∧ t.hold = s.hold) ∧
  (∀ x w, q.wait = some x → p.st = .waits → (∀ y ∈ l1, y.st ≠ .waits) →
    (q.st ≠ .unmapped → q.miss s d [x.addr] = none → waitWord s q x.addr = .ok w → (x.hit = true ∨ condHolds x.cond (BitVec.ofNat 64 w) x.value = true) →
      ∃ t q', queueNow (exec (.waitTest d qid) s) d qid t q' ∧ q'.running = l1 ++ { p with st := .done } :: l2 ∧ q'.wait = none ∧ q'.st = q.st ∧ t.mem = s.mem) ∧
    ∀ c, q.st ≠ .unmapped → x.hit = false → x.deadline = some c → c ≤ s.now d →
      ∃ t q', queueNow (exec (.waittmo d qid) s) d qid t q' ∧ q'.wait = none ∧ q'.st = .stopped ∧ q'.last = 0x19 ∧ t.hold = s.hold) ∧
  ∀ h c r, p.st = .claim → (p.words.getD 3 0).toNat % 4 = 0 → h.id.kind = .named →
    ((s.hold.map (·.2)).find? fun h => h.fn.packet == some (d, qid, p.idx) && h.id.life == .queued) = some h → s.h? h.id.inst = some h →
    scanDie s d h.id.w h.id.h (fun e => e.claimable h.id.cls) = some (c, r) →
    (∀ x ∈ rect c r h.id.w h.id.h, (s.area d x).state = 0) →
    ∃ t h', leaves (exec (.cfgloadClaim d qid p.idx) s) h.id.inst t h' ∧ h'.id.life = .loading ∧ h'.id.col = c ∧ h'.id.row = r ∧ h'.id.die = d ∧
      ∃ q', (t.die d).q.queues.find qid = some q' ∧ q'.running = l1 ++ { p with st := .runs h.id.inst } :: l2

/-- R266 to R281: the packets of a command queue. -/
def Obligations.PacketsStartAndComplete : Prop := Clause.PacketsStart ∧ Clause.PacketsComplete

/-- R282: a gang with a member that wants service is mapped whole when slots are free for every member (a slot of the mapping is log 25), a
stopped member staying stopped, and begins to wait for slots otherwise; one that has been idle for 100 µs is unmapped; while a gang has
waited 250 µs since its mapping first failed (the model's reading, log 31), the mapped gang that has gone longest without a start is unmapped unless a packet of it runs. -/
def Obligations.QueueSlots : Prop :=
  ∀ (s : State) (d : Nat), d < s.dies.length → Tbl.risingFrom 0 (s.die d).q.queues = true → (∀ e ∈ (s.die d).q.queues, e.2.qid = e.1) →
  (∀ (qid : Nat) (q : Queue), queueAt s d qid q → q.dead = false →
    ((gangRec s d q.key).mapped = false → (∃ m ∈ gangQueues s d q.key, m.wants = true) →
      ∃ t, exec (.gangMap d qid) s = .next t ∧ t.mem = s.mem ∧ t.hold = s.hold ∧
        (slotsUsed s d + (gangQueues s d q.key).length ≤ 128 → (gangRec t d q.key).mapped = true ∧
          ∀ m ∈ gangQueues s d q.key, (t.die d).q.queues.find m.qid = some { m with st := if m.st = .stopped then .stopped else .mapped }) ∧
        (128 < slotsUsed s d + (gangQueues s d q.key).length → (gangRec t d q.key).mapped = false ∧ (t.die d).q.queues = (s.die d).q.queues ∧
          ((gangRec s d q.key).wantAt = none → (gangRec t d q.key).wantAt = some (s.now d)))) ∧
    (∀ c, (gangRec s d q.key).mapped = true → (∀ m ∈ gangQueues s d q.key, m.idle = true) → (gangRec s d q.key).idleAt = some c →
      c + 60000 ≤ s.now d → ∃ t, exec (.gangIdleUnmap d qid) s = .next t ∧ (gangRec t d q.key).mapped = false ∧ t.mem = s.mem ∧ t.hold = s.hold ∧
        ∀ m ∈ gangQueues s d q.key, (t.die d).q.queues.find m.qid = some { m with st := if m.st = .mapped then .unmapped else m.st })) ∧
  ∀ g, (∃ x ∈ (s.die d).q.gangs, waitsForSlots s d x = true ∧ ∃ c, x.wantAt = some c ∧ c + 150000 ≤ s.now d) → (s.die d).q.starveAt + 150000 ≤ s.now d →
    longestMapped s d = some g →
    ((∃ m ∈ gangQueues s d g.key, m.busy = true) → exec (.slotStarvationUnmap d) s = .next s) ∧
    ((∀ m ∈ gangQueues s d g.key, m.busy = false) → ∃ t, exec (.slotStarvationUnmap d) s = .next t ∧ (gangRec t d g.key).mapped = false ∧
      (t.die d).q.starveAt = s.now d ∧ t.mem = s.mem ∧ t.hold = s.hold)

/-- R283 to R287: each administration command leaves its number in ACMD and its result, with BUSY 0, in ASTAT. CTXSET stores the
context; QCREATE adds the queue, with a slot where its gang is mapped, and waits, BUSY, while that gang has no slot for it and runs a packet (log 25); QDESTROY drops a queue of which nothing runs; QSTART returns a stopped queue to its gang's state;
PATCH checks signature, image, SVN and slots in that order, and replaces the patch RAM, whose words stand for those of the control store; an unassigned command changes nothing else. -/
def Obligations.AdministrationCommands : Prop :=
  ∀ (s : State) (d : Nat), d < s.dies.length →
  let v := adminDesc s d
  let done (t : State) (cmd res : Nat) : Prop := (t.die d).q.acmd = BitVec.ofNat 64 cmd ∧ (t.die d).q.astat = BitVec.ofNat 64 res ∧ t.mem = s.mem
  (∃ t r, exec (.ctxset d) s = .next t ∧ done t 1 r ∧
    (ctxOk v = false → r = 1 ∧ t.pkg = s.pkg) ∧
    (ctxOk v = true → s.ctx? (dField v 0 2) = none → 256 ≤ s.pkg.ctxs.length → r = 2 ∧ t.pkg = s.pkg) ∧
    (ctxOk v = true → (s.ctx? (dField v 0 2) ≠ none ∨ s.pkg.ctxs.length < 256) → r = 0 ∧ t.ctx? (dField v 0 2) = some (ctxOf v))) ∧
  (let k := (queueOf v).key
   let joins := (gangRec s d k).mapped = true
   let full := 128 ≤ slotsUsed s d
   let runs := ∃ x ∈ gangQueues s d k, x.busy = true
   (qcreateRes s d v ≠ 0 → ∃ t, exec (.qcreate d) s = .next t ∧ done t 2 (qcreateRes s d v) ∧ t.hold = s.hold ∧ (t.die d).q.queues = (s.die d).q.queues) ∧
   (qcreateRes s d v = 0 → joins ∧ full ∧ runs → ∃ t, exec (.qcreate d) s = .next t ∧ (t.die d).q.acmd = 2 ∧ (t.die d).q.astat = 2 ^ 63 ∧
     t.hold = s.hold ∧ t.mem = s.mem ∧ (t.die d).q.queues = (s.die d).q.queues) ∧
   (qcreateRes s d v = 0 → ¬ (joins ∧ full ∧ runs) → ∃ t, exec (.qcreate d) s = .next t ∧ done t 2 0 ∧ t.hold = s.hold ∧
     (joins → full → (gangRec t d k).mapped = false) ∧ (joins → ¬ full → (t.die d).q.queues.find (dField v 0 4) = some { queueOf v with st := .mapped }) ∧
     (¬ (joins ∧ ¬ full) → (t.die d).q.queues.find (dField v 0 4) = some (queueOf v)))) ∧
  (descQueue s d = none → (∃ t, exec (.qdestroy d) s = .next t ∧ done t 3 6 ∧ (t.die d).q.queues = (s.die d).q.queues ∧ t.hold = s.hold) ∧
    ∃ t, exec (.qstart d) s = .next t ∧ done t 4 6 ∧ (t.die d).q.queues = (s.die d).q.queues ∧ t.hold = s.hold) ∧
  (∀ q, descQueue s d = some q → queueAt s d q.qid q → Tbl.risingFrom 0 (s.die d).q.queues = true →
    (q.live = [] → ∃ t, exec (.qdestroy d) s = .next t ∧ done t 3 0 ∧ (t.die d).q.queues.find q.qid = none ∧ t.hold = s.hold) ∧
    (q.st ≠ .stopped → ∃ t, exec (.qstart d) s = .next t ∧ done t 4 7 ∧ (t.die d).q.queues = (s.die d).q.queues ∧ t.hold = s.hold) ∧
    (q.st = .stopped → ∃ t, exec (.qstart d) s = .next t ∧ done t 4 0 ∧ t.hold = s.hold ∧
      (t.die d).q.queues.find q.qid = some { q with st := if (gangRec s d q.key).mapped then .mapped else .unmapped })) ∧
  (let a := (s.die d).q.aarg.toNat
   let n := physBytes s (a + 6) 2
   let svn := physBytes s (a + 4) 2
   let img := physList s a (16 + 16 * n)
   let r := if sigOk 0 img (physList s (a + 16 + 16 * n) 96) = false then 8 else if patchOk img n = false then 9
     else if svn < s.host.fsvn then 10 else if slotsUsed s d ≠ 0 then 11 else 0
   ∃ t, exec (.patch d) s = .next t ∧ done t 5 r ∧ t.hold = s.hold ∧ (r ≠ 0 → (t.die d).q.patch = (s.die d).q.patch) ∧
     (r = 0 → (t.die d).q.patch = patchEntries img n ∧ (t.die d).q.patchSvn = svn ∧ (t.die d).q.patch.length = n ∧
       (∀ e ∈ patchEntries img n, controlFetch t d e.1 = e.2) ∧
       ∀ x, (∀ e ∈ patchEntries img n, e.1 ≠ x) → controlFetch t d x = Config.controlWord x)) ∧
  ∀ w : W64, (w = 0 ∨ 6 ≤ w.toNat) → ∃ t, exec (.acmdUnassigned d w) s = .next t ∧ done t w.toNat 255 ∧ t.hold = s.hold ∧ t.pkg = s.pkg ∧
    (t.die d).q.queues = (s.die d).q.queues

/-! ## Rates, shares, chains and durable stores -/

/-- R399, R400, R401, R406, R408, R410: each tick fills every bucket of a live guaranteed endpoint by its rate, up to the larger of the
rate and 64, and brings a checked share table into force; a bucket releases a line for 64; a commit is checked and waits for the tick;
while no refill is due, which goes first, a best-effort request waits for its turn while its tenant has a level, and otherwise joins the share queue and holds its port; a turn
serves, while the share queue holds nothing that can be served, the next tenant, in ascending entry number after the one last served,
that has a request waiting and a level. -/
def Obligations.RatesAndShares : Prop :=
  ∀ (s : State) (d : Nat), d < s.dies.length →
  ((s.die d).scyc.toNat / 1024 = (s.die d).m.ticks → exec (.refillTick d) s = .next s) ∧
  ((s.die d).scyc.toNat / 1024 ≠ (s.die d).m.ticks → ∃ t, exec (.refillTick d) s = .next t ∧ (t.die d).m.ticks = (s.die d).scyc.toNat / 1024 ∧
    t.mem = s.mem ∧ (∀ tb c, (s.die d).r.shNext = some (tb, c) → (t.die d).r.shNow = tb ∧ (t.die d).r.capNow = c ∧ (t.die d).r.shstat = 0) ∧
    ∀ i h, s.h? i = some h → h.id.die = d → ∃ h', t.h? i = some h' ∧ h'.th = h.th ∧ h'.dp = h.dp ∧ ∀ e b, (h.ep e).bind = some b →
      (h'.ep e).level = if b.g = true ∧ (h.ep e).live = true then min ((h.ep e).level + b.rate) (max b.rate 64) else (h.ep e).level) ∧
  (∀ i h e b, s.h? i = some h → e < h.eps.length → (h.ep e).bind = some b → b.g = true →
    ((h.ep e).level < 64 → exec (.lineRelease i e) s = .next s) ∧
    ∀ (c id : Nat) (v : Line) (psn : BitVec 16) (s1 : State), regionAt s i c h → (h.ep e).live = true → (h.ep e).gr.out = false → 64 ≤ (h.ep e).level →
      (∃ pl pt, (h.ep e).gr.place = .port c pl pt) → epSite (h.ep e).gr.place = some (c, id) → h.dp.feeds.getD (c * 128 + id) [] = [] →
      (h.ep e).cfgNow = [] → (h.ep e).replay = [] → h.portDue e = .data →
      let pl := portPlace s h b (h.ep e).issued false
      h.reqGoes s c false (some e) pl = true → isWithheld s h { ep := some e } = false → cutOff s h.id.die pl = false → portAsked s h e (h.ep e) = false →
      portJoins s h b c (h.ep e) pl = false → portRead s h b e (h.ep e) = .ok (v, psn, s1) →
      ∃ t h', leaves (exec (.lineRelease i e) s) i t h' ∧ (h'.ep e).level + 64 = (h.ep e).level ∧ (h'.ep e).issued = (h.ep e).issued + 64 ∧
        h'.dp.feeds.getD (c * 128 + id) [] = [lineTok v psn]) ∧
  ((s.die d).r.shstat.getLsbD 63 = false → ∃ t, exec (.shareCommit d 1) s = .next t ∧ t.hold = s.hold ∧ t.mem = s.mem ∧
    (t.die d).r.shNow = (s.die d).r.shNow ∧
    let r := (s.die d).r
    (shareCheck r.shent r.shcap = 0 → (t.die d).r.shstat = 2 ^ 63 ∧ (t.die d).r.shNext = some (r.shent, r.shcap.toNat)) ∧
    (shareCheck r.shent r.shcap ≠ 0 → (t.die d).r.shstat = BitVec.ofNat 64 (shareCheck r.shent r.shcap) ∧ (t.die d).r.shNext = r.shNext)) ∧
  ((s.die d).scyc.toNat / 1024 ≠ (s.die d).m.ticks → ∀ (sl : Nat) (q : SliceReq), exec (.sliceRequest d sl q) s = .next s) ∧
  ∀ (sl : Nat) (q : SliceReq), sl < 16 → (s.die d).m.slices.length = 16 → (s.die d).scyc.toNat / 1024 = (s.die d).m.ticks →
    let x := (s.die d).m.slices.getD sl {}
    let i := tenantOf s d (reqPid s q)
    let wants (j : Nat) : Prop := j < 64 ∧ (∃ p, (j, p) ∈ x.waiting) ∧ 0 < (Slice.tenant s d sl j).level
    let after (j : Nat) : Nat := (j + 63 - x.lastServed) % 64
    (q.turn = false → x.queue.length < 256 → (q.port, i) ∉ x.holds →
      ∃ t, exec (.sliceRequest d sl q) s = .next t ∧ t.hold = s.hold ∧ t.mem = s.mem ∧
        let y := (t.die d).m.slices.getD sl {}
        (Slice.tenant t d sl i).level = (Slice.tenant s d sl i).level ∧ (Slice.tenant t d sl i).arr = true ∧ (Slice.tenant t d sl i).red = reqRed s q ∧
        y.served = x.served ∧
        (0 < (Slice.tenant s d sl i).level → y.waiting = x.waiting ++ [(i, q.port)] ∧ y.queue = x.queue ∧ y.holds = x.holds) ∧
        ((Slice.tenant s d sl i).level = 0 → y.queue = x.queue ++ [(i, q.port)] ∧ y.holds = x.holds ++ [(q.port, i)] ∧ y.waiting = x.waiting)) ∧
    (q.turn = true → (∀ j, ¬ wants j) ∨ (∃ e ∈ x.queue, 0 < (Slice.tenant s d sl e.1).level) → exec (.sliceRequest d sl q) s = .next s) ∧
    ∀ j, q.turn = true → (∀ e ∈ x.queue, (Slice.tenant s d sl e.1).level = 0) → x.lastServed < 64 → wants j → (∀ k, wants k → after j ≤ after k) →
      ∃ t, exec (.sliceRequest d sl q) s = .next t ∧ t.hold = s.hold ∧ t.mem = s.mem ∧
        let y := (t.die d).m.slices.getD sl {}
        (Slice.tenant t d sl j).level + 1 = (Slice.tenant s d sl j).level ∧ y.served = x.served + 1 ∧ y.lastServed = j ∧
        (1 < (Slice.tenant s d sl j).level → y.queue = x.queue ∧ ∃ p, (j, p) ∈ x.waiting ∧ y.waiting = x.waiting.erase (j, p) ∧ y.grants = x.grants ++ [(j, p)])

/-- R312, R313, R314, R317, R318: the head gives a store the chain's next version, writes its line and, with a second link, holds it
dirty and forwards it; a link takes the next forwarded line once its buffer has room: a middle link holds it dirty and passes it on, and
at the tail the stores it came from are done and the link before is told; an acknowledgement
frees its entry and goes on to the link before; a failed link stalls its chain; once every line has been copied a candidate is the
tail. -/
def Sys2Proof.Clause.ChainLinksMoveLines : Prop :=
  ∀ (s : State) (ch : Nat), let c := s.chain ch
  (∀ (d : Nat) (x : Pending) (l2 : List Pending), d < s.dies.length → (s.die d).m.pend = x :: l2 → x.ch = some ch → x.ver = none → x.op = .store →
    c.running = true → firstOfLine s x = true → inOrder s x = true → 2 ≤ c.links.length → c.cellar = false → (c.link 0).dirty.length < 4096 →
    reaches s d (c.link 0).die = true →
    inCellar ((c.link 0).pb + x.line) = false →
    (c.link 0).pb % 64 = 0 → x.line % 64 = 0 → Memory.wf s.mem.bytes = true →
    ∃ t, exec (.chainStoreHead d 0) s = .next t ∧ (t.chain ch).seq = c.seq + 1 ∧ t.hold = s.hold ∧
      memGetN t.mem.bytes ((c.link 0).pb + x.line) 64 = (lineMerge (s.physLine ((c.link 0).pb + x.line)) x.val x.mask).toNat ∧
      (∃ e, (t.chain ch).link 1 = { c.link 1 with fwd := (c.link 1).fwd ++ [e] } ∧ e.line = x.line / 64 ∧ e.ver = c.seq + 1) ∧
      ∃ e ∈ ((t.chain ch).link 0).dirty, e.line = x.line / 64 ∧ e.ver = c.seq + 1) ∧
  (∀ k f rest, k ≠ 0 → k + 1 < c.links.length → (c.link k).fwd = f :: rest → (c.link k).failed = false →
    c.roomAt s k f.line 1 = true → (∀ e ∈ (c.link k).dirty, e.line ≠ f.line) →
    ∃ t, exec (.chainForward ch k) s = .next t ∧ ((t.chain ch).link k).fwd = rest ∧ t.hold = s.hold ∧
      ((t.chain ch).link (k + 1)).fwd = (c.link (k + 1)).fwd ++ [f] ∧ ⟨f.line, f.ver, f.val, f.psn⟩ ∈ ((t.chain ch).link k).dirty) ∧
  (∀ k f rest, k + 2 = c.links.length → (c.link (k + 1)).fwd = f :: rest → (c.link (k + 1)).failed = false → c.cellar = false → c.cand = none →
    c.roomAt s (k + 1) f.line 1 = true →
    ∃ t, exec (.chainForward ch (k + 1)) s = .next t ∧ ((t.chain ch).link (k + 1)).fwd = rest ∧
      ((t.chain ch).link k).acks = (c.link k).acks ++ [f.ver] ∧
      ∀ x, x ∈ (s.die x.die).m.pend → x.ch = some ch → x.line / 64 = f.line → (∃ v, x.ver = some v ∧ v ≤ f.ver) → x ∉ (t.die x.die).m.pend) ∧
  (∀ k v rest, k < c.links.length → (c.link k).acks = v :: rest →
    ∃ t, exec (.chainAck ch k) s = .next t ∧ t.hold = s.hold ∧ t.mem = s.mem ∧ ((t.chain ch).link k).acks = rest ∧
      (∀ e, e ∈ ((t.chain ch).link k).dirty ↔ e ∈ (c.link k).dirty ∧ e.ver ≠ v) ∧
      (k ≠ 0 → ((t.chain ch).link (k - 1)).acks = (c.link (k - 1)).acks ++ [v])) ∧
  (∀ d k, c.st ≠ .free → c.st ≠ .orphan → c.linkOn d = some k → k < c.links.length → (c.link k).failed = false →
    ∃ t, exec (.chainfail ch d) s = .next t ∧ (t.chain ch).st = .stalled ∧ ((t.chain ch).link k).failed = true ∧ t.hold = s.hold) ∧
  (∀ l, c.cand = some l → c.st = .catchup → c.cellar = false → (∀ x ∈ c.links ++ [l], x.failed = false) →
    (c.prog < 64 → ∃ t, exec (.chainHandover ch) s = .next t ∧ (t.chain ch).prog = c.prog + 1 ∧ (t.chain ch).links = c.links ∧ t.hold = s.hold) ∧
    (64 ≤ c.prog → ∃ t, exec (.chainHandover ch) s = .next t ∧ t.hold = s.hold ∧ t.mem = s.mem ∧
      (t.chain ch).links = c.links ++ [l] ∧ (t.chain ch).cand = none ∧ (t.chain ch).st = .active ∧ (t.chain ch).epoch = c.epoch + 1))

/-- R323, R325, R445, R446: a durable store whose epoch is ready enters its die's persist buffer, or its stack while HUOK is 0, and is
pending no more; a store waits for an earlier one of its line, for the epochs below its own, for a way to its die, and for room in the
buffer; a buffer's first line leaves it for its stack, every other line of the stack staying. -/
def Sys2Proof.Clause.DurableStoresAndBuffers : Prop :=
  ∀ (s : State) (d : Nat), d < s.dies.length →
  (∀ (x : Pending) (l2 : List Pending), (s.die d).m.pend = x :: l2 → x.ch = none →
    pbRoom s x.line 1 = false ∨ firstOfLine s x = false ∨ epochReady s x = false ∨ reaches s x.die (dieOfPa x.line) = false → exec (.durableAccept d 0) s = .next s) ∧
  (∀ (x : Pending) (l2 : List Pending), (s.die d).m.pend = x :: l2 → x.ch = none → firstOfLine s x = true → x.op = .store → x.agent = .host → x.die = d → reaches s d (dieOfPa x.line) = true → x.line % 64 = 0 →
    (∀ y ∈ l2, y.id ≠ x.id) → inCellar x.line = true → inBacking s x.line = false → s.dies.length = 4 →
    (s.host.huok = true → (s.die (dieOfPa x.line)).m.pb.length < pbLines → ∃ t, exec (.durableAccept d 0) s = .next t ∧ t.hold = s.hold ∧
      (t.die d).m.pend = l2 ∧ t.mem = s.mem ∧
      ∃ l, t.pbLine? x.line = some l ∧ l.val = lineMerge (s.physLine x.line) x.val x.mask) ∧
    (s.host.huok = false → Memory.wf s.mem.bytes = true → s.pbLine? x.line = none → ∃ t, exec (.durableAccept d 0) s = .next t ∧ t.hold = s.hold ∧
      (t.die d).m.pend = l2 ∧ memGetN t.mem.bytes x.line 64 = (lineMerge (s.physLine x.line) x.val x.mask).toNat)) ∧
  ∀ k l rest, (s.die d).m.pb = (k, l) :: rest → Memory.wf s.mem.bytes = true →
    ∃ t, exec (.persistBufferDrain d) s = .next t ∧ (t.die d).m.pb = rest ∧ memGetN t.mem.bytes (64 * k) 64 = l.val.toNat ∧ t.hold = s.hold ∧
      ∀ a, (a < 64 * k ∨ 64 * k + 64 ≤ a) → memGet t.mem.bytes a = memGet s.mem.bytes a

/-- R312 to R325: the store path of chains, and the persist domain. -/
def Obligations.ChainsAndDurableStores : Prop := Clause.ChainLinksMoveLines ∧ Clause.DurableStoresAndBuffers

/-! ## Placement, gangs and tasks -/

/-- R104 to R106, R336, R341, R425, R384: a callee whose image passes its checks is placed, linked to its caller on port 15 with its
arguments, and the CALL ends with status 0; a failed check ends it with 6 and the cause. A mapping that fails is kept with its cause for
those that wait, an entry that no longer has the requested key, or a GRAPH or CODE that cannot be read, as 9 with 0xFFFF (log 42); one that
succeeds writes the image, leaving out what cannot be reached (log 28), fills an entry of the die's Shape Cache, whose USE and LAST stay,
and is done. A restored region is checked as its CONFIG streams, and placed with the cells of its image, with no translation held. -/
def Sys2Proof.Clause.LoadsMappingsAndRestores : Prop :=
  ∀ (s : State),
  (∀ (i : Nat) (h c : Holder) (dr : Nat), s.h? i = some h → h.id.inst = i → h.id.life = .loading → h.id.kind = .callee →
    s.h? h.id.parent = some c → h.id.parent ≠ i → c.th.wait = .call dr h.id.callerPort i → dr < 32 → h.id.callerPort < c.ports.length → h.ports.length = 16 →
    loadWaits s h = false →
    (∀ g, loadHolder (shapeUse s h false) h h.fn.image h.eps = .ok g →
      ∃ t h' c', leaves (exec (.imageLoad i) s) i t h' ∧ t.h? h.id.parent = some c' ∧ h'.id.life = .placed ∧ h'.th = threadOf g.th.code h.fn.args ∧
        (h'.port 15).st = .parent ∧ (h'.port 15).peer = h.id.parent ∧ (c'.port h.id.callerPort).st = .child ∧ (c'.port h.id.callerPort).peer = i ∧
        wrote false (Fin.ofNat 32 dr) (ofN (i * 2 ^ 32)) c.th c'.th ∧ c'.th.wait = .none ∧ passed c.th c'.th (c.th.pc + 1)) ∧
    (∀ r, loadHolder (shapeUse s h false) h h.fn.image h.eps = .error r →
      exec (.imageLoad i) s = .next (removeHolder (completeCall (postLoad (shapeUse s h false) h.id.pid h.id r) h.id.parent i (ofN (6 + 256 * r.cause))) h))) ∧
  (∀ d m e l, d < s.dies.length → (s.die d).p.maps = m :: l → m.fail = none → m ∉ l → ftWaits s m.pid d m.fidx = false → readFt s m.pid d m.fidx = .ok e →
    let failed (r : Nat × Nat) : Prop := ∃ t, exec (.mappingComplete d) s = .next t ∧
      (t.die d).p.maps = { m with fail := some r } :: l ∧ (t.die d).p.shapes = (s.die d).p.shapes ∧ t.hold = s.hold ∧ t.mem = s.mem
    (BitVec.ofNat 384 e.digest ≠ m.digest ∨ e.cls ≠ m.cls → failed (9, 0xFFFF)) ∧
    (BitVec.ofNat 384 e.digest = m.digest → e.cls = m.cls →
    vaWaits s m.pid d e.graph e.gsize = false → vaWaits s m.pid d e.code (4 * e.ncode) = false →
    (readBytes s m.pid d e.graph e.gsize = none ∨ readItems s m.pid d e.code 4 e.ncode = none → failed (9, 0xFFFF)) ∧
    ∀ b code, readBytes s m.pid d e.graph e.gsize = some b → readItems s m.pid d e.code 4 e.ncode = some code →
      let key := mapKey m e d
      let eps := graphEps e.cls b key
      (∀ r, graphFail e b key = some r → failed r) ∧
      (graphFail e b key = none → mapPlacement e (graphOf e.cls b) eps key = none → failed (13, 0xFFFF)) ∧
      ∀ raw edges, graphFail e b key = none → mapPlacement e (graphOf e.cls b) eps key = some (raw, edges) →
        ((s.die d).p.shapes.length < 1024 ∨ ∃ x ∈ (s.die d).p.shapes, x.valid = false ∨ x.use = 0) →
        let u := writeBytes s m.pid (e.image + d * 2 ^ 22) (imageOf e raw code edges)
        ∃ t x k, exec (.mappingComplete d) s = .next t ∧ (t.die d).p.maps = l ∧ t.hold = u.hold ∧ t.mem = u.mem ∧
          (t.die d).p.shapes[k]? = some x ∧ x.is m.pid m.cls m.digest = true ∧ x.img = e.image + d * 2 ^ 22 ∧ x.eps = eps ∧
          x.use = ((s.die d).p.shapes.getD k {}).use ∧ x.last = ((s.die d).p.shapes.getD k {}).last)) ∧
  ∀ i h, s.h? i = some h → h.id.life = .restoring → let g := configBack s h
    (∀ r, loadCheck g (g.dp.cfg.map frameNum) [] = some r → exec (.restore i) s = .next (killRegion s g rLOAD (r.cellOf h.id))) ∧
    (loadCheck g (g.dp.cfg.map frameNum) [] = none → (∀ e b, (h.ep e).bind = some b → b.g = false) →
    let cs := if h.saved.frames = [] then h.dp.cells else imageCells s g
    ∃ t h', leaves (exec (.restore i) s) i t h' ∧ h'.id.life = .placed ∧ h'.th = g.th ∧ h'.dp.cfg = g.dp.cfg ∧ h'.ev.draining = false ∧ h'.ev.rackBy = none ∧
      (h.saved.frames = [] → h.saved.foldFrames = [] → t.mem = s.mem) ∧ h'.dp.cells.length = cs.length ∧
      ∀ c < cs.length, (h'.cell c).xlat = {} ∧ (h'.cell c).links = (cs.getD c {}).links ∧ (h'.cell c).pipes = (cs.getD c {}).pipes)

/-- R333, R343, R345, R346: the first request that fits leaves the placement queue, counting a pass over the head; once the head has been
passed over 64 times later requests wait. A FREE cell of a waiting gang's plan becomes RESERVED for it, and a gang whose every planned
cell is reserved for it is placed. -/
def Sys2Proof.Clause.PlacementQueueAndGangs : Prop :=
  ∀ (s : State) (d : Nat), d < s.dies.length →
  (∀ l1 l2 r, (s.die d).p.queue = l1 ++ r :: l2 → (l1 ≠ [] → (s.die d).p.headBlock = false ∧ (s.die d).p.passed < 64) →
    (∀ x ∈ l1, reqFits s d x = false) → reqFits s d r = true → exec (.placementQueueServe d) s = .next (serveReq (s.modP d fun p => { p with
      queue := l1 ++ l2, passed := if l1 = [] then 0 else p.passed + 1, headBlock := if l1 = [] then false else p.headBlock }) d r)) ∧
  (∀ r l, (s.die d).p.queue = r :: l → 64 ≤ (s.die d).p.passed → reqFits s d r = false → blockedOn s d (fun _ => true) = [] →
    exec (.placementQueueServe d) s = .next s) ∧
  ((s.die d).p.queue ≠ [] → ∃ t, exec (.placementHeadBlock d) s = .next t ∧ t.hold = s.hold ∧ t.mem = s.mem ∧ (t.die d).p.queue = (s.die d).p.queue ∧
    ((t.die d).p.headBlock = true ↔ 64 ≤ (s.die d).p.passed ∨ (s.die d).p.headBlock = true)) ∧
  (∀ cell n g, cell < 512 → wantedBy s d cell = some (n, g) → (s.area d cell).state = 0 →
    ∃ t, exec (.gangReserve d cell) s = .next t ∧ t.hold = s.hold ∧ t.mem = s.mem ∧ (t.area d cell).state = 3 ∧ (t.area d cell).owner = n ∧
      (t.area d cell).pid = g.pid ∧ ∀ x ≠ cell, t.area d x = s.area d x) ∧
  (∀ n g, s.pkg.gangs.find n = some g → g.placed = false →
    (∀ x ∈ planCells s g, (s.area x.1 x.2).state = 3 ∧ (s.area x.1 x.2).owner = n) → (g.members.zip g.plan) ≠ [] →
    ∃ t g', exec (.gangPlace n) s = .next t ∧ t.pkg.gangs.find n = some g' ∧ g'.placed = true ∧ g'.members = g.members ∧
      t = (g.members.zip g.plan).foldl (fun u x =>
          if g.restoring then restoreOn u x.1 x.2.1 x.2.2.1 x.2.2.2 else startLoad u x.1 x.2.1 x.2.2.1 x.2.2.2)
        (s.modPkg fun p => { p with gangs := p.gangs.modify n fun g => { g with placed := true, restoring := false, plan := [] } }))

/-- R104 to R106, R113, R333 to R346, R425: images are mapped and reach their regions. -/
def Obligations.LoadsAndPlacement : Prop := Clause.LoadsMappingsAndRestores ∧ Clause.PlacementQueueAndGangs

/-- R381, R382, R383, R384, R385, R389: the first entry in dispatch order that can start leaves the pool, and a normal task with no idle
region of its function takes free cells, with its PRED reloaded and STATE RUN, and loads; every entry left behind, or all of them when
nothing can start, ages by 1, up to 4,096; an entry at 4,096 rises one
level, or from level 7 joins the placement queue. A ring's head moves to the pool; a ring found usable again is forgotten. A task
whose thread has halted with RUN 0 ends once its successors are released, each after the one before it, and its region stays idle. -/
def Obligations.TasksMoveOn : Prop :=
  ∀ (s : State) (d : Nat), d < s.dies.length →
  (let older (l : List PoolEnt) : List PoolEnt := l.map fun x => { x with age := min (x.age + 1) 4096 }
   let order := (s.die d).p.pool.foldl (fun l x => insertEnt x l) []
   (s.die d).p.nodes = [] →
   ((∀ x ∈ (s.die d).p.pool, dispatchFresh s x.pid x.tcb d = none) → ∃ t, exec (.dispatchDecision d) s = .next t ∧ t.hold = s.hold ∧ t.mem = s.mem ∧
     (t.die d).p.pool = older (s.die d).p.pool) ∧
   ∀ l1 x l2, order = l1 ++ x :: l2 → (∀ y ∈ l1, dispatchFresh s y.pid y.tcb d = none) → (dispatchFresh s x.pid x.tcb d).isSome = true →
     let s1 := s.modP d fun p => { p with pool := older (p.pool.erase x) }
     (∀ u, dispatchFresh s1 x.pid x.tcb d = some u → exec (.dispatchDecision d) s = .next u) ∧
     ∀ pa v e c r, tcbRead s1 x.pid x.tcb = some (pa, v, s1) → tcbKind v = 0 → queueLeaves s1 d = true → ftWaits s1 x.pid d (tcbFidx v) = false →
       readFt s1 x.pid d (tcbFidx v) = .ok e → taskWaits s1 x.pid d x.tcb e.nargs = false → idleMatch s1 d x.pid e = none →
       scanDie s1 d e.w e.h (fun a => a.state == 0 && a.meets e.cls) = some (c, r) →
       ∃ t h, exec (.dispatchDecision d) s = .next t ∧ t.h? s1.newInst.1 = some h ∧ h.id.life = .loading ∧ h.id.kind = .task ∧ h.fn.tcb = x.tcb ∧
         h.id.pid = x.pid ∧ h.id.die = d ∧ h.id.col = c ∧ h.id.row = r ∧ t.mem = (takeRun s1 pa v).mem ∧
         (t.die d).p.pool = older ((s.die d).p.pool.erase x)) ∧
  (∀ l1 x l2, (s.die d).p.pool = l1 ++ x :: l2 → x ∉ l1 → 4096 ≤ x.age →
    ∃ t, exec (.taskAgeing d l1.length) s = .next t ∧ t.hold = s.hold ∧ t.mem = s.mem ∧
      (x.prio < 7 → (t.die d).p.pool = l1 ++ l2 ++ [{ x with prio := x.prio + 1, age := 0, seq := ((s.die d).p.poolSeq + 1).toNat }] ∧
        (t.die d).p.queue = (s.die d).p.queue) ∧
      (7 ≤ x.prio → (t.die d).p.pool = l1 ++ l2 ∧ (t.die d).p.queue = (s.die d).p.queue ++ [.task x.pid x.tcb x.prio x.seq])) ∧
  (∀ pid b l hd tl e, ovRing s pid d = some (b, l, hd, tl) → (s.die d).p.pool.length < 4096 → ringNext s d = some pid →
    word64 s pid (b + 8 * (hd % 2 ^ l)) = some e →
    ∃ t x, exec (.overflowAdvance d pid) s = .next t ∧ (t.die d).p.pool = (s.die d).p.pool ++ [x] ∧ x.tcb = e / 64 % 2 ^ 42 * 64 ∧ x.prio = e % 8 ∧
      x.pid = pid ∧ x.age = 0 ∧ (t.die d).p.ringTurn = pid ∧ t.hold = s.hold) ∧
  (∀ pid c l1 l2, (s.die d).p.badRings = l1 ++ (pid, c) :: l2 → (∀ x ∈ l1, x.1 ≠ pid) → c ≤ s.now d →
    ∃ t, exec (.overflowRingRetry d pid) s = .next t ∧ t.hold = s.hold ∧ t.mem = s.mem ∧
      (ovRing s pid d ≠ none → (t.die d).p.badRings = l1 ++ l2) ∧
      (ovRing s pid d = none → (t.die d).p.badRings = l1 ++ l2 ++ [(pid, s.now d + 600)])) ∧
  ∀ i h pa v, s.h? i = some h → h.id.inst = i → h.id.kind = .task → h.id.life = .placed → h.th.halted = true → h.th.sys.run = false →
    h.ev.draining = false → h.ev.rackBy = none → (h.ev.released = 0 → allAccepted s h = true) → tcbRead s h.id.pid h.fn.tcb = some (pa, v, s) →
    (tcbNsucc v = 0 → (h.ev.released = 0 ∨ s.storeOpen h.agent = false) → ∃ h1, (rearm s h.id.pid h.fn.tcb).h? i = some h1 ∧ exec (.taskEnd i) s = .next (idleTask (rearm s h.id.pid h.fn.tcb) h1)) ∧
    ∀ k s2, releaseFrom h.id.pid h.id.die h.agent (tcbSucc v) (tcbNsucc v - h.ev.released) h.ev.released s = (k, s2) →
      (k < tcbNsucc v ∨ (0 < k ∧ s2.storeOpen h.agent = true) → exec (.taskEnd i) s = .next (s2.modH i fun h => { h with ev := { h.ev with released := k } })) ∧
      (tcbNsucc v ≤ k → (k = 0 ∨ s2.storeOpen h.agent = false) → ∀ h1, (rearm s2 h.id.pid h.fn.tcb).h? i = some h1 → exec (.taskEnd i) s = .next (idleTask (rearm s2 h.id.pid h.fn.tcb) h1))

/-! ## The outside -/

/-- R437, R438, R439 (the numbering of the BARs is log 18): a host write of bytes of HBM changes those bytes alone and a host read
returns them; a request to a range that R290 leaves unassigned is not supported and changes nothing; a write into a notify page is
WIDX; a write of a command register is that command, but one of ACMD while it is BUSY is ignored (log 42), and of any other offset the
register's. Where the host's ingress position stands is logs 35 and 43. -/
def Sys2Proof.Clause.HostRequests : Prop :=
  ∀ (s : State),
  (∀ (pa len : Nat) (v : W64), 0 < len → len ≤ 8 → pa % 64 + len ≤ 64 → pa + len ≤ 2 ^ 42 → bar4Ok pa len = true →
    let p : Place := ⟨1, normPa pa, 0⟩
    inCellar p.addr = false → (∀ i < len, inBacking s (p.addr + i) = false) → Memory.wf s.mem.bytes = true →
    (iposAt (completed s true) p.addr = false → iposAt (completed s true) (normPa (pa + len - 1)) = false →
      ∃ t, exec (.hostWrite pa len v) s = .next t ∧ t.hold = s.hold ∧ t.host.unsupported = false ∧ readN t p len = v.toNat % 256 ^ len ∧ storedOnly s t p len) ∧
    ∃ t, exec (.hostRead pa len) s = .next t ∧ t.hold = s.hold ∧ t.mem = s.mem ∧ t.host.unsupported = false ∧ t.host.readData = some (readN s p len)) ∧
  (∀ (pa len : Nat) (v : W64), 0 < len → len ≤ 8 → (0xC000000000 ≤ pa ∧ pa + len ≤ 0x10000000000 ∨ 0x1C000000000 ≤ pa ∧ pa + len ≤ 0x20000000000) →
    (∃ t, exec (.hostWrite pa len v) s = .next t ∧ t.host.unsupported = true ∧ t.mem = s.mem ∧ t.hold = s.hold ∧ t.dies = s.dies) ∧
    ∃ t, exec (.hostRead pa len) s = .next t ∧ t.host.unsupported = true ∧ t.host.readData = none ∧ t.mem = s.mem ∧ t.hold = s.hold ∧ t.dies = s.dies) ∧
  (∀ d page off len (v : W64), d < 4 → page < 4096 → off < 4096 → (len = 4 ∨ len = 8) → off % len = 0 →
    exec (.hostWrite (2 ^ 42 + s.host.podid.toNat % 2 ^ 11 * 2 ^ 26 + d * 2 ^ 24 + page * 2 ^ 12 + off) len v) s =
      exec (.widx d page off len v) (completed s true)) ∧
  ∀ d (v : W64), d < 4 →
    let put (off : Nat) : Out := exec (.hostWrite (2 ^ 43 + d * 2 ^ 24 + off) 8 v) s
    let does (i : Instr) : Out := exec i (completed s true)
    ((s.die d).q.astat.getLsbD 63 = true → put 0x8 = .next (completed s true)) ∧
    ((s.die d).q.astat.getLsbD 63 = false → put 0x8 = does (if v = 1 then .ctxset d else if v = 2 then .qcreate d else if v = 3 then .qdestroy d else if v = 4 then .qstart d
      else if v = 5 then .patch d else .acmdUnassigned d v)) ∧
    put 0x10010 = does (.xinv d v) ∧ put 0x30208 = does (.shareCommit d v) ∧
    (v.toNat % 256 = 1 → put 0x20008 = does (.rack d)) ∧ (v.toNat % 256 = 2 → put 0x20008 = does (.resume d)) ∧
    (v.toNat % 256 = 3 → put 0x20008 = does (.discard d)) ∧
    (d = 0 → put 0x40000 = does (.podid v) ∧ put 0x40008 = does (.devevt v) ∧ put 0x40010 = does (.plim v) ∧ put 0x60008 = does (.lcreq v) ∧
      put 0x60040 = does (.svnraise v) ∧ put 0x60180 = does (.atcmd v)) ∧
    ∀ off < 2 ^ 24, off % 8 = 0 → off ∉ [0x8, 0x10010, 0x20008, 0x30208, 0x40000, 0x40008, 0x40010, 0x60008, 0x60040, 0x60180] →
      put off = does (.registerWrite d off v)

/-- R438, R295, R440, R441, R447, R448: a register reads as written, and an interrupt-map word with its bits 63, 47:32 and 5:0 alone; PODID
takes its first write, whatever its value (the model's reading, log 34); PLIM takes 600 to 1,800; FSVN rises no
higher than the patch in force; DEVEVT's bits are cleared by ones, and a change raises vector 0; an ingress position only advances, and its value stands beside memory (the model's, logs 35 and 43). -/
def Sys2Proof.Clause.HostRegisters : Prop :=
  ∀ (s : State) (v : W64), s.dies.length = 4 →
  (∀ d off, d < 4 → (off = 0 ∨ off = 0x10000 ∨ off = 0x10008 ∨ off = 0x20000 ∨ (0x30000 ≤ off ∧ off ≤ 0x30200 ∧ off % 8 = 0) ∨
      (d = 0 ∧ 0x70000 ≤ off ∧ off < 0x70400 ∧ off % 8 = 0)) →
    ∃ t, exec (.registerWrite d off v) s = .next t ∧ regRead t d off = v.toNat ∧ t.hold = s.hold ∧ t.mem = s.mem) ∧
  (∀ off, 0x50000 ≤ off → off < 0x50800 → off % 8 = 0 →
    ∃ t, exec (.registerWrite 0 off v) s = .next t ∧ regRead t 0 off = (v &&& 0x8000FFFF0000003F).toNat ∧ t.hold = s.hold ∧ t.mem = s.mem) ∧
  (∃ t, exec (.podid v) s = .next t ∧ t.hold = s.hold ∧ t.mem = s.mem ∧
    (s.host.podid.getLsbD 63 = true → t.host.podid = s.host.podid) ∧
    (s.host.podid.getLsbD 63 = false → t.host.podid.getLsbD 63 = true ∧ t.host.podid.toNat % 2 ^ 11 = v.toNat % 2 ^ 11)) ∧
  (∃ t, exec (.plim v) s = .next t ∧ t.hold = s.hold ∧ t.mem = s.mem ∧
    t.host.plim = if 600 ≤ v.toNat ∧ v.toNat ≤ 1800 then v else s.host.plim) ∧
  (∃ t, exec (.svnraise v) s = .next t ∧ t.hold = s.hold ∧ t.mem = s.mem ∧
    t.host.fsvn = if (s.die 0).q.patchImg ≠ [] ∧ s.host.fsvn ≤ v.toNat ∧ v.toNat ≤ (s.die 0).q.patchSvn then v.toNat else s.host.fsvn) ∧
  (∃ t, exec (.devevt v) s = .next t ∧ t.hold = s.hold ∧ t.mem = s.mem ∧
    (∀ k < 64, t.host.devevt.getLsbD k = (s.host.devevt.getLsbD k && !v.getLsbD k)) ∧
    (t.host.devevt ≠ s.host.devevt → t.host.pending.getLsbD 0 = true) ∧ (t.host.devevt = s.host.devevt → t.host.pending = s.host.pending)) ∧
  ∀ pid hh pa, hbmAt s pid (iposVa (hh % 256)) false = some pa → ingress s pid (hh % 256) = true → pa % 8 = 0 → inCellar pa = false →
    inBacking s pa = false →
    Memory.wf s.mem.bytes = true →
    let p : Place := ⟨1, pa, 0⟩
    let delta := (v.toNat + 2 ^ 64 - iposOf s pa % 2 ^ 64) % 2 ^ 64
    (0 < delta ∧ delta ≤ 2 ^ 63 → ∃ t, exec (.ipos pid hh v) s = .next t ∧ t.hold = s.hold ∧ readN t p 8 = v.toNat ∧ iposOf t pa = v.toNat ∧ storedOnly s t p 8) ∧
    (¬ (0 < delta ∧ delta ≤ 2 ^ 63) → exec (.ipos pid hh v) s = .next s)

/-- R437 to R441, R447, R448: what the host port reaches. -/
def Obligations.HostPort : Prop := Clause.HostRequests ∧ Clause.HostRegisters

/-- What every reset leaves (R332, R333, R397, R448): no holder, every die's tables, counters and patch RAM as at reset, the COND of each cell
kept, scratchpads and HBM wiped, no chain of HBM kind, fuses kept. That host memory, HUOK and the agenda are kept is the model's (log 38). -/
def Sys2Proof.bootedFrom (s t : State) : Prop :=
  t.hold = [] ∧ t.mem.scratch = [] ∧ t.mem.scratchPoison = [] ∧ t.mem.host = s.mem.host ∧ t.host.fsvn = s.host.fsvn ∧ t.host.huok = s.host.huok ∧
  t.host.stopped = false ∧ t.host.podid = 0 ∧ t.host.plim = 1800 ∧ t.agenda = s.agenda ∧
  (∀ a, inCellar a = false → memGet t.mem.bytes a = 0) ∧
  (∀ ch, (t.chain ch).st = .free ∨ ((t.chain ch).st = .orphan ∧ (t.chain ch).cellar = true)) ∧
  ∀ d, (t.die d).fcyc = 0 ∧ (t.die d).scyc = 0 ∧ (t.die d).q = {} ∧ { (t.die d).p with area := [] } = {} ∧
    (∀ c, t.area d c = { cond := (s.area d c).cond }) ∧ (t.die d).r = {} ∧ (t.die d).m.pb = [] ∧ (t.die d).m.pend = []

/-- R328, R332, R333, R445, R446, R447, R448 (what a reset leaves of the outside is log 38): PWRFAIL empties every persist buffer and stops the package; a fall of HUOK empties them and sets
DEVEVT bit 2; a rise ends that; a warning gates firings, with bits 3 and 4, until it ends; a reset and a thermal trip boot the
package, and the Cellar stacks keep their bytes. -/
def Sys2Proof.Clause.PowerAndReset : Prop :=
  ∀ (s : State), s.dies.length = 4 →
  (∃ t, exec .pwrfail s = .next t ∧ t.host.stopped = true ∧ t.hold = s.hold ∧ ∀ d, (t.die d).m.pb = []) ∧
  (s.host.huok = true → ∃ t, exec .huokFall s = .next t ∧ t.host.huok = false ∧ t.host.devevt.getLsbD 2 = true ∧ t.hold = s.hold ∧ ∀ d, (t.die d).m.pb = []) ∧
  (∃ t, exec .huokRise s = .next t ∧ t.host.huok = true ∧ t.hold = s.hold ∧ t.mem = s.mem ∧ t.dies = s.dies) ∧
  (∀ hot, ∃ t, exec (.thermalWarning hot) s = .next t ∧ t.host.throttle = true ∧ t.host.devevt.getLsbD 3 = true ∧
    (hot = false → t.host.devevt.getLsbD 4 = true) ∧ t.hold = s.hold ∧ t.mem = s.mem ∧ t.dies = s.dies) ∧
  (s.host.throttle = true → ∃ t, exec .throttleEnd s = .next t ∧ t.host.throttle = false ∧ t.hold = s.hold ∧ t.mem = s.mem ∧ t.dies = s.dies) ∧
  (∃ t, exec .reset s = .next t ∧ bootedFrom s t ∧ t.host.lifeCycle = s.host.lifeCycle ∧
    ((∀ d, (s.die d).m.pb = []) → ∀ a, inCellar a = true → memGet t.mem.bytes a = memGet s.mem.bytes a)) ∧
  ∃ t, exec .thermalTrip s = .next t ∧ bootedFrom s t ∧ t.host.lifeCycle = s.host.lifeCycle ∧
    ((∀ d, (s.die d).m.pb = []) → ∀ a, inCellar a = true → memGet t.mem.bytes a = memGet s.mem.bytes a)

/-- R449, R450, R336: LCREQ refuses a token that names no target with 3, a transition the table does not have with 2 and a required
signature that fails with 1, in this order (the model's, log 36); an accepted one resets the package in its new state, the Cellar wiped too on entry to RMA or DECOM. ATCMD
starts a report, and one that is being made refuses another (log 36); the report ends BUSY. The Shape Cache entries of a process that ends become invalid. -/
def Sys2Proof.Clause.LifeCycleAndAttestation : Prop :=
  ∀ (s : State), s.dies.length = 4 →
  (let token := tokenBytes s
   let refused (e : W64) : Prop := ∃ t, exec (.lcreq 1) s = .next t ∧ t.host.lcstat = e ∧ t.hold = s.hold ∧ t.mem = s.mem ∧ t.host.lifeCycle = s.host.lifeCycle
   (Config.tokenTarget token = none → refused 3) ∧
   ∀ b, Config.tokenTarget token = some b →
     let pair := (s.host.lifeCycle, b)
     let allowed := b = 4 ∨ pair ∈ [(0, 1), (1, 2), (2, 3), (3, 1)]
     let signed := b ≠ 4 ∧ pair ∈ [(0, 1), (2, 3), (3, 1)]
     let verified := sigOk 1 (Config.tokenSigned token) (token.drop 160) = true
     (¬ allowed → refused 2) ∧ (allowed → signed → ¬ verified → refused 1) ∧
     (allowed → (signed → verified) → ∃ t, exec (.lcreq 1) s = .next t ∧ bootedFrom s t ∧ t.host.lifeCycle = b ∧ t.host.lcstat = 0 ∧
       (b = 3 ∨ b = 4 → t.mem.bytes = []))) ∧
  (s.host.atstat.getLsbD 63 = false → ∃ t, exec (.atcmd 1) s = .next t ∧ t.host.atstat = 2 ^ 63 ∧ t.host.report = s.host.report ∧ t.hold = s.hold) ∧
  (s.host.atstat.getLsbD 63 = true → (∃ t, exec (.atcmd 1) s = .next t ∧ t.host.atstat = 2 ^ 63 + 1 ∧ t.host.report = s.host.report ∧ t.hold = s.hold) ∧
    ∃ t, exec .attestationComplete s = .next t ∧ t.host.atstat = 0 ∧ t.host.report = attestation s ∧ t.hold = s.hold ∧ t.mem = s.mem) ∧
  ∀ pid, (∀ e ∈ s.hold, e.2.id.pid = pid → e.2.id.kind ≠ .named) → ∃ t, exec (.processEnd pid) s = .next t ∧ t.hold = s.hold ∧ t.mem = s.mem ∧
    ∀ d, (t.die d).p.shapes = (s.die d).p.shapes.map fun x => { x with valid := decide (x.pid ≠ pid) && x.valid }

/-- R328 to R332, R445 to R450: power, reset, life-cycle and attestation. -/
def Obligations.PowerResetAndLifeCycle : Prop := Clause.PowerAndReset ∧ Clause.LifeCycleAndAttestation

/-- R323, R328, R445: a loss of power loses no line of the Cellar tier that a persist buffer had accepted: every line of the stacks reads
afterwards as it read, through the buffers, before. In a state whose buffers hold lines of their own die's stack, in rising order. -/
def Obligations.PowerLossKeepsAcceptedLines : Prop :=
  ∀ (s t : State), s.dies.length = 4 → Memory.wf s.mem.bytes = true →
    (∀ d, Tbl.risingFrom 0 (s.die d).m.pb = true ∧ ∀ x ∈ (s.die d).m.pb, inCellar (64 * x.1) = true ∧ dieOfPa (64 * x.1) = d) →
    exec .pwrfail s = .next t → ∀ pa, t.physLine pa = s.physLine pa

/-! ## Steps, encodings and the state -/

/-- The outcome of a turn of `o`: every die's counters stand as before, unless the turn was a reset. -/
def Sys2Proof.afterTurn (s : State) : Out → Out
  | .next t => .next (keepClocks s t)
  | .fault f => .fault f
  | .refused r => .refused r

/-- R19, R77, R118, R119, R153, R397, R399: when the turn is that of a thread that issues, step executes the instruction that the word at its
pc decodes to, with the upper half that EXT gives it, and an undecodable word as ILL at decode; where the unit that is ahead must wait, or
at a turn of its own, the unit that is behind executes a sequence that was left to it, or passes a word, instead; at a third kind of turn
the A-unit leaves a sequence to the E-unit; a turn of the device executes its
step, a cycle of one die advances its counters, by 1 and by 2, once a refill that is due there has taken effect (R399), and a thread that sleeps or holds no region issues nothing. (The agenda
is the model's, log 4.) -/
def Obligations.StepRunsTheDecodedInstruction : Prop :=
  ∀ (s : State) (rest : List Turn), s.host.stopped = false →
  let s0 : State := { s with agenda := rest, freeCount := s.freeCount + 1 }
  (∀ (i : Nat) (h : Holder), s.agenda = .thread i :: rest → s.h? i = some h → h.runs = true → h.th.asleep = false →
    h.th.mayIssue = true →
    let w := (h.th.word (h.th.pc + h.th.pfx.len)).toNat
    (∀ ins, h.th.pfx = {} → decodeWord w = .ok ins → step s = afterTurn s (exec ins ({ s0 with cur := i }.setH i h))) ∧
    (∀ ins hi, h.th.pfx.rep = none → h.th.pfx.ext = some hi → decodeWord w = .ok ins → (∀ x, ins ≠ .ext x) → (∀ n m, ins ≠ .rep n m) →
      extAccepts w hi = true →
      step s = afterTurn s (exec ins ({ s0 with cur := i }.setH i { h with th := { h.th with pfx := { h.th.pfx with hi := some hi } } }))) ∧
    (∀ e, decodeWord w = .error e → step s = afterTurn s (exec (.illAtDecode (BitVec.ofNat 32 w)) { s0 with cur := i }))) ∧
  (∀ (i : Nat) (h : Holder), s.h? i = some h → h.runs = true →
    let on : Out := if h.th.atLeft = true then afterTurn s (eTurn s0 i h) else .next (keepClocks s (s0.setH i { h with th := h.th.follow }))
    (s.agenda = .thread i :: rest → h.th.asleep = false → h.th.mayIssue = false → step s = on) ∧ (s.agenda = .follow i :: rest → step s = on) ∧
    (s.agenda = .lead i :: rest → h.th.asleep = false → step s = .next (keepClocks s (s0.setH i { h with th := h.th.leave })))) ∧
  (∀ (i : Nat), s.agenda = .thread i :: rest → (∀ h, s.h? i = some h → h.runs = false ∨ h.th.asleep = true) → step s = .next (keepClocks s s0)) ∧
  (∀ e, s.agenda = .event e :: rest → e.isStep = true → step s = afterTurn s (exec e s0)) ∧
  ∀ d < s.dies.length, s.agenda = .cycle d :: rest → ∃ u t, exec (.refillTick d) s0 = .next u ∧ step s = .next t ∧ t.hold = u.hold ∧ t.mem = s.mem ∧
    t.dies.length = s.dies.length ∧ (t.die d).fcyc = (s.die d).fcyc + 1 ∧ (t.die d).scyc = (s.die d).scyc + 2 ∧ (t.die d).m = (u.die d).m ∧
    (t.die d).q = (s.die d).q ∧ (t.die d).p = (s.die d).p ∧ (t.die d).r = (u.die d).r ∧ ∀ e ≠ d, t.die e = s.die e

/-- Words of the spec's own examples and encodings, one or more of each format, decode to what they stand for (R80 to R90, R137, R138). -/
def Obligations.WordsOfTheSpecDecode : Prop :=
  decodeWord 0x0061101D = .ok (.bfx ⟨3, 1, 2, false, false, false⟩) ∧ decodeWord 0x3C61083C = .ok (.bfxi ⟨3, 1, 60, 8⟩) ∧
  decodeWord 0xF8001234 = .ok (.ext 0x1234) ∧ decodeWord 0x2CE05678 = .ok (.movhiE 7 0x5678) ∧
  decodeWord 0x18E7DEF0 = .ok (.oriE ⟨7, 7, 0xDEF0⟩) ∧ decodeWord 0xB82018A0 = .ok (.mts 6 5 false) ∧ decodeWord 0xB8400000 = .ok .eret ∧
  decodeWord 0xB0838C80 = .ok (.chlink ⟨7, 3, 4⟩) ∧ decodeWord 0xB4101C20 = .ok (.ret 7 1 false) ∧ decodeWord 0xB1200000 = .ok .sgo ∧
  decodeWord 0xFFFFFFFF = .error .reservedField

/-- R73, R77, R80 to R90: decoding the word of a well-formed instruction gives it back, whatever its operands. -/
def Obligations.DecodeInvertsEncode : Prop :=
  ∀ (i : Instr) (w : Nat), i.wf = true → encode i = some w → w < 2 ^ 32 ∧ decodeWord w = .ok i

/-- R73, R77: each word stands for at most one instruction, whose encoding is that word: no bit of a legal word is ignored. -/
def Obligations.EncodeInvertsDecode : Prop :=
  ∀ (w : Nat) (i : Instr), w < 2 ^ 32 → decodeWord w = .ok i → i.wf = true ∧ encode i = some w

/-- R397, R398, R447: whatever a step does, every die's slice counter goes on standing at twice its fabric counter. -/
def Obligations.ClocksAgreeAfterEveryStep : Prop := ∀ s t : State, clocksAgree s → step s = .next t → clocksAgree t

/-- Every instruction and every device step answers a next state on every state, and no step is refused: the package stops on a loss of
power only, and a reset starts it again (R445, R448). -/
def Obligations.OnlyALossOfPowerStopsTheMachine : Prop :=
  (∀ (i : Instr) (s : State), goesOn (exec i s)) ∧
  (∀ s : State, s.host.stopped = false → goesOn (step s)) ∧
  (∀ (s : State) (t : Turn) (rest : List Turn), s.host.stopped = true → s.agenda = t :: rest → t ≠ .event .reset → step s = .fault .stopped) ∧
  ∀ (s : State) (rest : List Turn), s.host.stopped = true → s.agenda = .event .reset :: rest → ∃ t, step s = .next t ∧ t.host.stopped = false

/-- R307, R323, R332: a write of some bytes of a line of storage is what the next read of the line returns, every other line reads as
before, and the memory keeps its canonical form. -/
def Obligations.LinesReadWhatWasWritten : Prop :=
  ∀ (s : State) (pa : Nat) (mask : BitVec 64) (v : Line) (psn : BitVec 16), s.dies.length = 4 → Memory.wf s.mem.bytes = true →
    (s.host.huok = true ∨ s.pbLine? pa = none) →
    (s.physWrite pa mask v psn).physLine pa = lineMerge (s.physLine pa) v mask ∧
    (∀ x, x / 64 ≠ pa / 64 → (s.physWrite pa mask v psn).physLine x = s.physLine x) ∧
    Memory.wf (s.physWrite pa mask v psn).mem.bytes = true ∧ (s.physWrite pa mask v psn).hold = s.hold

/-- R114: register 0 of each file reads 0 and discards writes; a write of another register changes it alone. -/
def Obligations.RegisterZeroReadsZero : Prop :=
  ∀ (t : Thread) (e : Bool) (v : W64), t.get e 0 = 0 ∧ t.set e 0 v = t ∧
    ∀ r : Reg, r ≠ 0 → (t.set e r v).get e r = v ∧ (t.set e r v).get (!e) r = t.get (!e) r ∧ ∀ x, x ≠ r → (t.set e r v).get e x = t.get e x

/-- R114, R127, R307, R333, R397, R406, R419, R440, R441, R444, R447: what reset leaves: no holder, no listed
byte, every counter 0, every port up, the default share table, PODID 0 and PLIM 1,800; its clocks agree and its
memory is in canonical form. Values that the manual does not give are the model's: PRSTAT and XINVS 0 (log 2), no byte listed before anything
is written (log 1), and every cell free with COND 0 (log 3). -/
def Obligations.ResetState : Prop :=
  State.reset.hold = [] ∧ State.reset.mem.bytes = [] ∧ State.reset.dies.length = 4 ∧ clocksAgree State.reset ∧ Memory.wf State.reset.mem.bytes = true ∧
  State.reset.mem.poison = [] ∧ State.reset.host.podid = 0 ∧ State.reset.host.plim = 1800 ∧ State.reset.host.devevt = 0 ∧
  State.reset.host.intMap = [] ∧ State.reset.host.stopped = false ∧
  ∀ d < 4, (State.reset.die d).fcyc = 0 ∧ (State.reset.die d).scyc = 0 ∧ (∀ c < 512, (State.reset.area d c).state = 0) ∧
    (State.reset.die d).r.prstat = 0 ∧ (State.reset.die d).r.xinvs = 0 ∧ (∀ k < 12, ((State.reset.die d).r.ports.getD k 0).getLsbD 63 = true) ∧
    (State.reset.die d).q.patch = [] ∧ (State.reset.die d).q.queues = [] ∧ shValid ((State.reset.die d).r.shNow.getD 0 0) = true ∧
    shWeight ((State.reset.die d).r.shNow.getD 0 0) = 1024 ∧ (State.reset.die d).r.capNow = 6656
end

