-- ==== Sys2Proof/Laws/Tables.lean ====
section
/-! SUPPORT. Laws of sparse tables: reading after writing, and the rising order of keys. -/

namespace Sys2Proof.Machine

/-- Reading the key just written gives the value written. -/
@[simp] theorem Tbl.find_put_self {β : Type} (t : Tbl β) (a : Nat) (x : β) : Tbl.find (Tbl.put t a x) a = some x := by
  induction t with
  | nil => simp [Tbl.put, Tbl.find]
  | cons c t ih =>
    obtain ⟨k, v⟩ := c
    simp only [Tbl.put]
    split
    · simp [Tbl.find]
    · split
      · simp [Tbl.find]
      · rw [Tbl.find, if_neg (by omega)]; exact ih

/-- A write leaves every other key alone. -/
theorem Tbl.find_put_ne {β : Type} (t : Tbl β) {a b : Nat} (x : β) (h : b ≠ a) : Tbl.find (Tbl.put t a x) b = Tbl.find t b := by
  induction t with
  | nil => simp [Tbl.put, Tbl.find, Ne.symm h]
  | cons c t ih =>
    obtain ⟨k, v⟩ := c
    simp only [Tbl.put]
    split
    · simp [Tbl.find, Ne.symm h]
    · split
      · subst a; simp [Tbl.find, Ne.symm h]
      · simp only [Tbl.find, ih]

/-- Removing a key leaves every other key alone. -/
theorem Tbl.find_del_ne {β : Type} (t : Tbl β) {a b : Nat} (h : b ≠ a) : Tbl.find (Tbl.del t a) b = Tbl.find t b := by
  induction t with
  | nil => rfl
  | cons c t ih =>
    obtain ⟨k, v⟩ := c
    simp only [Tbl.del]
    split
    · subst k; simp [Tbl.find, Ne.symm h]
    · simp only [Tbl.find, ih]

/-- A table whose keys start at `lo` lists nothing below. -/
theorem Tbl.find_below {β : Type} (t : Tbl β) {lo a : Nat} (h : Tbl.risingFrom lo t = true) (ha : a < lo) : Tbl.find t a = none := by
  induction t generalizing lo with
  | nil => rfl
  | cons c t ih =>
    obtain ⟨k, v⟩ := c
    simp only [Tbl.risingFrom, Bool.and_eq_true, decide_eq_true_eq] at h
    rw [Tbl.find, if_neg (by omega)]
    exact ih h.2 (by omega)

/-- A removed key is unlisted. -/
theorem Tbl.find_del_self {β : Type} (t : Tbl β) {lo : Nat} (a : Nat) (h : Tbl.risingFrom lo t = true) : Tbl.find (Tbl.del t a) a = none := by
  induction t generalizing lo with
  | nil => rfl
  | cons c t ih =>
    obtain ⟨k, v⟩ := c
    simp only [Tbl.risingFrom, Bool.and_eq_true, decide_eq_true_eq] at h
    simp only [Tbl.del]
    split
    · subst k; exact Tbl.find_below t h.2 (by omega)
    · rename_i hk; rw [Tbl.find, if_neg hk]; exact ih h.2

/-- Keys that rise from a number rise from every smaller one. -/
theorem Tbl.rising_mono {β : Type} (t : Tbl β) {lo lo' : Nat} (h : Tbl.risingFrom lo t = true) (hl : lo' ≤ lo) : Tbl.risingFrom lo' t = true := by
  cases t with
  | nil => rfl
  | cons c t =>
    simp only [Tbl.risingFrom, Bool.and_eq_true, decide_eq_true_eq] at h ⊢
    exact ⟨by omega, h.2⟩

/-- A write keeps the keys rising. -/
theorem Tbl.rising_put {β : Type} (t : Tbl β) {lo : Nat} (a : Nat) (x : β) (h : Tbl.risingFrom lo t = true) (ha : lo ≤ a) :
    Tbl.risingFrom lo (Tbl.put t a x) = true := by
  induction t generalizing lo with
  | nil => simp [Tbl.put, Tbl.risingFrom, ha]
  | cons c t ih =>
    obtain ⟨k, v⟩ := c
    simp only [Tbl.risingFrom, Bool.and_eq_true, decide_eq_true_eq] at h
    simp only [Tbl.put]
    split
    · simp only [Tbl.risingFrom, Bool.and_eq_true, decide_eq_true_eq]; exact ⟨ha, by omega, h.2⟩
    · split
      · subst a; simp only [Tbl.risingFrom, Bool.and_eq_true, decide_eq_true_eq]; exact h
      · simp only [Tbl.risingFrom, Bool.and_eq_true, decide_eq_true_eq]; exact ⟨h.1, ih h.2 (by omega)⟩

/-- A removal keeps the keys rising. -/
theorem Tbl.rising_del {β : Type} (t : Tbl β) {lo : Nat} (a : Nat) (h : Tbl.risingFrom lo t = true) :
    Tbl.risingFrom lo (Tbl.del t a) = true := by
  induction t generalizing lo with
  | nil => rfl
  | cons c t ih =>
    obtain ⟨k, v⟩ := c
    simp only [Tbl.risingFrom, Bool.and_eq_true, decide_eq_true_eq] at h
    simp only [Tbl.del]
    split
    · exact Tbl.rising_mono t h.2 (by omega)
    · simp only [Tbl.risingFrom, Bool.and_eq_true, decide_eq_true_eq]; exact ⟨h.1, ih h.2⟩

/-- What a write lists, the table listed or is the entry written. -/
theorem Tbl.mem_put {β : Type} (t : Tbl β) (a : Nat) (x : β) {c : Nat × β} (h : c ∈ Tbl.put t a x) : c ∈ t ∨ c = (a, x) := by
  induction t with
  | nil => simp only [Tbl.put, List.mem_singleton] at h; exact .inr h
  | cons d t ih =>
    obtain ⟨k, v⟩ := d
    simp only [Tbl.put] at h
    split at h
    · rcases List.mem_cons.1 h with h | h
      · exact .inr h
      · exact .inl h
    · split at h
      · rcases List.mem_cons.1 h with h | h
        · exact .inr h
        · exact .inl (List.mem_cons_of_mem _ h)
      · rcases List.mem_cons.1 h with h | h
        · exact .inl (h ▸ List.mem_cons_self)
        · rcases ih h with h | h
          · exact .inl (List.mem_cons_of_mem _ h)
          · exact .inr h

/-- What a removal lists, the table listed. -/
theorem Tbl.mem_del {β : Type} (t : Tbl β) (a : Nat) {c : Nat × β} (h : c ∈ Tbl.del t a) : c ∈ t := by
  induction t with
  | nil => exact h
  | cons d t ih =>
    obtain ⟨k, v⟩ := d
    simp only [Tbl.del] at h
    split at h
    · exact List.mem_cons_of_mem _ h
    · rcases List.mem_cons.1 h with h | h
      · exact h ▸ List.mem_cons_self
      · exact List.mem_cons_of_mem _ (ih h)

/-- The entry that was changed. -/
theorem Tbl.find_modify_self {β : Type} (t : Tbl β) (a : Nat) (f : β → β) : Tbl.find (Tbl.modify t a f) a = (Tbl.find t a).map f := by
  unfold Tbl.modify
  cases h : Tbl.find t a <;> simp [h]

/-- Every other entry. -/
theorem Tbl.find_modify_ne {β : Type} (t : Tbl β) {a b : Nat} (f : β → β) (h : b ≠ a) : Tbl.find (Tbl.modify t a f) b = Tbl.find t b := by
  unfold Tbl.modify
  split
  · exact Tbl.find_put_ne _ _ h
  · rfl

/-- Two changes of one entry are one change. -/
theorem Tbl.put_put {β : Type} (t : Tbl β) (a : Nat) (x y : β) : Tbl.put (Tbl.put t a x) a y = Tbl.put t a y := by
  induction t with
  | nil => simp [Tbl.put]
  | cons c t ih =>
    obtain ⟨k, v⟩ := c
    by_cases h1 : a < k
    · simp [Tbl.put, h1]
    · by_cases h2 : a = k
      · subst h2; simp [Tbl.put]
      · simp [Tbl.put, h1, h2, ih]

/-- Two changes of one entry are one change. -/
theorem Tbl.modify_modify {β : Type} (t : Tbl β) (a : Nat) (f g : β → β) :
    Tbl.modify (Tbl.modify t a f) a g = Tbl.modify t a (fun x => g (f x)) := by
  unfold Tbl.modify
  cases h : Tbl.find t a with
  | none => simp [h]
  | some v => simp [Tbl.put_put]

end Sys2Proof.Machine
end

