-- ==== Sys2Proof/Laws/Memory.lean ====
section
/-! SUPPORT. Laws of the byte memory: reading after writing, the frame of a write, the canonical form, and that what concerns writes not yet ordered changes their list alone. -/

namespace Sys2Proof.Machine

/-- The canonical form, as its two parts. -/
theorem Memory.wf_iff (m : List Host.Cell) :
    Memory.wf m = true ↔ Tbl.risingFrom 0 m = true ∧ ∀ c ∈ m, c.2 ≠ wiped := by
  simp [Memory.wf, List.all_eq_true]

/-- Writing a byte keeps the canonical form. -/
theorem Memory.wf_memSet (m : List Host.Cell) (a : Nat) (b : Byte) (h : Memory.wf m = true) : Memory.wf (memSet m a b) = true := by
  rw [Memory.wf_iff] at h ⊢
  unfold memSet Tbl.set
  split
  · exact ⟨Tbl.rising_del m a h.1, fun c hc => h.2 c (Tbl.mem_del m a hc)⟩
  · rename_i hb
    refine ⟨Tbl.rising_put m a b h.1 (Nat.zero_le a), fun c hc => ?_⟩
    rcases Tbl.mem_put m a b hc with hc | hc
    · exact h.2 c hc
    · subst hc; exact hb

/-- The byte just written. -/
theorem memGet_memSet_self (m : List Host.Cell) (a : Nat) (b : Byte) (h : Memory.wf m = true) : memGet (memSet m a b) a = b := by
  rw [Memory.wf_iff] at h
  unfold memGet memSet Tbl.getD Tbl.set
  split
  · rename_i hb; rw [Tbl.find_del_self m a h.1, hb]; rfl
  · simp

/-- Every other byte. -/
theorem memGet_memSet_ne (m : List Host.Cell) {a x : Nat} (b : Byte) (h : x ≠ a) : memGet (memSet m a b) x = memGet m x := by
  unfold memGet memSet Tbl.getD Tbl.set
  split
  · rw [Tbl.find_del_ne m h]
  · rw [Tbl.find_put_ne m b h]

/-- Writing bytes keeps the canonical form. -/
theorem Memory.wf_memSetN (m : List Host.Cell) (a n v : Nat) (h : Memory.wf m = true) : Memory.wf (memSetN m a n v) = true := by
  induction n generalizing m a v with
  | zero => exact h
  | succ n ih => exact ih _ _ _ (Memory.wf_memSet m a _ h)

/-- A write of `n` bytes leaves every byte outside them alone. -/
theorem memGet_memSetN_out (m : List Host.Cell) (a n v x : Nat) (h : x < a ∨ a + n ≤ x) : memGet (memSetN m a n v) x = memGet m x := by
  induction n generalizing m a v with
  | zero => rfl
  | succ n ih => rw [memSetN, ih _ _ _ (by omega), memGet_memSet_ne m _ (by omega)]

/-- The number read is the number written. -/
theorem memGetN_memSetN (m : List Host.Cell) (a n v : Nat) (h : Memory.wf m = true) : memGetN (memSetN m a n v) a n = v % 256 ^ n := by
  induction n generalizing m a v with
  | zero => simp [memGetN, Nat.mod_one]
  | succ n ih =>
    rw [memSetN, memGetN, ih _ _ _ (Memory.wf_memSet m a _ h), memGet_memSetN_out _ _ _ _ _ (by omega),
      memGet_memSet_self m a _ h, Nat.pow_succ, Nat.mul_comm (256 ^ n) 256, Nat.mod_mul, BitVec.toNat_ofNat]

/-- A masked write of a line, byte by byte. -/
theorem Memory.wf_memSetMask (m : List Host.Cell) (a : Nat) (k : BitVec 64) (v : Line) (h : Memory.wf m = true) :
    Memory.wf (memSetMask m a k v) = true := by
  unfold memSetMask
  generalize List.range 64 = l
  induction l generalizing m with
  | nil => exact h
  | cons i l ih =>
    refine ih _ ?_
    dsimp only
    split
    · exact Memory.wf_memSet m _ _ h
    · exact h

/-- A masked write leaves every byte outside its line alone. -/
theorem memGet_memSetMask_out (m : List Host.Cell) (a : Nat) (k : BitVec 64) (v : Line) (x : Nat) (h : x < a ∨ a + 64 ≤ x) :
    memGet (memSetMask m a k v) x = memGet m x := by
  unfold memSetMask
  have hl : ∀ i ∈ List.range 64, i < 64 := fun i hi => List.mem_range.1 hi
  revert hl
  generalize List.range 64 = l
  intro hl
  induction l generalizing m with
  | nil => rfl
  | cons i l ih =>
    have hi := hl i List.mem_cons_self
    rw [List.foldl_cons, ih _ fun j hj => hl j (List.mem_cons_of_mem _ hj)]
    split
    · exact memGet_memSet_ne m _ (by omega)
    · rfl

/-- Dropping entries keeps the canonical form. -/
theorem Memory.wf_filter (m : List Host.Cell) (p : Host.Cell → Bool) (h : Memory.wf m = true) : Memory.wf (m.filter p) = true := by
  rw [Memory.wf_iff] at h ⊢
  refine ⟨?_, fun c hc => h.2 c (List.mem_filter.1 hc).1⟩
  have key : ∀ (l : List Host.Cell) (lo : Nat), Tbl.risingFrom lo l = true → Tbl.risingFrom lo (l.filter p) = true := by
    intro l
    induction l with
    | nil => intro lo _; rfl
    | cons c l ih =>
      intro lo hl
      obtain ⟨k, v⟩ := c
      simp only [Tbl.risingFrom, Bool.and_eq_true, decide_eq_true_eq] at hl
      rw [List.filter_cons]
      split
      · simp only [Tbl.risingFrom, Bool.and_eq_true, decide_eq_true_eq]; exact ⟨hl.1, ih _ hl.2⟩
      · exact Tbl.rising_mono _ (ih _ hl.2) (by omega)
  exact key m 0 h.1

/-- Writing a list of bytes keeps the canonical form. -/
theorem Memory.wf_foldl (l : List Host.Cell) (f : Host.Cell → Nat) (m : List Host.Cell) (h : Memory.wf m = true) :
    Memory.wf (l.foldl (fun t c => memSet t (f c) c.2) m) = true := by
  induction l generalizing m with
  | nil => exact h
  | cons c l ih => exact ih _ (Memory.wf_memSet m _ _ h)

/-- A write of storage keeps the canonical form. -/
theorem Memory.wf_physWrite (s : State) (pa : Nat) (k : BitVec 64) (v : Line) (p : BitVec 16) (h : Memory.wf s.mem.bytes = true) :
    Memory.wf (s.physWrite pa k v p).mem.bytes = true := by
  unfold State.physWrite
  split
  · exact h
  · exact Memory.wf_memSetMask _ _ _ _ h

/-- A write of storage leaves every byte outside its line alone. -/
theorem memGet_physWrite_out (s : State) (pa : Nat) (k : BitVec 64) (v : Line) (p : BitVec 16) (x : Nat) (h : x / 64 ≠ pa / 64) :
    memGet (s.physWrite pa k v p).mem.bytes x = memGet s.mem.bytes x := by
  unfold State.physWrite
  split
  · rfl
  · exact memGet_memSetMask_out _ _ _ _ _ (by omega)

/-! ## Writes that no fence has ordered -/

@[simp] theorem State.writeAs_hold (s : State) (h : Holder) (cls : PathClass) (va copy : Option Nat) (p : Place) (k : BitVec 64) (v : Line) (n : BitVec 16) :
    (s.writeAs h cls va copy p k v n).hold = (s.writeNow p k v n).hold := rfl
@[simp] theorem State.writeAs_cur (s : State) (h : Holder) (cls : PathClass) (va copy : Option Nat) (p : Place) (k : BitVec 64) (v : Line) (n : BitVec 16) :
    (s.writeAs h cls va copy p k v n).cur = (s.writeNow p k v n).cur := rfl
@[simp] theorem State.writeAs_mem (s : State) (h : Holder) (cls : PathClass) (va copy : Option Nat) (p : Place) (k : BitVec 64) (v : Line) (n : BitVec 16) :
    (s.writeAs h cls va copy p k v n).mem = (s.writeNow p k v n).mem := rfl
@[simp] theorem State.writeAs_dies (s : State) (h : Holder) (cls : PathClass) (va copy : Option Nat) (p : Place) (k : BitVec 64) (v : Line) (n : BitVec 16) :
    (s.writeAs h cls va copy p k v n).dies = (s.writeNow p k v n).dies := rfl
@[simp] theorem State.writeAs_pkg (s : State) (h : Holder) (cls : PathClass) (va copy : Option Nat) (p : Place) (k : BitVec 64) (v : Line) (n : BitVec 16) :
    (s.writeAs h cls va copy p k v n).pkg = (s.writeNow p k v n).pkg := rfl
@[simp] theorem State.writeAs_host (s : State) (h : Holder) (cls : PathClass) (va copy : Option Nat) (p : Place) (k : BitVec 64) (v : Line) (n : BitVec 16) :
    (s.writeAs h cls va copy p k v n).host = (s.writeNow p k v n).host := rfl
@[simp] theorem State.writeAs_agenda (s : State) (h : Holder) (cls : PathClass) (va copy : Option Nat) (p : Place) (k : BitVec 64) (v : Line) (n : BitVec 16) :
    (s.writeAs h cls va copy p k v n).agenda = (s.writeNow p k v n).agenda := rfl
@[simp] theorem State.writeAs_freeCount (s : State) (h : Holder) (cls : PathClass) (va copy : Option Nat) (p : Place) (k : BitVec 64) (v : Line) (n : BitVec 16) :
    (s.writeAs h cls va copy p k v n).freeCount = (s.writeNow p k v n).freeCount := rfl

/-- A write that reads may miss is listed and nothing else (R297). -/
theorem State.writeAs_frame (s : State) (h : Holder) (cls : PathClass) (va copy : Option Nat) (p : Place) (k : BitVec 64) (v : Line) (n : BitVec 16) :
    ∃ u, s.writeAs h cls va copy p k v n = { s.writeNow p k v n with unf := u } := ⟨_, rfl⟩

/-- A read made changes the list alone. -/
theorem State.didRead_frame (s : State) (i : Nat) (cls : PathClass) (p : Place) : ∃ u, s.didRead i cls p = { s with unf := u } := by
  unfold State.didRead
  dsimp only
  split
  · exact ⟨s.unf, rfl⟩
  · exact ⟨_, rfl⟩

/-- A read of a holder that may miss none of its writes finds what stands at the line's home (R297). -/
theorem State.readAs_none {s : State} {i : Nat} {cls : PathClass} {p : Place} (h : s.missable i cls p = []) (r : Line × BitVec 16) :
    s.readAs i cls p r = r := by simp [State.readAs, h]

/-- Such a read changes nothing. -/
theorem State.didRead_none {s : State} {i : Nat} {cls : PathClass} {p : Place} (h : s.missable i cls p = []) : s.didRead i cls p = s := by
  simp [State.didRead, h]

/-- Ordering writes changes the list alone (R298). -/
theorem State.order_frame (s : State) (h : Holder) (cs : List PathClass) (on : Unfenced → Bool) : ∃ u, s.order h cs on = { s with unf := u } := by
  unfold State.order
  split
  · exact ⟨s.unf, rfl⟩
  · exact ⟨_, rfl⟩

/-- The begin of a phase or of a copy changes the list alone. -/
theorem State.begins_frame (s : State) (i : Nat) (cs : List PathClass) : ∃ u, s.begins i cs = { s with unf := u } := by
  unfold State.begins
  split
  · exact ⟨s.unf, rfl⟩
  · exact ⟨_, rfl⟩

/-- Where no write is listed there is nothing to order. -/
theorem State.order_nil {s : State} (hu : s.unf = []) (h : Holder) (cs : List PathClass) (on : Unfenced → Bool) : s.order h cs on = s := by
  simp [State.order, hu]
theorem State.begins_nil {s : State} (hu : s.unf = []) (i : Nat) (cs : List PathClass) : s.begins i cs = s := by
  simp [State.begins, hu]

/-- The end of a phase or of a copy changes the list alone. -/
theorem State.phaseEnds_frame (s : State) (i : Nat) : ∃ u, s.phaseEnds i = { s with unf := u } := by
  unfold State.phaseEnds
  split
  · exact ⟨s.unf, rfl⟩
  · exact ⟨_, rfl⟩
theorem State.copyEnds_frame (s : State) (i n : Nat) : ∃ u, s.copyEnds i n = { s with unf := u } := by
  unfold State.copyEnds
  split
  · exact ⟨s.unf, rfl⟩
  · exact ⟨_, rfl⟩

/-- A write of a holder keeps the canonical form. -/
theorem Memory.wf_writeAs (s : State) (h : Holder) (cls : PathClass) (va copy : Option Nat) (p : Place) (k : BitVec 64) (v : Line) (n : BitVec 16)
    (hw : Memory.wf s.mem.bytes = true) : Memory.wf (s.writeAs h cls va copy p k v n).mem.bytes = true := by
  rw [State.writeAs_mem]
  unfold State.writeNow
  split
  · exact hw
  · unfold State.plainWrite
    split
    · exact Memory.wf_physWrite _ _ _ _ _ hw
    · exact Memory.wf_physWrite _ _ _ _ _ hw

end Sys2Proof.Machine
end

