-- ==== Sys2Proof/Laws/State.lean ====
section
/-! SUPPORT. One lemma for each field of State under each update of its parts. -/

namespace Sys2Proof.Machine

@[simp] theorem State.setH_hold (s : State) (i : Nat) (h : Holder) : (s.setH i h).hold = s.hold.put i h := rfl
@[simp] theorem State.setH_cur (s : State) (i : Nat) (h : Holder) : (s.setH i h).cur = s.cur := rfl
@[simp] theorem State.setH_mem (s : State) (i : Nat) (h : Holder) : (s.setH i h).mem = s.mem := rfl
@[simp] theorem State.setH_dies (s : State) (i : Nat) (h : Holder) : (s.setH i h).dies = s.dies := rfl
@[simp] theorem State.setH_pkg (s : State) (i : Nat) (h : Holder) : (s.setH i h).pkg = s.pkg := rfl
@[simp] theorem State.setH_host (s : State) (i : Nat) (h : Holder) : (s.setH i h).host = s.host := rfl
@[simp] theorem State.setH_agenda (s : State) (i : Nat) (h : Holder) : (s.setH i h).agenda = s.agenda := rfl
@[simp] theorem State.setH_freeCount (s : State) (i : Nat) (h : Holder) : (s.setH i h).freeCount = s.freeCount := rfl
@[simp] theorem State.setH_unf (s : State) (i : Nat) (h : Holder) : (s.setH i h).unf = s.unf := rfl

@[simp] theorem State.modH_hold (s : State) (i : Nat) (f : Holder → Holder) : (s.modH i f).hold = s.hold.modify i f := rfl
@[simp] theorem State.modH_cur (s : State) (i : Nat) (f : Holder → Holder) : (s.modH i f).cur = s.cur := rfl
@[simp] theorem State.modH_mem (s : State) (i : Nat) (f : Holder → Holder) : (s.modH i f).mem = s.mem := rfl
@[simp] theorem State.modH_dies (s : State) (i : Nat) (f : Holder → Holder) : (s.modH i f).dies = s.dies := rfl
@[simp] theorem State.modH_pkg (s : State) (i : Nat) (f : Holder → Holder) : (s.modH i f).pkg = s.pkg := rfl
@[simp] theorem State.modH_host (s : State) (i : Nat) (f : Holder → Holder) : (s.modH i f).host = s.host := rfl
@[simp] theorem State.modH_agenda (s : State) (i : Nat) (f : Holder → Holder) : (s.modH i f).agenda = s.agenda := rfl
@[simp] theorem State.modH_freeCount (s : State) (i : Nat) (f : Holder → Holder) : (s.modH i f).freeCount = s.freeCount := rfl
@[simp] theorem State.modH_unf (s : State) (i : Nat) (f : Holder → Holder) : (s.modH i f).unf = s.unf := rfl

@[simp] theorem State.modTh_hold (s : State) (f : Thread → Thread) : (s.modTh f).hold = s.hold.modify s.cur fun h => { h with th := f h.th } := rfl
@[simp] theorem State.modTh_cur (s : State) (f : Thread → Thread) : (s.modTh f).cur = s.cur := rfl
@[simp] theorem State.modTh_mem (s : State) (f : Thread → Thread) : (s.modTh f).mem = s.mem := rfl
@[simp] theorem State.modTh_dies (s : State) (f : Thread → Thread) : (s.modTh f).dies = s.dies := rfl
@[simp] theorem State.modTh_pkg (s : State) (f : Thread → Thread) : (s.modTh f).pkg = s.pkg := rfl
@[simp] theorem State.modTh_host (s : State) (f : Thread → Thread) : (s.modTh f).host = s.host := rfl
@[simp] theorem State.modTh_agenda (s : State) (f : Thread → Thread) : (s.modTh f).agenda = s.agenda := rfl
@[simp] theorem State.modTh_freeCount (s : State) (f : Thread → Thread) : (s.modTh f).freeCount = s.freeCount := rfl
@[simp] theorem State.modTh_unf (s : State) (f : Thread → Thread) : (s.modTh f).unf = s.unf := rfl

@[simp] theorem State.modThOf_hold (s : State) (i : Nat) (f : Thread → Thread) : (s.modThOf i f).hold = s.hold.modify i fun h => { h with th := f h.th } := rfl
@[simp] theorem State.modThOf_cur (s : State) (i : Nat) (f : Thread → Thread) : (s.modThOf i f).cur = s.cur := rfl
@[simp] theorem State.modThOf_mem (s : State) (i : Nat) (f : Thread → Thread) : (s.modThOf i f).mem = s.mem := rfl
@[simp] theorem State.modThOf_dies (s : State) (i : Nat) (f : Thread → Thread) : (s.modThOf i f).dies = s.dies := rfl
@[simp] theorem State.modThOf_pkg (s : State) (i : Nat) (f : Thread → Thread) : (s.modThOf i f).pkg = s.pkg := rfl
@[simp] theorem State.modThOf_host (s : State) (i : Nat) (f : Thread → Thread) : (s.modThOf i f).host = s.host := rfl
@[simp] theorem State.modThOf_agenda (s : State) (i : Nat) (f : Thread → Thread) : (s.modThOf i f).agenda = s.agenda := rfl
@[simp] theorem State.modThOf_freeCount (s : State) (i : Nat) (f : Thread → Thread) : (s.modThOf i f).freeCount = s.freeCount := rfl
@[simp] theorem State.modThOf_unf (s : State) (i : Nat) (f : Thread → Thread) : (s.modThOf i f).unf = s.unf := rfl

@[simp] theorem State.modDie_hold (s : State) (d : Nat) (f : Die → Die) : (s.modDie d f).hold = s.hold := rfl
@[simp] theorem State.modDie_cur (s : State) (d : Nat) (f : Die → Die) : (s.modDie d f).cur = s.cur := rfl
@[simp] theorem State.modDie_mem (s : State) (d : Nat) (f : Die → Die) : (s.modDie d f).mem = s.mem := rfl
@[simp] theorem State.modDie_dies (s : State) (d : Nat) (f : Die → Die) : (s.modDie d f).dies = listMod s.dies d f := rfl
@[simp] theorem State.modDie_pkg (s : State) (d : Nat) (f : Die → Die) : (s.modDie d f).pkg = s.pkg := rfl
@[simp] theorem State.modDie_host (s : State) (d : Nat) (f : Die → Die) : (s.modDie d f).host = s.host := rfl
@[simp] theorem State.modDie_agenda (s : State) (d : Nat) (f : Die → Die) : (s.modDie d f).agenda = s.agenda := rfl
@[simp] theorem State.modDie_freeCount (s : State) (d : Nat) (f : Die → Die) : (s.modDie d f).freeCount = s.freeCount := rfl
@[simp] theorem State.modDie_unf (s : State) (d : Nat) (f : Die → Die) : (s.modDie d f).unf = s.unf := rfl

@[simp] theorem State.modQ_hold (s : State) (d : Nat) (f : DieQ → DieQ) : (s.modQ d f).hold = s.hold := rfl
@[simp] theorem State.modQ_cur (s : State) (d : Nat) (f : DieQ → DieQ) : (s.modQ d f).cur = s.cur := rfl
@[simp] theorem State.modQ_mem (s : State) (d : Nat) (f : DieQ → DieQ) : (s.modQ d f).mem = s.mem := rfl
@[simp] theorem State.modQ_dies (s : State) (d : Nat) (f : DieQ → DieQ) : (s.modQ d f).dies = listMod s.dies d fun x => { x with q := f x.q } := rfl
@[simp] theorem State.modQ_pkg (s : State) (d : Nat) (f : DieQ → DieQ) : (s.modQ d f).pkg = s.pkg := rfl
@[simp] theorem State.modQ_host (s : State) (d : Nat) (f : DieQ → DieQ) : (s.modQ d f).host = s.host := rfl
@[simp] theorem State.modQ_agenda (s : State) (d : Nat) (f : DieQ → DieQ) : (s.modQ d f).agenda = s.agenda := rfl
@[simp] theorem State.modQ_freeCount (s : State) (d : Nat) (f : DieQ → DieQ) : (s.modQ d f).freeCount = s.freeCount := rfl
@[simp] theorem State.modQ_unf (s : State) (d : Nat) (f : DieQ → DieQ) : (s.modQ d f).unf = s.unf := rfl

@[simp] theorem State.modP_hold (s : State) (d : Nat) (f : DiePlace → DiePlace) : (s.modP d f).hold = s.hold := rfl
@[simp] theorem State.modP_cur (s : State) (d : Nat) (f : DiePlace → DiePlace) : (s.modP d f).cur = s.cur := rfl
@[simp] theorem State.modP_mem (s : State) (d : Nat) (f : DiePlace → DiePlace) : (s.modP d f).mem = s.mem := rfl
@[simp] theorem State.modP_dies (s : State) (d : Nat) (f : DiePlace → DiePlace) : (s.modP d f).dies = listMod s.dies d fun x => { x with p := f x.p } := rfl
@[simp] theorem State.modP_pkg (s : State) (d : Nat) (f : DiePlace → DiePlace) : (s.modP d f).pkg = s.pkg := rfl
@[simp] theorem State.modP_host (s : State) (d : Nat) (f : DiePlace → DiePlace) : (s.modP d f).host = s.host := rfl
@[simp] theorem State.modP_agenda (s : State) (d : Nat) (f : DiePlace → DiePlace) : (s.modP d f).agenda = s.agenda := rfl
@[simp] theorem State.modP_freeCount (s : State) (d : Nat) (f : DiePlace → DiePlace) : (s.modP d f).freeCount = s.freeCount := rfl
@[simp] theorem State.modP_unf (s : State) (d : Nat) (f : DiePlace → DiePlace) : (s.modP d f).unf = s.unf := rfl

@[simp] theorem State.modM_hold (s : State) (d : Nat) (f : DieMem → DieMem) : (s.modM d f).hold = s.hold := rfl
@[simp] theorem State.modM_cur (s : State) (d : Nat) (f : DieMem → DieMem) : (s.modM d f).cur = s.cur := rfl
@[simp] theorem State.modM_mem (s : State) (d : Nat) (f : DieMem → DieMem) : (s.modM d f).mem = s.mem := rfl
@[simp] theorem State.modM_dies (s : State) (d : Nat) (f : DieMem → DieMem) : (s.modM d f).dies = listMod s.dies d fun x => { x with m := f x.m } := rfl
@[simp] theorem State.modM_pkg (s : State) (d : Nat) (f : DieMem → DieMem) : (s.modM d f).pkg = s.pkg := rfl
@[simp] theorem State.modM_host (s : State) (d : Nat) (f : DieMem → DieMem) : (s.modM d f).host = s.host := rfl
@[simp] theorem State.modM_agenda (s : State) (d : Nat) (f : DieMem → DieMem) : (s.modM d f).agenda = s.agenda := rfl
@[simp] theorem State.modM_freeCount (s : State) (d : Nat) (f : DieMem → DieMem) : (s.modM d f).freeCount = s.freeCount := rfl
@[simp] theorem State.modM_unf (s : State) (d : Nat) (f : DieMem → DieMem) : (s.modM d f).unf = s.unf := rfl

@[simp] theorem State.modR_hold (s : State) (d : Nat) (f : DieRegs → DieRegs) : (s.modR d f).hold = s.hold := rfl
@[simp] theorem State.modR_cur (s : State) (d : Nat) (f : DieRegs → DieRegs) : (s.modR d f).cur = s.cur := rfl
@[simp] theorem State.modR_mem (s : State) (d : Nat) (f : DieRegs → DieRegs) : (s.modR d f).mem = s.mem := rfl
@[simp] theorem State.modR_dies (s : State) (d : Nat) (f : DieRegs → DieRegs) : (s.modR d f).dies = listMod s.dies d fun x => { x with r := f x.r } := rfl
@[simp] theorem State.modR_pkg (s : State) (d : Nat) (f : DieRegs → DieRegs) : (s.modR d f).pkg = s.pkg := rfl
@[simp] theorem State.modR_host (s : State) (d : Nat) (f : DieRegs → DieRegs) : (s.modR d f).host = s.host := rfl
@[simp] theorem State.modR_agenda (s : State) (d : Nat) (f : DieRegs → DieRegs) : (s.modR d f).agenda = s.agenda := rfl
@[simp] theorem State.modR_freeCount (s : State) (d : Nat) (f : DieRegs → DieRegs) : (s.modR d f).freeCount = s.freeCount := rfl
@[simp] theorem State.modR_unf (s : State) (d : Nat) (f : DieRegs → DieRegs) : (s.modR d f).unf = s.unf := rfl

@[simp] theorem State.modPkg_hold (s : State) (f : Pkg → Pkg) : (s.modPkg f).hold = s.hold := rfl
@[simp] theorem State.modPkg_cur (s : State) (f : Pkg → Pkg) : (s.modPkg f).cur = s.cur := rfl
@[simp] theorem State.modPkg_mem (s : State) (f : Pkg → Pkg) : (s.modPkg f).mem = s.mem := rfl
@[simp] theorem State.modPkg_dies (s : State) (f : Pkg → Pkg) : (s.modPkg f).dies = s.dies := rfl
@[simp] theorem State.modPkg_pkg (s : State) (f : Pkg → Pkg) : (s.modPkg f).pkg = f s.pkg := rfl
@[simp] theorem State.modPkg_host (s : State) (f : Pkg → Pkg) : (s.modPkg f).host = s.host := rfl
@[simp] theorem State.modPkg_agenda (s : State) (f : Pkg → Pkg) : (s.modPkg f).agenda = s.agenda := rfl
@[simp] theorem State.modPkg_freeCount (s : State) (f : Pkg → Pkg) : (s.modPkg f).freeCount = s.freeCount := rfl
@[simp] theorem State.modPkg_unf (s : State) (f : Pkg → Pkg) : (s.modPkg f).unf = s.unf := rfl

@[simp] theorem State.modHost_hold (s : State) (f : HostRegs → HostRegs) : (s.modHost f).hold = s.hold := rfl
@[simp] theorem State.modHost_cur (s : State) (f : HostRegs → HostRegs) : (s.modHost f).cur = s.cur := rfl
@[simp] theorem State.modHost_mem (s : State) (f : HostRegs → HostRegs) : (s.modHost f).mem = s.mem := rfl
@[simp] theorem State.modHost_dies (s : State) (f : HostRegs → HostRegs) : (s.modHost f).dies = s.dies := rfl
@[simp] theorem State.modHost_pkg (s : State) (f : HostRegs → HostRegs) : (s.modHost f).pkg = s.pkg := rfl
@[simp] theorem State.modHost_host (s : State) (f : HostRegs → HostRegs) : (s.modHost f).host = f s.host := rfl
@[simp] theorem State.modHost_agenda (s : State) (f : HostRegs → HostRegs) : (s.modHost f).agenda = s.agenda := rfl
@[simp] theorem State.modHost_freeCount (s : State) (f : HostRegs → HostRegs) : (s.modHost f).freeCount = s.freeCount := rfl
@[simp] theorem State.modHost_unf (s : State) (f : HostRegs → HostRegs) : (s.modHost f).unf = s.unf := rfl

@[simp] theorem State.modMem_hold (s : State) (f : Mem → Mem) : (s.modMem f).hold = s.hold := rfl
@[simp] theorem State.modMem_cur (s : State) (f : Mem → Mem) : (s.modMem f).cur = s.cur := rfl
@[simp] theorem State.modMem_mem (s : State) (f : Mem → Mem) : (s.modMem f).mem = f s.mem := rfl
@[simp] theorem State.modMem_dies (s : State) (f : Mem → Mem) : (s.modMem f).dies = s.dies := rfl
@[simp] theorem State.modMem_pkg (s : State) (f : Mem → Mem) : (s.modMem f).pkg = s.pkg := rfl
@[simp] theorem State.modMem_host (s : State) (f : Mem → Mem) : (s.modMem f).host = s.host := rfl
@[simp] theorem State.modMem_agenda (s : State) (f : Mem → Mem) : (s.modMem f).agenda = s.agenda := rfl
@[simp] theorem State.modMem_freeCount (s : State) (f : Mem → Mem) : (s.modMem f).freeCount = s.freeCount := rfl
@[simp] theorem State.modMem_unf (s : State) (f : Mem → Mem) : (s.modMem f).unf = s.unf := rfl

@[simp] theorem State.retire_hold (s : State) (f : Thread → Thread) : (s.retire f).hold = s.hold.modify s.cur fun h => { h with th := (f h.th).retire } := rfl
@[simp] theorem State.retire_cur (s : State) (f : Thread → Thread) : (s.retire f).cur = s.cur := rfl
@[simp] theorem State.retire_mem (s : State) (f : Thread → Thread) : (s.retire f).mem = s.mem := rfl
@[simp] theorem State.retire_dies (s : State) (f : Thread → Thread) : (s.retire f).dies = s.dies := rfl
@[simp] theorem State.retire_pkg (s : State) (f : Thread → Thread) : (s.retire f).pkg = s.pkg := rfl
@[simp] theorem State.retire_host (s : State) (f : Thread → Thread) : (s.retire f).host = s.host := rfl
@[simp] theorem State.retire_agenda (s : State) (f : Thread → Thread) : (s.retire f).agenda = s.agenda := rfl
@[simp] theorem State.retire_freeCount (s : State) (f : Thread → Thread) : (s.retire f).freeCount = s.freeCount := rfl
@[simp] theorem State.retire_unf (s : State) (f : Thread → Thread) : (s.retire f).unf = s.unf := rfl

/-- The current holder after a change of the current thread. -/
theorem State.me?_modTh (s : State) (f : Thread → Thread) :
    (s.modTh f).me? = s.me?.map fun h => { h with th := f h.th } := Tbl.find_modify_self _ _ _

/-- The current holder after an instruction retires. -/
theorem State.me?_retire (s : State) (f : Thread → Thread) :
    (s.retire f).me? = s.me?.map fun h => { h with th := (f h.th).retire } := Tbl.find_modify_self _ _ _

/-- Every other holder after a change of the current thread. -/
theorem State.h?_modTh_ne (s : State) (f : Thread → Thread) {i : Nat} (hi : i ≠ s.cur) : (s.modTh f).h? i = s.h? i :=
  Tbl.find_modify_ne _ _ hi

/-- Every other holder after an instruction retires. -/
theorem State.h?_retire_ne (s : State) (f : Thread → Thread) {i : Nat} (hi : i ≠ s.cur) : (s.retire f).h? i = s.h? i :=
  Tbl.find_modify_ne _ _ hi

/-- A holder that was replaced. -/
@[simp] theorem State.h?_setH_self (s : State) (i : Nat) (h : Holder) : (s.setH i h).h? i = some h := Tbl.find_put_self _ _ _

/-- Every other holder. -/
theorem State.h?_setH_ne (s : State) {i j : Nat} (h : Holder) (hj : j ≠ i) : (s.setH i h).h? j = s.h? j := Tbl.find_put_ne _ _ hj

/-- A holder that was changed. -/
theorem State.h?_modH_self (s : State) (i : Nat) (f : Holder → Holder) : (s.modH i f).h? i = (s.h? i).map f := Tbl.find_modify_self _ _ _

/-- Every other holder. -/
theorem State.h?_modH_ne (s : State) {i j : Nat} (f : Holder → Holder) (hj : j ≠ i) : (s.modH i f).h? j = s.h? j :=
  Tbl.find_modify_ne _ _ hj

/-- Two changes of the current thread are one. -/
theorem State.modTh_modTh (s : State) (f g : Thread → Thread) : (s.modTh f).modTh g = s.modTh fun t => g (f t) := by
  simp only [State.modTh, State.modH, Tbl.modify_modify]

/-- The element of a list that was changed. -/
theorem getD_listMod_self {β : Type} (l : List β) (n : Nat) (f : β → β) (d : β) (h : n < l.length) : (listMod l n f).getD n d = f (l.getD n d) := by
  induction l generalizing n with
  | nil => simp at h
  | cons x l ih => cases n with
    | zero => rfl
    | succ n => simpa [listMod] using ih n (by simpa using h)

/-- Every other element. -/
theorem getD_listMod_ne {β : Type} (l : List β) {n m : Nat} (f : β → β) (d : β) (h : m ≠ n) : (listMod l n f).getD m d = l.getD m d := by
  induction l generalizing n m with
  | nil => rfl
  | cons x l ih => cases n with
    | zero => cases m with
      | zero => exact absurd rfl h
      | succ m => rfl
    | succ n => cases m with
      | zero => rfl
      | succ m => simpa [listMod] using ih (n := n) (m := m) (by omega)

/-- A change of one element keeps a list's length. -/
@[simp] theorem length_listMod {β : Type} (l : List β) (n : Nat) (f : β → β) : (listMod l n f).length = l.length := by
  induction l generalizing n with
  | nil => rfl
  | cons x l ih => cases n with
    | zero => rfl
    | succ n => simp [listMod, ih]

/-- A die that was changed. -/
theorem State.die_modDie_self (s : State) (d : Nat) (f : Die → Die) (h : d < s.dies.length) : (s.modDie d f).die d = f (s.die d) :=
  getD_listMod_self _ _ _ _ h

/-- Every other die. -/
theorem State.die_modDie_ne (s : State) {d e : Nat} (f : Die → Die) (h : e ≠ d) : (s.modDie d f).die e = s.die e :=
  getD_listMod_ne _ _ _ h

end Sys2Proof.Machine
end

