-- ==== Sys2Proof/Laws/Thread.lean ====
section
/-! SUPPORT. Laws of the control thread's registers and queues, of retiring an instruction, and what each shared operation of Ops.lean and Operands.lean can do. -/

namespace Sys2Proof.Machine

/-! ## Registers -/

/-- Register 0 reads 0 (R114). -/
@[simp] theorem regGet_zero (f : Vector W64 32) : regGet f 0 = 0 := by simp [regGet]

/-- A write to register 0 is discarded (R114). -/
@[simp] theorem regSet_zero (f : Vector W64 32) (v : W64) : regSet f 0 v = f := by simp [regSet]

/-- A register just written reads the value, unless it is register 0. -/
theorem regGet_regSet (f : Vector W64 32) (r x : Reg) (v : W64) :
    regGet (regSet f r v) x = if x = r ∧ r ≠ 0 then v else regGet f x := by
  unfold regGet regSet
  by_cases h0 : r = 0
  · simp [h0]
  · by_cases hx : x = r
    · subst hx; simp [h0]
    · have hv : ¬ r.val = x.val := fun h => hx (Fin.ext h.symm)
      simp [h0, hx, hv]

/-- An a-register write leaves the s-registers. -/
@[simp] theorem Thread.s_setA (t : Thread) (r x : Reg) (v : W64) : (t.setA r v).s x = t.s x := rfl
/-- An s-register write leaves the a-registers. -/
@[simp] theorem Thread.a_setS (t : Thread) (r x : Reg) (v : W64) : (t.setS r v).a x = t.a x := rfl
/-- An a-register after an a-register write. -/
theorem Thread.a_setA (t : Thread) (r x : Reg) (v : W64) : (t.setA r v).a x = if x = r ∧ r ≠ 0 then v else t.a x := regGet_regSet _ _ _ _
/-- An s-register after an s-register write. -/
theorem Thread.s_setS (t : Thread) (r x : Reg) (v : W64) : (t.setS r v).s x = if x = r ∧ r ≠ 0 then v else t.s x := regGet_regSet _ _ _ _

/-- The registers of a unit after a write of that unit. -/
theorem Thread.get_set (t : Thread) (e : Bool) (r x : Reg) (v : W64) :
    (t.set e r v).get e x = if x = r ∧ r ≠ 0 then v else t.get e x := by
  cases e
  · exact t.a_setA r x v
  · exact t.s_setS r x v

/-- The registers of the other unit. -/
theorem Thread.get_set_other (t : Thread) (e : Bool) (r x : Reg) (v : W64) : (t.set e r v).get (!e) x = t.get (!e) x := by
  cases e <;> rfl

/-- A register write changes the register files alone. -/
theorem Thread.set_regs (t : Thread) (e : Bool) (r : Reg) (v : W64) :
    t.set e r v = { t with regs := (t.set e r v).regs } := by
  cases e <;> rfl

/-! ## Retiring -/

/-- All that passing a word can change: the two program counters. -/
theorem Thread.pass_frame (t : Thread) (i : Nat) : ∃ a e, t.pass i = { t with pcA := a, pcE := e } := by
  unfold Thread.pass
  split
  · exact ⟨t.pcA, i, rfl⟩
  · exact ⟨i, t.pcE, rfl⟩
  · exact ⟨i, i, rfl⟩

/-- Where neither unit is ahead, both pass the word. -/
theorem Thread.pass_level {t : Thread} (h : t.ahead = none) (i : Nat) : t.pass i = { t with pcA := i, pcE := i } := by
  simp [Thread.pass, h]

/-- A unit that is ahead passes the word alone (R118). -/
theorem Thread.pass_ahead {t : Thread} {e : Bool} (h : t.ahead = some e) (i : Nat) :
    t.pass i = { t with pcA := if e then t.pcA else i, pcE := if e then i else t.pcE } := by
  cases e <;> simp [Thread.pass, h]

/-- All that retiring an instruction can change: the wait, the prefixes, the two program counters and REPST. -/
theorem Thread.retire_frame (t : Thread) : ∃ p a e r,
    t.retire = { t with wait := .none, pfx := p, pcA := a, pcE := e, sys := { t.sys with repst := r } } := by
  unfold Thread.retire
  split
  · split
    · exact ⟨_, t.pcA, t.pcE, t.sys.repst, rfl⟩
    · obtain ⟨a, e, h⟩ := t.pass_frame (t.pc + t.pfx.len + 1)
      exact ⟨{}, a, e, 0, by rw [h]⟩
  · obtain ⟨a, e, h⟩ := t.pass_frame (t.pc + t.pfx.len + 1)
    exact ⟨{}, a, e, t.sys.repst, by rw [h]⟩

/-- Retiring leaves the registers. -/
@[simp] theorem Thread.retire_regs (t : Thread) : t.retire.regs = t.regs := by
  obtain ⟨p, a, e, r, h⟩ := t.retire_frame; rw [h]
@[simp] theorem Thread.retire_a (t : Thread) (r : Reg) : t.retire.a r = t.a r := by simp [Thread.a]
@[simp] theorem Thread.retire_s (t : Thread) (r : Reg) : t.retire.s r = t.s r := by simp [Thread.s]
@[simp] theorem Thread.retire_get (t : Thread) (e : Bool) (r : Reg) : t.retire.get e r = t.get e r := by cases e <;> simp [Thread.get]
/-- Retiring leaves the queues, the code store, the copies and the latches of sleep. -/
@[simp] theorem Thread.retire_lq (t : Thread) : t.retire.lq = t.lq := by
  obtain ⟨p, a, e, r, h⟩ := t.retire_frame; rw [h]
@[simp] theorem Thread.retire_sq (t : Thread) : t.retire.sq = t.sq := by
  obtain ⟨p, a, e, r, h⟩ := t.retire_frame; rw [h]
@[simp] theorem Thread.retire_bqe (t : Thread) : t.retire.bqe = t.bqe := by
  obtain ⟨p, a, e, r, h⟩ := t.retire_frame; rw [h]
@[simp] theorem Thread.retire_bqa (t : Thread) : t.retire.bqa = t.bqa := by
  obtain ⟨p, a, e, r, h⟩ := t.retire_frame; rw [h]
@[simp] theorem Thread.retire_code (t : Thread) : t.retire.code = t.code := by
  obtain ⟨p, a, e, r, h⟩ := t.retire_frame; rw [h]
@[simp] theorem Thread.retire_copies (t : Thread) : t.retire.copies = t.copies := by
  obtain ⟨p, a, e, r, h⟩ := t.retire_frame; rw [h]
@[simp] theorem Thread.retire_asleep (t : Thread) : t.retire.asleep = t.asleep := by
  obtain ⟨p, a, e, r, h⟩ := t.retire_frame; rw [h]
@[simp] theorem Thread.retire_halted (t : Thread) : t.retire.halted = t.halted := by
  obtain ⟨p, a, e, r, h⟩ := t.retire_frame; rw [h]
@[simp] theorem Thread.retire_wakeSig (t : Thread) : t.retire.wakeSig = t.wakeSig := by
  obtain ⟨p, a, e, r, h⟩ := t.retire_frame; rw [h]
@[simp] theorem Thread.retire_gbar (t : Thread) : t.retire.gbar = t.gbar := by
  obtain ⟨p, a, e, r, h⟩ := t.retire_frame; rw [h]
@[simp] theorem Thread.retire_loadBar (t : Thread) : t.retire.loadBar = t.loadBar := by
  obtain ⟨p, a, e, r, h⟩ := t.retire_frame; rw [h]
@[simp] theorem Thread.retire_lead (t : Thread) : t.retire.lead = t.lead := by
  obtain ⟨p, a, e, r, h⟩ := t.retire_frame; rw [h]
@[simp] theorem Thread.retire_resume (t : Thread) : t.retire.resume = t.resume := by
  obtain ⟨p, a, e, r, h⟩ := t.retire_frame; rw [h]
/-- Retiring ends a wait. -/
@[simp] theorem Thread.retire_wait (t : Thread) : t.retire.wait = .none := by
  obtain ⟨p, a, e, r, h⟩ := t.retire_frame; rw [h]

/-- Outside a REP, retiring takes the units that stand at the sequence to the next index and leaves the special registers (R118,
R119). -/
theorem Thread.retire_plain (t : Thread) (h : t.pfx.rep = none) :
    t.retire = { t.pass (t.pc + t.pfx.len + 1) with wait := .none, pfx := {} } := by
  simp [Thread.retire, h]

/-! ## The shared operations -/

/-- A meaning on the current holder always answers a next state. -/
theorem withMe_next (s : State) (f : Holder → State) : withMe s f = .next (match s.me? with | some h => f h | none => s) := by
  unfold withMe; split <;> simp [*]

/-- A meaning on the holder that is current. -/
theorem withMe_some {s : State} {h : Holder} (hm : s.me? = some h) (f : Holder → State) : withMe s f = .next (f h) := by
  simp [withMe, hm]

/-- A register instruction completes with what its function makes of the thread (R134). -/
theorem finish_ok {s : State} {h : Holder} {t : Thread} (g : Thread → Except Nat Thread) (hm : s.me? = some h) (hg : g h.th = .ok t) :
    finish s g = .next (s.retire fun _ => t) := by
  simp [finish, withMe, hm, hg]

/-- A register instruction traps QUEUE with no other effect (R120). -/
theorem finish_error {s : State} {h : Holder} {i : Nat} (g : Thread → Except Nat Thread) (hm : s.me? = some h) (hg : g h.th = .error i) :
    finish s g = .next (trapQueue s i) := by
  simp [finish, withMe, hm, hg]

/-- A register instruction always answers a next state. -/
theorem finish_next (s : State) (g : Thread → Except Nat Thread) : ∃ t, finish s g = .next t := by
  unfold finish withMe; split <;> exact ⟨_, rfl⟩

/-- A source operand is its register, or the head of the inward queue (R75). -/
theorem srcOp_reg (e : Bool) (r : Reg) (t : Thread) : srcOp e false r t = .ok (t.get e r, t) := rfl

/-- A destination operand that is a register. -/
theorem dstOp_reg (e : Bool) (r : Reg) (v : W64) (t : Thread) : dstOp e false r v t = .ok (t.set e r v) := rfl

/-- `op d, a, b` on registers alone. -/
theorem alu3_reg (e : Bool) (op : W64 → W64 → W64) (f : R3) (t : Thread) (hd : f.qd = false) (ha : f.qa = false) (hb : f.qb = false) :
    alu3 e op f t = .ok (t.set e f.d (op (t.get e f.a) (t.get e f.b))) := by
  simp only [alu3, hd, ha, hb, srcOp_reg, dstOp_reg]; rfl

/-- Taking a trap whose handler is installed and not running, once the thread's earlier stores are accepted (R121, R150). -/
theorem trap_handler {s : State} {h : Holder} (hm : s.me? = some h) (hc : ctAccepted s h = true) (he : h.th.sys.en = true) (hi : h.th.sys.inh = false)
    (u : Bool) (c i : Nat) (ea : W64) : trap s u c i ea = s.modTh fun t => t.enter u c i ea := by
  simp [trap, trapWaits, hm, hc, he, hi]

end Sys2Proof.Machine
end

