-- ==== Sys2Proof/Tests/Slice0.lean ====
section
/-! SUPPORT. The model's own tests: words of the spec, ill-formed terms, the spec's worked cases, and for every statement a state and operands that meet its hypotheses. -/

namespace Sys2Proof.Tests

open Machine

set_option Elab.async false
set_option maxRecDepth 20000

/-- The instruction a word decodes to. -/
def dec (w : Nat) : Option Instr := match decodeWord w with | .ok i => some i | .error _ => none
/-- Why a word does not decode. -/
def err (w : Nat) : Option DecodeError := match decodeWord w with | .ok _ => none | .error e => some e

/-- An outcome is the value its option form holds. -/
theorem okEq {ε α : Type} {x : Except ε α} {v : α} (h : x.toOption = some v) : x = .ok v := by cases x <;> simp_all [Except.toOption]

/-! ## Words of every family, from the encodings of 04 (R73, R79 to R90) -/

/-- Fields of an R word: major, d, a, b, flags and FN (R75, R79). -/
def wR (m d a b q fn : Nat) : Nat := m * 2 ^ 26 + d * 2 ^ 21 + a * 2 ^ 16 + b * 2 ^ 11 + q * 2 ^ 8 + fn

theorem test_word_bfx : dec 0x0061101D = some (.bfx ⟨3, 1, 2, false, false, false⟩) := by decide
theorem test_word_bfxi : dec 0x3C61083C = some (.bfxi ⟨3, 1, 60, 8⟩) := by decide
theorem test_word_add : dec (wR 0 8 16 0 0 0) = some (.addE ⟨8, 16, 0, false, false, false⟩) := by decide
theorem test_word_addA_queues : dec (wR 2 0 0 3 6 0) = some (.addA ⟨0, 0, 3, true, true, false⟩) := by decide
theorem test_word_queue_flag_needs_zero_field : err (wR 2 1 0 3 4 0) = some .fieldRule := by decide
theorem test_word_fadd : dec (wR 1 3 1 2 0 0) = some (.fadd ⟨3, 1, 2, false, false, false⟩) := by decide
theorem test_word_ext : dec 0xF8001234 = some (.ext 0x1234) := by decide
theorem test_word_movhi : dec 0x2CE05678 = some (.movhiE 7 0x5678) := by decide
theorem test_word_ori : dec 0x18E7DEF0 = some (.oriE ⟨7, 7, 0xDEF0⟩) := by decide
theorem test_word_rep_reserved : err 0xFFFFFFFF = some .reservedField := by decide
theorem test_word_mts : dec 0xB82018A0 = some (.mts 6 5 false) := by decide
theorem test_word_jr : dec 0xB8707C00 = some (.jr 31) := by decide
theorem test_word_eret : dec 0xB8400000 = some .eret := by decide
theorem test_word_chlink : dec 0xB0838C80 = some (.chlink ⟨7, 3, 4⟩) := by decide
theorem test_word_chdrop : dec 0xB09390A0 = some (.chdrop ⟨7, 4, 5⟩) := by decide
theorem test_word_call : dec 0xB4029061 = some (.call ⟨5, 4, 3⟩ 1) := by decide
theorem test_word_ret : dec 0xB4101C20 = some (.ret 7 1 false) := by decide
theorem test_word_waitc : dec 0xB4239000 = some (.waitc ⟨7, 4⟩) := by decide
theorem test_word_cancel : dec 0xB4339000 = some (.cancel ⟨7, 4⟩) := by decide
theorem test_word_gbar : dec 0xB4400000 = some .gbar := by decide
theorem test_word_rfork : dec 0xB52390A6 = some (.rfork ⟨7, 4, 5⟩ 6) := by decide
theorem test_word_ralloc : dec 0xB50390A0 = some (.ralloc ⟨7, 4, 5⟩) := by decide
theorem test_word_tlook : dec 0xB18390A0 = some (.tlook ⟨7, 4, 5⟩) := by decide
theorem test_word_tdec : dec 0xB4939000 = some (.tdec ⟨7, 4⟩) := by decide
theorem test_word_sgo : dec 0xB1200000 = some .sgo := by decide
theorem test_word_unassigned_major : err (0x3D * 2 ^ 26) = some .unassignedMajor := by decide
theorem test_bytes_lowest_first : (match decodeBytes [0x00, 0x00, 0x40, 0xB8, 0x55] with | .ok r => some r | .error _ => none) = some (.eret, [0x55]) := by decide
theorem test_table_word : decodeTableWord 32 0xB4400000 = some .gbar := by decide

/-! ## Ill-formed terms, one for each check of WellFormed -/

theorem test_ill_queue_flag_d : Instr.wf (.addE ⟨1, 2, 3, true, false, false⟩) = false := by decide
theorem test_ill_queue_flag_a : Instr.wf (.addE ⟨1, 2, 3, false, true, false⟩) = false := by decide
theorem test_ill_queue_flag_b : Instr.wf (.addE ⟨1, 2, 3, false, false, true⟩) = false := by decide
theorem test_ill_sel_queue_a : Instr.wf (.sel ⟨1, 2, 3, true, false⟩) = false := by decide
theorem test_ill_mov_queue_d : Instr.wf (.movE ⟨1, 0, true, false⟩) = false := by decide
theorem test_ill_atomic_queue_b : Instr.wf (.aaddW ⟨1, 2, 3, false, true⟩) = false := by decide
theorem test_ill_cas_queue_b : Instr.wf (.acasW ⟨1, 2, 3, true⟩) = false := by decide
theorem test_ill_scope : Instr.wf (.acq 1 5) = false := by decide
theorem test_ill_class_mask : Instr.wf (.xfence 0) = false := by decide
theorem test_ill_special_register : Instr.wf (.mfs 1 14 false) = false := by decide
theorem test_ill_special_register_written : Instr.wf (.mts 5 1 false) = false := by decide
theorem test_ill_register_run : Instr.wf (.ret 30 3 false) = false := by decide
theorem test_well_formed : Instr.wf (.addE ⟨0, 2, 3, true, false, false⟩) = true := by decide

/-! ## States -/

/-- A thread with a handler at index 5 (R127). -/
def thH : Thread := { sys := { tvec := 0x1005 } }
/-- Registers of the E-unit. -/
def setSs (t : Thread) (l : List (Reg × W64)) : Thread := l.foldl (fun t x => t.setS x.1 x.2) t
/-- Holder 1: a named residency of process 5 in cell (0, 0) of die 0. -/
def res (t : Thread) : Holder := { id := { inst := 1, pid := 5, kind := .named }, th := t }
/-- A state with that holder, whose word executes. -/
def st (h : Holder) : State := { State.reset with hold := [(1, h)], cur := 1 }
/-- A thread with registers. -/
def ta (l : List (Reg × W64)) : Thread := l.foldl (fun t x => t.setA x.1 x.2) thH
/-- The registers of the current thread after an outcome. -/
def aOf (o : Out) (r : Reg) : W64 := match o with | .next t => ((t.me?.map fun h => h.th.a r).getD 0) | _ => 0
/-- The s-registers of the current thread after an outcome. -/
def sOf (o : Out) (r : Reg) : W64 := match o with | .next t => ((t.me?.map fun h => h.th.s r).getD 0) | _ => 0
/-- A field of the state after an outcome. -/
def after {α : Type} (o : Out) (d : α) (f : State → α) : α := match o with | .next t => f t | _ => d

/-! ## Worked cases of the spec -/

theorem test_bfx_case1 : sOf (exec (.bfx ⟨3, 1, 2, false, false, false⟩) (st (res (setSs {} [(1, 0x80000000000000F5), (2, 0x800)])))) 3 = 0xF5 := by decide +kernel
theorem test_bfxi_case3 : sOf (exec (.bfxi ⟨3, 1, 60, 8⟩) (st (res (setSs {} [(1, 0x80000000000000F5)])))) 3 = 0x8 := by decide +kernel
theorem test_bfxi_case4 : sOf (exec (.bfxi ⟨3, 1, 2, 200⟩) (st (res (setSs {} [(1, 0x80000000000000F5)])))) 3 = 0x200000000000003D := by decide +kernel
theorem test_bfii_case7 : sOf (exec (.bfii ⟨3, 1, 62, 4⟩) (st (res (setSs {} [(1, 5), (3, 0xFFFFFFFFFFFFFFFF)])))) 3 = 0x7FFFFFFFFFFFFFFF := by decide +kernel
theorem test_bfii_case8 : sOf (exec (.bfii ⟨3, 1, 70, 4⟩) (st (res (setSs {} [(1, 5), (3, 0xFFFFFFFFFFFFFFFF)])))) 3 = 0xFFFFFFFFFFFFFFFF := by decide +kernel
theorem test_div_by_zero : sOf (exec (.div ⟨3, 1, 2, false, false, false⟩) (st (res (setSs {} [(1, 7)])))) 3 = 0xFFFFFFFFFFFFFFFF := by decide +kernel
theorem test_div_least_by_minus_one :
    sOf (exec (.div ⟨3, 1, 2, false, false, false⟩) (st (res (setSs {} [(1, 0x8000000000000000), (2, 0xFFFFFFFFFFFFFFFF)])))) 3 = 0x8000000000000000 := by decide +kernel
theorem test_rem_sign : sOf (exec (.rem ⟨3, 1, 2, false, false, false⟩) (st (res (setSs {} [(1, 0xFFFFFFFFFFFFFFF9), (2, 2)])))) 3 = 0xFFFFFFFFFFFFFFFF := by decide +kernel
theorem test_add_wraps : aOf (exec (.addA ⟨1, 2, 3, false, false, false⟩) (st (res (ta [(2, 0xFFFFFFFFFFFFFFFF), (3, 2)])))) 1 = 1 := by decide +kernel
theorem test_register_zero : aOf (exec (.addA ⟨0, 2, 3, false, false, false⟩) (st (res (ta [(2, 1), (3, 2)])))) 0 = 0 := by decide +kernel
theorem test_ext_movhi : sOf (exec (.movhiE 7 0x5678) (st (res { pfx := { ext := some 0x1234, hi := some 0x1234, len := 1 } }))) 7 = 0x1234567800000000 := by decide +kernel
theorem test_ext_ori : sOf (exec (.oriE ⟨7, 7, 0xDEF0⟩) (st (res { setSs {} [(7, 0x1234567800000000)] with
    pfx := { ext := some 0x9ABC, hi := some 0x9ABC, len := 1 } }))) 7 = 0x123456789ABCDEF0 := by decide +kernel
theorem test_rep_steps_up : (repeatWord (wR 0 8 16 0 0 0) none 0x18 3).map (·.1) = some (wR 0 11 19 0 0 0) := by decide +kernel
theorem test_rep_steps_down : (repeatWord (wR 0 8 16 0 0 0) none 0x19 3).map (·.1) = some (wR 0 5 13 0 0 0) := by decide +kernel
theorem test_branch_offset_zero : (match exec (.beqA ⟨0, 0, 0⟩) (st (res { pcA := 9, pcE := 9 })) with | .next t => t.me?.map (·.th.pcA) | _ => none) = some 9 := by decide +kernel
theorem test_trap_saves_next : (match exec (.trap 3) (st (res { thH with pcA := 9, pcE := 9 })) with
    | .next t => t.me?.map fun h => (h.th.pcA, h.th.sys.epc, h.th.sys.ecause) | _ => none) = some (5, 10, 0x302) := by decide +kernel

/-- The queue of R269's example: S = 16, W = 0, RD = 0. -/
def q269 : Queue := { qid := 2, pid := 5, npage := notifyPage 0 3, ring := 0x10000, st := .mapped }
/-- A state with that queue on die 0. -/
def sQ (q : Queue) : State := { State.reset with dies := [{ q := { queues := [(2, q)], gangs := [{ key := (0, 2), mapped := true }] } }, {}, {}, {}] }
/-- W and IGN of the queue after an outcome. -/
def wign (o : Out) : Option (W64 × BitVec 32) := match o with | .next t => ((t.die 0).q.queues.find 2).map fun q => (q.w, q.ign) | _ => none

theorem test_widx_in_order : wign (exec (.widx 0 3 0 8 9) (sQ { q269 with w := 5 })) = some (9, 0) := by decide +kernel
theorem test_widx_behind : wign (exec (.widx 0 3 0 8 5) (sQ { q269 with w := 9 })) = some (9, 1) := by decide +kernel

/-! ## A state and operands that meet the hypotheses of each statement -/

/-- A thread at word 9. -/
def th9 : Thread := { thH with pcA := 9, pcE := 9 }
/-- A holder at word 9, with a handler. -/
def h9 : Holder := res th9
/-- The state it is in. -/
def s9 : State := st h9
/-- One word in LQ. -/
def hLq : Holder := res { th9 with lq := [7] }
/-- One word in SQ. -/
def hSq : Holder := res { th9 with sq := [7] }
/-- A full SQ. -/
def hFull : Holder := res { th9 with sq := List.replicate 16 7 }
/-- A running handler that was entered at word 20. -/
def hIn : Holder := res { th9 with sys := { th9.sys with tvec := 0x9005, epc := 20 } }
/-- Registers of the A-unit on `h9`. -/
def hA (l : List (Reg × W64)) : Holder := res (l.foldl (fun t x => t.setA x.1 x.2) th9)
/-- It has a handler that is not running, and no store pending (R121). -/
theorem handles9 : handles s9 h9 := ⟨by decide +kernel, by decide, by decide⟩

theorem witness_IntegerFunctions_three : ∃ p ∈ intTable, ∃ f : R3, s9.me? = some h9 ∧ f.qd = false ∧ f.qa = false ∧ f.qb = false ∧ p.1 = true :=
  ⟨_, List.mem_cons_self, ⟨0, 31, 31, false, false, false⟩, rfl, rfl, rfl, rfl, rfl⟩
theorem witness_IntegerFunctions_divide : ∃ p ∈ divTable, ∃ f : R3, s9.me? = some h9 ∧ f.qd = false ∧ f.qa = false ∧ f.qb = false ∧ p.2 1 0 = ofZ (-1) :=
  ⟨_, List.mem_cons_self, ⟨31, 1, 0, false, false, false⟩, rfl, rfl, rfl, rfl, by decide⟩
theorem witness_IntegerFunctions_one : ∃ p ∈ unaryTable, ∃ f : R2, s9.me? = some h9 ∧ f.qd = false ∧ f.qa = false ∧ p.1 = true :=
  ⟨_, List.mem_cons_self, ⟨3, 1, false, false⟩, rfl, rfl, rfl, rfl⟩
theorem witness_IntegerFunctions_select : ∃ f : RT, s9.me? = some h9 ∧ f.qa = false ∧ f.qb = false := ⟨⟨3, 1, 2, false, false⟩, rfl, rfl, rfl⟩
theorem witness_ImmediateAndBitFieldFunctions_bits : ∃ f : R3, ∃ g : RT, s9.me? = some h9 ∧ f.qd = false ∧ f.qa = false ∧ f.qb = false ∧ g.qa = false ∧ g.qb = false :=
  ⟨⟨3, 1, 2, false, false, false⟩, ⟨3, 1, 2, false, false⟩, rfl, rfl, rfl, rfl, rfl, rfl⟩
theorem witness_ImmediateAndBitFieldFunctions : (∃ p ∈ immTable, p.1 = true) ∧ (∃ p ∈ shiftTable, p.1 = true) ∧ s9.me? = some h9 :=
  ⟨⟨_, List.mem_cons_self, rfl⟩, ⟨_, List.mem_cons_self, rfl⟩, rfl⟩
theorem witness_QueueOperands_pop_and_push : ∃ p ∈ queueTable3, (st hLq).me? = some hLq ∧ p.1 = true ∧ 1 ≤ hLq.th.lq.length ∧ hLq.th.sq.length < 16 :=
  ⟨_, List.mem_cons_self, rfl, rfl, by decide, by decide⟩
theorem witness_QueueOperands_one : (∃ p ∈ queueTable2, p.1 = true) ∧ popCount true false ≤ (inwardQueue true hLq.th).length ∧ (outwardQueue true hLq.th).length < 16 :=
  ⟨⟨_, List.mem_cons_self, rfl⟩, by decide, by decide⟩
theorem witness_QueueOperands_empty : ∃ p ∈ queueTable3, s9.me? = some h9 ∧ handles s9 h9 ∧ p.1 = true ∧ h9.th.lq.length < 1 :=
  ⟨_, List.mem_cons_self, rfl, handles9, rfl, by decide⟩
/-- A full LQ. -/
def hLqFull : Holder := res { th9 with lq := List.replicate 16 7 }
theorem witness_QueueOperands_access : handles s9 h9 ∧ h9.th.sq = [] ∧ (st hLqFull).me? = some hLqFull ∧ handles (st hLqFull) hLqFull ∧ 16 ≤ (outwardQueue false hLqFull.th).length ∧
    (∃ p ∈ storeTable, p.2.1 = true) ∧ 0 < (atomicTable.take 8).length := by
  refine ⟨handles9, rfl, rfl, ⟨by decide +kernel, by decide, by decide⟩, by decide, ⟨(1, true, fun f => .stBSq f.a f.imm), ?_, rfl⟩, by decide⟩
  simp [storeTable]
theorem witness_QueueOperands_full : ∃ p ∈ queueTable3, (st hFull).me? = some hFull ∧ handles (st hFull) hFull ∧ p.1 = true ∧ 16 ≤ hFull.th.sq.length :=
  ⟨_, List.mem_cons_self, rfl, ⟨by decide +kernel, by decide, by decide⟩, rfl, by decide⟩
theorem witness_FloatingPointFunctions : (∃ p ∈ fpTable, p.2 true 0 0 = p.2 false 0 0) ∧ (∃ p ∈ fpUnaryTable, p.2 true 0 = p.2 false 0) ∧ s9.me? = some h9 :=
  ⟨⟨_, List.mem_cons_self, by decide +kernel⟩, ⟨_, List.mem_cons_self, by decide +kernel⟩, rfl⟩
theorem witness_FormatsRoundAndRoundTrip_codes : ∀ f ∈ [f32, bf16, f16, e2m1, e2m3, e3m2, e3m4, e4m3, e5m2], 0 < 2 * f.sign ∧ (f.dec 0).isNan = false := by decide +kernel
theorem witness_FormatsRoundAndRoundTrip_neighbours :
    0 + 1 < f32.inf ∧ (f32.dec 0).le (.fin false 1 (-150)) = true ∧ (FV.fin false 1 (-150)).lt (f32.dec 1) = true := by decide +kernel
/-- `h9` with the words of a branch at its pc, and the two units ahead of each other: the E-unit at word 12, with outcomes. -/
def hBr : Holder := res { th9 with code := List.replicate 9 0 ++ [BitVec.ofNat 32 ((encode (.beqA ⟨0, 0, -9⟩)).getD 0)] }
def hBehind (code : List W32) (q : List (Bool × BitVec 12)) : Holder := res { th9 with pcE := 12, bqe := q, code := code }
theorem witness_ControlTransfers_taken : ∃ p ∈ branchTable, (st hBr).me? = some hBr ∧ p.2.2 (hBr.th.get p.1 0) (hBr.th.get p.1 0) = true ∧
    0 ≤ (hBr.th.pc : Int) + (-9) ∧ hBr.th.ahead = none ∧ hBr.runs = true ∧ pushesOutcome (hBr.th.word hBr.th.pc).toNat = true :=
  ⟨_, List.mem_cons_self, rfl, by decide, by decide +kernel, by decide +kernel, by decide +kernel, by decide +kernel⟩
theorem witness_ControlTransfers_behind : let h := hBehind [] []
    (st h).h? 1 = some h ∧ h.runs = true ∧ h.th.mayIssue = false ∧ h.th.asleep = false ∧ h.th.ahead = some true ∧
    pushesOutcome (h.th.word h.th.pcA).toNat = false := by decide +kernel
theorem witness_ControlTransfers_behind_at_a_branch : let h := hBehind hBr.th.code [(true, 0)]
    h.th.mayIssue = false ∧ h.th.ahead = some true ∧ pushesOutcome (h.th.word h.th.pcA).toNat = true ∧ h.th.bqe = (true, 0) :: [] := by decide +kernel
/-- The A-unit at word 9 stands behind a jump that is taken alone, or has left a sequence of the E-unit at word 3 (R118, R119). -/
def hLed (w : W32) (l : Lead) : Holder := res { th9 with pcE := 3, lead := l, code := List.replicate 3 0 ++ [w], lq := [7] }
theorem witness_ControlTransfers_behind_a_jump : let w := BitVec.ofNat 32 ((encode (.jmp 6)).getD 0)
    let h := hLed w { jumps := 1 }
    (st h).h? 1 = some h ∧ h.runs = true ∧ h.th.mayIssue = false ∧ h.th.asleep = false ∧ h.th.ahead = some false ∧ h.th.atLeft = false ∧
    decodeWord (h.th.word h.th.pcE).toNat = .ok (.jmp 6) := by
  refine ⟨rfl, by decide +kernel, by decide +kernel, rfl, by decide +kernel, by decide +kernel, okEq (by decide +kernel)⟩
theorem witness_ControlTransfers_left : let ins : Instr := .addE ⟨3, 0, 2, false, true, false⟩
    let h := hLed (BitVec.ofNat 32 ((encode ins).getD 0)) { words := 1, pops := 1 }
    (st h).h? 1 = some h ∧ h.runs = true ∧ h.th.mayIssue = false ∧ h.th.asleep = false ∧ h.th.ahead = some false ∧ h.th.lead.words ≠ 0 ∧
    h.th.eSeq h.th.pcE = some (1, 1, 0) ∧ decodeWord (h.th.word h.th.pcE).toNat = .ok ins ∧
    ∃ t g, exec ins ({ st h with cur := 1 }.setH 1 { h with th := h.th.asBehind }) = .next t ∧ t.h? 1 = some g ∧ g.th.pcE ≠ h.th.pcE := by
  refine ⟨rfl, by decide +kernel, by decide +kernel, rfl, by decide +kernel, by decide, by decide +kernel, okEq (by decide +kernel), _, _, rfl, rfl, by decide +kernel⟩
theorem witness_ControlTransfers_leaves : let t : Thread := { th9 with code := List.replicate 9 0 ++ [BitVec.ofNat 32 ((encode (.addE ⟨3, 0, 2, false, true, false⟩)).getD 0)], lq := [7] }
    t.ahead ≠ some true ∧ t.pfx.len = 0 ∧ t.wait = .none ∧ t.resume = none ∧ t.lead.even = false ∧ t.eSeq t.pcA = some (1, 1, 0) ∧ t.lead.pops + 1 ≤ t.lq.length ∧
    t.sq.length + t.lead.pushes + 0 ≤ 16 := by decide +kernel
theorem witness_ControlTransfers_jump_ahead : (st (hLed 0 { words := 1 })).me? = some (hLed 0 { words := 1 }) ∧ (hLed 0 { words := 1 }).th.ahead = some false := by decide +kernel
theorem witness_ControlTransfers_jump : s9.me? = some h9 ∧ 0 ≤ (h9.th.pc : Int) + (4086 : BitVec 26).toInt ∧
    (h9.th.pc : Int) + (4086 : BitVec 26).toInt ≤ 4095 ∧ (h9.th.a 0).toNat ≤ 4095 := by decide +kernel
theorem witness_ControlTransfers_out_of_range : ∃ p ∈ branchTable, s9.me? = some h9 ∧ handles s9 h9 ∧
    p.2.2 (h9.th.get p.1 0) (h9.th.get p.1 0) = true ∧ (h9.th.pc : Int) + (-10) < 0 ∧ 4095 < (h9.th.pc : Int) + (4087 : BitVec 26).toInt :=
  ⟨_, List.mem_cons_self, rfl, handles9, by decide, by decide +kernel, by decide +kernel⟩
theorem witness_ControlTransfers_register_out_of_range : (st (hA [(2, 4096)])).me? = some (hA [(2, 4096)]) ∧ 4095 < ((hA [(2, 4096)]).th.a 2).toNat := by decide +kernel

/-- The scratchpad address of byte `off` of the region's first cell (R288). -/
def spA (off : Nat) : W64 := BitVec.ofNat 64 (2 ^ 60 + off)
/-- Register 2 holds the last aligned scratchpad word, register 3 a value. -/
def hM : Holder := hA [(2, spA 0xFFFF8), (3, 5)]
/-- Where register 2 points. -/
def pM : Place := ⟨0, 0xFFFF8, 0⟩
/-- Register 2 holds an odd address. -/
def misaligned : Holder := hA [(2, spA 0xFFFF9)]

theorem witness_LoadsReadTheirBytes_load : ∃ p ∈ loadTable, ∃ f : I3, ∃ l v psn, (st hM).me? = some hM ∧ hM.th.wait = .none ∧
    walkFree (st hM) hM (accAddr hM.th f.a f.imm) ∧ ¬ combines (st hM) hM (accAddr hM.th f.a f.imm) pM ∧ (accAddr hM.th f.a f.imm).toNat % p.1 = 0 ∧
    resolveCt (st hM) hM (accAddr hM.th f.a f.imm) true false = .ok (pM, st hM) ∧ loadBarred (st hM) hM = false ∧
    (st hM).ownPending hM.agent pM = false ∧ bestGoes (st hM) hM 0 false pM = true ∧ (st hM).lineAt hM.id.die pM = some l ∧
    (st hM).readAs hM.id.inst .ct pM l = (v, psn) ∧ poisonedAt psn (pM.addr % 64) p.1 = false ∧ hM.th.lq.length < 16 :=
  ⟨_, List.mem_cons_self, ⟨0, 2, 0⟩, (0, 0), 0, 0, rfl, rfl, fun _ => by decide +kernel, fun c => absurd c.1 (by decide), by decide +kernel, okEq (by decide +kernel), by decide +kernel, by decide +kernel, by decide +kernel, by decide +kernel, by decide +kernel, by decide +kernel, by decide⟩
theorem witness_LoadsReadTheirBytes_unfenced : ∀ x ∈ (st hM).unf, x.inst ≠ 1 := by decide
theorem witness_LoadsReadTheirBytes_offset : resolveCt (st hM) hM (accAddr hM.th 2 0) true false = .ok (pM, st hM) := okEq (by decide +kernel)
theorem witness_LoadsReadTheirBytes_line : ∃ v psn, atOnce (st hM) pM ∧ (st hM).lineAt 0 pM = some (v, psn) ∧ pM.addr % 64 + 8 ≤ 64 :=
  ⟨0, 0, Or.inl rfl, by decide +kernel, by decide⟩
theorem witness_StoresWriteTheirBytes_store : ∃ p ∈ storeTable, ∃ f : I3, (st hM).me? = some hM ∧ walkFree (st hM) hM (accAddr hM.th f.a f.imm) ∧ (accAddr hM.th f.a f.imm).toNat % p.1 = 0 ∧ cowFree (st hM) hM (accAddr hM.th f.a f.imm) ∧
    resolveCt (st hM) hM (accAddr hM.th f.a f.imm) false true = .ok (pM, st hM) ∧ bestGoes (st hM) hM 0 true pM = true ∧ pM.addr % 64 + p.1 ≤ 64 ∧ atOnce (st hM) pM ∧
    Memory.wf (placeBytes (st hM) pM) = true ∧ p.2.1 = false :=
  ⟨_, List.mem_cons_self, ⟨3, 2, 0⟩, rfl, fun _ => by decide +kernel, by decide +kernel, fun _ => by decide +kernel, okEq (by decide +kernel), by decide +kernel, by decide +kernel, Or.inl rfl, rfl, rfl⟩
theorem witness_AtomicsReadModifyWriteOneWord : ∃ p ∈ atomicTable, ∃ f : RA, ∃ v psn, (st hM).me? = some hM ∧ hM.th.wait = .none ∧ f.qd = false ∧ f.qb = false ∧
    walkFree (st hM) hM (hM.th.a f.a) ∧ (hM.th.a f.a).toNat % p.1 = 0 ∧ cowFree (st hM) hM (hM.th.a f.a) ∧
    resolveCt (st hM) hM (hM.th.a f.a) true true = .ok (pM, st hM) ∧ bestGoes (st hM) hM 0 true pM = true ∧ pM.addr % 64 + p.1 ≤ 64 ∧ atOnce (st hM) pM ∧
    Memory.wf (placeBytes (st hM) pM) = true ∧ (st hM).lineAt hM.id.die pM = some (v, psn) ∧
    poisonedAt psn (pM.addr % 64) p.1 = false :=
  ⟨_, List.mem_cons_self, ⟨4, 2, 3, false, false⟩, 0, 0, rfl, rfl, rfl, rfl, fun _ => by decide +kernel, by decide +kernel, fun _ => by decide +kernel, okEq (by decide +kernel), by decide +kernel, by decide +kernel, Or.inl rfl, rfl, by decide +kernel, by decide +kernel⟩
theorem witness_MisalignedAccessesTrapAlign : (st misaligned).me? = some misaligned ∧ ctAccepted (st misaligned) misaligned = true ∧ misaligned.th.sys.en = true ∧ misaligned.th.sys.inh = false ∧
    misaligned.th.wait = .none ∧ (accAddr misaligned.th 2 0).toNat % 2 ≠ 0 ∧ misaligned.th.lq.length < 16 ∧ (misaligned.th.a 2).toNat % 4 ≠ 0 := by decide +kernel
theorem witness_TrapEntry_trap : s9.me? = some h9 ∧ handles s9 h9 := ⟨rfl, handles9⟩
theorem witness_TrapEntry : s9.me? = some h9 ∧ ctAccepted s9 h9 = true ∧ h9.th.sys.en = true ∧ h9.th.sys.inh = false ∧ 255 < 256 ∧ 1023 < 1024 ∧ h9.th.pc < 4096 := by decide +kernel
theorem witness_TrapReturn_handler : (st hIn).me? = some hIn ∧ ctAccepted (st hIn) hIn = true ∧ hIn.th.sys.inh = true ∧ hIn.th.sys.epc.toNat ≤ 4095 ∧
    hIn.th.sys.repst.getLsbD 15 = false := by decide +kernel
theorem witness_TrapReturn_both : s9.me? = some h9 ∧ ctAccepted s9 h9 = true ∧ h9.th.sys.en = true ∧ h9.th.sys.inh = false ∧ cILL ≠ cTRAP ∧ h9.th.pc ≤ 4095 ∧
    h9.th.pfx.rep = none ∧ h9.th.sys.repst.getLsbD 15 = false := by decide +kernel
theorem witness_SpecialRegisters : s9.me? = some h9 ∧ (13 : Reg).val ≤ 13 ∧ h9.th.lq.length < 16 := by decide +kernel
theorem witness_SpecialRegisters_write : s9.me? = some h9 ∧ 6 ≤ (6 : Reg).val ∧ (10 : Reg).val ≤ 10 ∧ h9.th.sq.length < 16 ∧
    h9.th.pfx.rep = none := by decide +kernel
/-- A sleeping thread with WAKE set. -/
def hZ : Holder := res { th9 with asleep := true, sys := { th9.sys with wake := true } }
theorem witness_NopSleepWakeAndHalt_sleep : s9.me? = some h9 ∧ h9.th.asleep = false ∧ h9.th.sys.wake = false := by decide +kernel
theorem witness_NopSleepWakeAndHalt_no_sleep : (st (res { th9 with sys := { th9.sys with wake := true } })).me? = some (res { th9 with sys := { th9.sys with wake := true } }) := by decide +kernel
theorem witness_NopSleepWakeAndHalt_wake : (st hZ).me? = some hZ ∧ hZ.runs = true ∧ hZ.th.asleep = true ∧ hZ.th.sys.wake = true ∧ hZ.ev.parity = false := by decide +kernel
theorem witness_NopSleepWakeAndHalt_halt : s9.me? = some h9 ∧ ctAccepted s9 h9 = true ∧ h9.id.kind = .named ∧ s9.cur = 1 := by decide +kernel
/-- The holder is an instance, of a thread with a handler or in one, that is owed an answer or not. -/
def hInst (t : Thread) (due : Bool) : Holder := { res t with id := { inst := 1, pid := 5, kind := .callee }, ev := { rollDue := due } }
theorem witness_NopSleepWakeAndHalt_instance : (st (hInst th9 false)).me? = some (hInst th9 false) ∧ ctAccepted (st (hInst th9 false)) (hInst th9 false) = true ∧
    (hInst th9 false).id.kind = .callee ∧ canSave (st (hInst th9 false)) (hInst th9 false) = true ∧ canSave (st (hInst th9 true)) (hInst th9 true) = false := by decide +kernel
theorem witness_TrapReturn_unhandled : ∀ t ∈ [{ th9 with sys := {} }, hIn.th], ∀ due : Bool, (st (hInst t due)).me? = some (hInst t due) ∧ ctAccepted (st (hInst t due)) (hInst t due) = true ∧
    (t.sys.en = false ∨ t.sys.inh = true) ∧ canSave (st (hInst t due)) (hInst t due) = !due := by decide +kernel
/-- After an EXT. -/
def hX : Holder := res { th9 with pfx := { ext := some 1, hi := some 1, len := 1 } }
theorem witness_PrefixedSequences_first : s9.me? = some h9 ∧ h9.th.pfx.ext = none ∧ h9.th.pfx = {} ∧ h9.th.resume = none := by decide +kernel
theorem witness_PrefixedSequences_second : (st hX).me? = some hX ∧ ctAccepted (st hX) hX = true ∧ hX.th.sys.en = true ∧ hX.th.sys.inh = false ∧ hX.th.pfx.ext ≠ none ∧ hX.th.pfx.len ≠ 0 := by decide +kernel
theorem witness_PrefixedSequences_repeats : ({ rep := some (3, 0x18), idx := 2, len := 1 } : Pfx).rep = some (3, 0x18) ∧ 2 < 3 ∧ 3 ≤ 3 := by decide

/-- A CT store to a Cellar line that is not durable yet. -/
def pendCt : Pending := { id := 1, agent := .holder 1, line := 0x40000000000 }
/-- A state in which it is pending. -/
def sPend (h : Holder) : State := { st h with dies := [{ m := { pend := [pendCt] } }, {}, {}, {}] }
theorem witness_FencesAndEpochs_accepted : s9.me? = some h9 ∧ s9.pendings = [] ∧ durablePending s9 h9.agent = [] := by decide +kernel
theorem witness_FencesAndEpochs_pending : (sPend h9).me? = some h9 ∧ pendCt ∈ (sPend h9).pendings ∧ pendCt ∈ durablePending (sPend h9) h9.agent ∧
    pendCt.agent = h9.agent ∧ pendCt.cls = .ct ∧ maskHas (1 : BitVec 6) .ct = true := by decide +kernel

/-- Page tables that map 4 GiB at address 0 to the first of HBM, and 4 GiB after it to the Cellar tier (R354, R355). -/
def tables : List (Nat × Byte) := [(0x800, 0x01), (0x801, 0x10), (0x1000, 0x2F), (0x1008, 0x6F), (0x100C, 0x01), (0x100D, 0x02)]
/-- A state of process 5 with those tables, and more bytes after them. -/
def stB (h : Holder) (more : List (Nat × Byte)) : State :=
  { st h with mem := { bytes := tables ++ more }, pkg := { ctxs := [(5, { ptroot := 0x800 })], nextInst := 2, recov := [(1, {})] } }
/-- The same without more bytes. -/
def stV (h : Holder) : State := stB h []
/-- An HBM line past the tables, and the holder that points at it. -/
def pV : Place := ⟨1, 0x2000, 0⟩
def hV : Holder := hA [(2, 0x2000), (3, 5), (4, 0x100000000)]
theorem witness_StoresWriteTheirBytes_pending : ∃ p ∈ storeTable, ∃ f : I3, ∃ pl, (stV hV).me? = some hV ∧ walkFree (stV hV) hV (accAddr hV.th f.a f.imm) ∧ (accAddr hV.th f.a f.imm).toNat % p.1 = 0 ∧
    cowFree (stV hV) hV (accAddr hV.th f.a f.imm) ∧ hV.th.wait = .none ∧ bestGoes (stV hV) hV 0 true pl = true ∧
    resolveCt (stV hV) hV (accAddr hV.th f.a f.imm) false true = .ok (pl, stV hV) ∧ pl.kind = 3 ∧ canIssue (stV hV) hV pl ∧ entered (stV hV) hV pl ∧ p.2.1 = false :=
  ⟨_, List.mem_cons_self, ⟨3, 4, 0⟩, ⟨3, 0x20100000000, 0⟩, rfl, fun _ => by decide +kernel, by decide +kernel, fun _ => by decide +kernel, rfl, by decide +kernel, okEq (by decide +kernel), rfl, ⟨Or.inl rfl, Or.inl (Or.inl rfl), by decide⟩, Or.inl rfl, rfl⟩
/-- A first durable store finds entry 64 of the recovery page (R326). -/
theorem witness_StoresWriteTheirBytes_first : ¬ entered (st hV) hV ⟨3, 0x20100000000, 0⟩ ∧ recovPick (st hV) 0 = some 64 := by
  constructor
  · rintro (h | h)
    · exact absurd h (by decide)
    · exact absurd h.1 (by decide)
  · decide +kernel
/-- The word of an HBM chain at 8 GiB, and the holder that points at it. -/
def hW : Holder := hA [(2, 0x200000000), (3, 5)]
def pW (off : Nat) : Place := ⟨4, off, 0⟩
def sW4 (h : Holder) (c : Chain) : State :=
  { st h with mem := { bytes := [(0x800, 0x01), (0x801, 0x10), (0x1000, 0x2F), (0x1010, 0x8F)] }
              pkg := { ctxs := [(5, { ptroot := 0x800 })], nextInst := 2, chains := [(0, { c with st := .active, owner := 5, np := 256, links := [{ pb := 0x1000000 }] })] } }
theorem issue4 : canIssue (sW4 hW {}) hW (pW 0) ∧ canIssue (sW4 hW {}) hW (pW 48) :=
  ⟨⟨Or.inr ⟨rfl, by decide +kernel, by decide +kernel⟩, Or.inl (Or.inr ⟨rfl, rfl⟩), by decide⟩,
   ⟨Or.inr ⟨rfl, by decide +kernel, by decide +kernel⟩, Or.inl (Or.inr ⟨rfl, rfl⟩), by decide⟩⟩
theorem witness_StoresWriteTheirBytes_chain : (sW4 hW {}).me? = some hW ∧ walkFree (sW4 hW {}) hW (accAddr hW.th 2 0) ∧ cowFree (sW4 hW {}) hW (accAddr hW.th 2 0) ∧
    resolveCt (sW4 hW {}) hW (accAddr hW.th 2 0) false true = .ok (pW 0, sW4 hW {}) ∧ bestGoes (sW4 hW {}) hW 0 true (pW 0) = true ∧
    canIssue (sW4 hW {}) hW (pW 0) ∧ chainClosing (sW4 hW { closing := some 1 }) 0 = true :=
  ⟨rfl, fun _ => by decide +kernel, fun _ => by decide +kernel, okEq (by decide +kernel), by decide +kernel, issue4.1, by decide +kernel⟩
theorem witness_AtomicsReadModifyWriteOneWord_chain : hW.th.wait = .none ∧ (hW.th.a 2).toNat % 8 = 0 ∧ walkFree (sW4 hW {}) hW (hW.th.a 2) ∧
    cowFree (sW4 hW {}) hW (hW.th.a 2) ∧ resolveCt (sW4 hW {}) hW (hW.th.a 2) true true = .ok (pW 0, sW4 hW {}) ∧ bestGoes (sW4 hW {}) hW 0 true (pW 0) = true ∧
    canIssue (sW4 hW {}) hW (pW 0) ∧ hW.id.inst = (sW4 hW {}).cur := ⟨rfl, by decide +kernel, fun _ => by decide +kernel, fun _ => by decide +kernel, okEq (by decide +kernel), by decide +kernel, issue4.1, rfl⟩
theorem witness_AtomicsReadModifyWriteOneWord_waits : ∀ w ∈ [Wait.store 3, .stored 7], let h : Holder := res { th9 with wait := w, lq := [1], sq := [2] }
    (st h).me? = some h ∧ h.th.wait = w ∧ h.th.lq.length < 16 ∧ h.th.sq ≠ [] := by decide +kernel
/-- Page tables whose first leaf may not be written: a load of it stands at router 0 of its path, and one behind an open entry of its line
is absorbed there; the reply is in the thread (R256, R257). -/
def sClean (c : List Comb) : State :=
  { stV hV with mem := { bytes := [(0x800, 0x01), (0x801, 0x10), (0x1000, 0x27)] }, dies := [{ m := { combs := c } }, {}, {}, {}] }
theorem witness_CleanLoadsCombine : ∀ c ∈ [[], [{ line := 0x80, reqs := [(9, 0, 0, 0)] }]], let s := sClean c
    s.me? = some hV ∧ hV.th.lq.length < 16 ∧ hV.id.inst = s.cur ∧ hV.th.wait = .none ∧ walkFree s hV (accAddr hV.th 2 0) ∧ (accAddr hV.th 2 0).toNat % 8 = 0 ∧
    resolveCt s hV (accAddr hV.th 2 0) true false = .ok (pV, s) ∧ loadBarred s hV = false ∧ s.ownPending hV.agent pV = false ∧ combines s hV (accAddr hV.th 2 0) pV ∧
    portFree s hV 0 false = true ∧ portHeld s hV 0 pV = false ∧ (∀ d ∈ s.dies, ∀ x ∈ d.m.combs, x.reqs ≠ []) ∧
    meets s.acquired (pV.addr / 64) (readPath 0 (hV.id.cellAt 0) pV.addr) = !c.isEmpty := by
  intro c hc
  simp only [List.mem_cons, List.not_mem_nil, or_false] at hc
  rcases hc with rfl | rfl <;> exact ⟨rfl, by decide, rfl, rfl, fun _ => by decide +kernel, by decide +kernel, okEq (by decide +kernel), by decide +kernel, by decide +kernel,
    ⟨Or.inl rfl, by decide +kernel, by decide +kernel⟩, by decide +kernel, by decide +kernel, by decide +kernel, by decide +kernel⟩
/-- A load whose read stands in an entry, absorbed there or not (R257). -/
theorem witness_CleanLoadsCombine_under_way : let h : Holder := res { hV.th with wait := .combined 7 0x2000 }
    let s (l : List Requester) : State := { sClean [{ line := 0x80, reqs := l }] with hold := [(1, h)] }
    (s []).me? = some h ∧ h.id.inst = (s []).cur ∧ h.th.wait = .combined 7 0x2000 ∧ absorbed (s [(9, 0, 0, 0), threadReq 1 7]) (threadReq 1 7) = true ∧
    absorbed (s [threadReq 1 7]) (threadReq 1 7) = false ∧ sliceServes (s [threadReq 1 7]) h 0 ⟨1, 0x2000, 0⟩ = true := by decide +kernel
theorem witness_CleanLoadsCombine_replied : let h : Holder := res { hV.th with wait := .replied 7 0 }
    (st h).me? = some h ∧ h.th.wait = .replied 7 0 ∧ poisonedAt 0 ((accAddr h.th 2 0).toNat % 64) 8 = false ∧ h.th.lq.length < 16 := by decide +kernel
theorem witness_SyncObjects_object : ∃ p v, (stV hV).me? = some hV ∧ hV.th.wait = .none ∧ syncObject (stV hV) hV (hV.th.a 2) 0 false = .ok (p, v, stV hV) ∧
    syncObject (stV hV) hV (hV.th.a 2) 0 true = .ok (p, v, stV hV) ∧ writesOpen (stV hV) hV.agent = [] ∧ p.kind ≠ 4 ∧ p.kind ≠ 0 ∧ atOnce (stV hV) p ∧
    Memory.wf (stV hV).mem.bytes = true :=
  ⟨pV, 0, rfl, rfl, okEq (by decide +kernel), okEq (by decide +kernel), by decide +kernel, by decide, by decide, Or.inr ⟨by decide, by decide, by decide⟩, by decide⟩
/-- An object that binds the first 64 KiB, a store to that range that is pending, and one outside it (R303, R304). -/
def sBound (va : Nat) : State := { stB hV [(0x2008, 8), (0x2010, 1)] with dies := [{ m := { pend := [{ pendCt with va := va }] } }, {}, {}, {}] }
theorem witness_SyncObjects_chain : syncObject (sW4 hW {}) hW (hW.th.a 2) 0 true = .ok (pW 0, 0, sW4 hW {}) ∧ writesOpen (sW4 hW {}) hW.agent = [] ∧ canIssue (sW4 hW {}) hW (pW 48) ∧
    hW.id.inst = (sW4 hW {}).cur := ⟨okEq (by decide +kernel), by decide +kernel, issue4.2, rfl⟩
theorem witness_SyncObjects_waits : ∃ v, (sBound 0x100).me? = some hV ∧ syncObject (sBound 0x100) hV (hV.th.a 2) 0 true = .ok (pV, v, sBound 0x100) ∧
    (∃ x ∈ writesOpen (sBound 0x100) hV.agent, boundData v x.va = true) ∧ ∀ x ∈ writesOpen (sBound 0x10000) hV.agent, boundData v x.va = false :=
  ⟨2 ^ 67 + 2 ^ 128, rfl, okEq (by decide +kernel), by decide +kernel, by decide +kernel⟩
theorem witness_SyncObjects_checks : (st (hA [(2, 32)])).me? = some (hA [(2, 32)]) ∧ (hA [(2, 32)]).th.wait = .none ∧ handles (st (hA [(2, 32)])) (hA [(2, 32)]) ∧
    ((hA [(2, 32)]).th.a 2).toNat % 64 ≠ 0 ∧ (spA 64).toNat / 2 ^ 48 = 0x1000 ∧ (0x2000000000000040 : W64).toNat / 2 ^ 56 = 0x20 ∧ (spA 64).toNat % 64 = 0 := by
  refine ⟨rfl, rfl, ⟨by decide +kernel, by decide, by decide⟩, ?_⟩; decide +kernel
theorem witness_SyncObjects_scope : ∃ v, (stV hV).me? = some hV ∧ resolveCt (stV hV) hV (hV.th.a 2) true false = .ok (pV, stV hV) ∧ addrForm (hV.th.a 2) = .virtual ∧
    (hV.th.a 2).toNat % 64 = 0 ∧ pV.kind ≠ 3 ∧ (stV hV).ownPending hV.agent pV = false ∧ (stV hV).lineAt 0 pV = some (v, 0) ∧ walkFree (stV hV) hV (hV.th.a 2) ∧ bestGoes (stV hV) hV 0 false pV = true ∧ syncOk v.toNat = true ∧
    v.toNat / 2 ^ 64 % 8 ≠ 7 := ⟨0, rfl, okEq (by decide +kernel), by decide +kernel, by decide +kernel, by decide, by decide +kernel, by decide +kernel, fun _ => by decide +kernel, by decide +kernel, by decide, by decide⟩
theorem witness_SignalInstructions : (stV hV).me? = some hV ∧ hV.th.wait = .none ∧ sigPlace (stV hV) hV (hV.th.a 2) true = .ok (pV, stV hV) ∧
    sigPlace (stV hV) hV (hV.th.a 2) false = .ok (pV, stV hV) ∧ writesAccepted (stV hV) hV = true ∧ bestGoes (stV hV) hV 0 true pV = true ∧ bestGoes (stV hV) hV 0 false pV = true ∧ sigWord (stV hV) hV pV = .ok 0 ∧ pV.kind ≠ 4 ∧ pV.kind ≠ 0 ∧
    pV.addr % 8 = 0 ∧ atOnce (stV hV) pV ∧ Memory.wf (stV hV).mem.bytes = true ∧ (hV.th.a 3).toNat < 8 :=
  ⟨rfl, rfl, okEq (by decide +kernel), okEq (by decide +kernel), by decide +kernel, by decide +kernel, by decide +kernel, okEq (by decide +kernel), by decide, by decide, by decide, Or.inr ⟨by decide, by decide, by decide⟩, by decide, by decide +kernel⟩
theorem witness_SignalInstructions_chain : (sW4 hW {}).me? = some hW ∧ hW.th.wait = .none ∧ sigPlace (sW4 hW {}) hW (hW.th.a 2) true = .ok (pW 0, sW4 hW {}) ∧
    writesAccepted (sW4 hW {}) hW = true ∧ bestGoes (sW4 hW {}) hW 0 true (pW 0) = true ∧ canIssue (sW4 hW {}) hW (pW 0) ∧ hW.id.inst = (sW4 hW {}).cur := ⟨rfl, rfl, okEq (by decide +kernel), by decide +kernel, by decide +kernel, issue4.1, rfl⟩
theorem witness_SignalInstructions_open : writesAccepted (sPend hV) hV = false ∧ (sPend hV).me? = some hV := by decide +kernel
theorem witness_SignalInstructions_code : (st (hA [(2, 8)])).me? = some (hA [(2, 8)]) ∧ handles (st (hA [(2, 8)])) (hA [(2, 8)]) ∧ 8 ≤ ((hA [(2, 8)]).th.a 2).toNat :=
  ⟨rfl, ⟨by decide +kernel, by decide, by decide⟩, by decide +kernel⟩

/-- A holder with a port. -/
def hP (p : Nat) (x : Port) : Holder := { h9 with ports := listMod h9.ports p fun _ => x }
/-- Holder 1 with a port to port 15 of holder 2. -/
def hC : Holder := hP 4 { st := .child, peer := 2 }
/-- Its callee. -/
def kid (n : Nat) : Holder := { res {} with
  id := { inst := 2, pid := 5, kind := .callee, parent := 1, callerPort := 4, col := 1 }
  ports := listMod (List.replicate 16 {}) 15 fun _ => { st := .parent, peer := 1, q := List.replicate n (7, false) } }
/-- A state with both. -/
def sC (h k : Holder) : State := { State.reset with hold := [(1, h), (2, k)], cur := 1 }
theorem witness_ChannelPorts_bank : (st hFull).me? = some hFull ∧ handles (st hFull) hFull ∧ 16 ≤ hFull.th.sq.length ∧ (st hLqFull).me? = some hLqFull ∧ handles (st hLqFull) hLqFull ∧ 16 ≤ hLqFull.th.lq.length :=
  ⟨rfl, ⟨by decide +kernel, by decide, by decide⟩, by decide, rfl, ⟨by decide +kernel, by decide, by decide⟩, by decide⟩
theorem witness_ChannelPorts_push : (sC hC (kid 15)).me? = some hC ∧ h9.th.sq = [] ∧ (hC.port 4).st = .child ∧ peerOf hC 4 = (2, 15) ∧
    2 ≠ (sC hC (kid 15)).cur ∧ (sC hC (kid 15)).h? 2 = some (kid 15) ∧ 15 < (kid 15).ports.length ∧ ((kid 15).port 15).q.length < 16 ∧ reaches (sC hC (kid 15)) 0 (kid 15).id.die = true := by decide +kernel
theorem witness_ChannelPorts_push_full : (sC hC (kid 16)).h? 2 = some (kid 16) ∧ 16 ≤ ((kid 16).port 15).q.length := by decide +kernel
theorem witness_ChannelPorts_push_dropped : (st hC).me? = some hC ∧ (hC.port 4).st = .child ∧ (st hC).h? (peerOf hC 4).1 = none ∧
    ((hP 4 { st := .closed }).port 4).st = .closed := by decide +kernel
theorem witness_ChannelPorts_traps : s9.me? = some h9 ∧ handles s9 h9 ∧ (h9.port 4).st = .free ∧ (h9.port 4).q = [] ∧ ((hP 4 { st := .recv }).port 4).st = .recv :=
  ⟨rfl, handles9, by decide, by decide, by decide⟩
theorem witness_ChannelPorts_pop : ∃ w rest, ((hP 4 { st := .closed, q := [(7, false)] }).port 4).q = (w, false) :: rest ∧
    ((hP 4 { st := .closed, q := [(7, true)] }).port 4).q = (w, true) :: rest ∧ h9.th.lq = [] ∧
    (st (hP 4 { st := .closed, q := [(7, false)] })).me? = some (hP 4 { st := .closed, q := [(7, false)] }) := ⟨7, [], rfl, rfl, rfl, rfl⟩
theorem witness_MessageInstructions_send : (st (hA [(2, 2)])).me? = some (hA [(2, 2)]) ∧ (hA [(2, 2)]).th.wait = .none ∧ ((hA [(2, 2)]).th.a 2).toNat / 2 ^ 48 = 0 ∧
    ((hA [(2, 0x8000000000000)]).th.a 2).toNat / 2 ^ 48 % 2 ^ 11 = 8 ∧ ((hA [(2, 0x8000000000000)]).th.a 2).toNat / 2 ^ 59 % 2 = 0 ∧
    ((hA [(2, 0x800000000000000)]).th.a 2).toNat / 2 ^ 59 = 1 ∧ State.reset.host.podid.getLsbD 63 = false := by decide +kernel
/-- A holder with messages and receives. -/
def hR (n : Nat) (r : List Msg) : Holder := { hA [(2, 1), (3, 8)] with recvs := List.replicate n {}, oflow := r }
theorem witness_MessageInstructions_post : (st (hR 31 [])).me? = some (hR 31 []) ∧ (hR 31 []).th.wait = .none ∧ (hR 31 []).id.inst = (st (hR 31 [])).cur ∧
    (hR 31 []).ports.length = 16 ∧ (hR 31 []).recvs.length < 32 ∧ ((hR 31 []).port 4).usable = true ∧ 1 ≤ ((hR 31 []).th.a 3).toNat ∧
    ((hR 31 []).th.a 3).toNat ≤ 8 ∧ (hR 31 []).oflow = [] ∧ 8 < ((hA [(3, 9)]).th.a 3).toNat ∧ ((hA []).th.a 3).toNat < 1 := by decide +kernel
theorem witness_MessageInstructions_full : 32 ≤ (hR 32 []).recvs.length ∧ (hC.port 4).usable = false := by decide +kernel
theorem witness_MessageInstructions_match : ∃ l1 l2 x, (hR 0 [{ src := 2, words := [9] }]).oflow = l1 ++ x :: l2 ∧ l1 = [] ∧ (h9.port 4).q = [] ∧
    ({ src := 2 } : Recv).matches x = true := ⟨[], [], _, rfl, rfl, by decide, by decide +kernel⟩

/-- A holder whose copies are in a given state. -/
def hB (l : List Copy) : Holder := res { th9 with copies := l }
theorem witness_BulkCopyInstructions_none_free : ∀ x ∈ (hB (List.replicate 16 { st := .busy })).th.copies, x.st ≠ .free := by decide +kernel
theorem witness_BulkCopyInstructions_one_free : ∃ l1 l2 x, (hB (List.replicate 15 { st := .busy } ++ [({} : Copy)])).th.copies = l1 ++ x :: l2 ∧ (∀ y ∈ l1, y.st ≠ .free) ∧
    x.st = .free ∧ (hB (List.replicate 15 { st := .busy } ++ [({} : Copy)])).th.copies.length ≤ 16 := ⟨List.replicate 15 { st := .busy }, [], {}, rfl, by decide, rfl, by decide⟩
theorem witness_BulkCopyInstructions_checks : bcopyCheck h9 0x2000 0x3000 64 = 0 ∧ bcopyCheck h9 0x2000 0x3000 0 ≠ 0 := by decide +kernel
theorem witness_BulkCopyInstructions_wait : s9.me? = some h9 ∧ h9.th.copies.length = 16 ∧ (∀ i < 16, (h9.th.copies.getD i {}).st = .free) ∧
    ((hB ({ st := .busy } :: List.replicate 15 ({} : Copy))).th.copies.getD 0 {}).st = .busy ∧ 16 < ((hA [(2, 17)]).th.a 2).toNat ∧
    ((hB (List.replicate 15 ({} : Copy) ++ [{ st := .failed 64 }])).th.copies.getD 15 {}).st = .failed 64 := by decide +kernel

/-- A holder with one unbound endpoint, base in register 2, extent in 3, rate in 4. -/
def hE (rate ext : W64) (e : Ep) : Holder := { hA [(2, 0x2000), (3, ext), (4, rate)] with eps := [e] }
theorem witness_BindingsAndPhases_bind : (st (hE 65536 0x10000000000 {})).me? = some (hE 65536 0x10000000000 {}) ∧ (hE 65536 0x10000000000 {}).id.inst = 1 ∧
    epField (hE 65536 0x10000000000 {}).th 0 < (hE 65536 0x10000000000 {}).eps.length ∧ ((hE 65536 0x10000000000 {}).ep 0).bind = none ∧ (hE 65536 0x10000000000 {}).th.sys.run = false ∧
    ((hE 65536 0x10000000000 {}).th.a 2).toNat % 64 = 0 ∧ ((hE 65536 0x10000000000 {}).th.a 3).toNat = 2 ^ 40 ∧
    addrForm ((hE 65536 0x10000000000 {}).th.a 2) = .virtual := by decide +kernel
theorem witness_BindingsAndPhases_bind_refused : h9.eps.length ≤ epField h9.th 0 ∧ ((hE 0 64 { bind := some {} }).ep 0).bind ≠ none ∧ ((hE 0 0 {}).th.a 3).toNat = 0 ∧
    ((hE 65537 64 {}).th.a 4).toNat = 65537 := by decide +kernel
/-- An endpoint at the host port whose base is in host range 0, which admits 64 bytes (R229, R293). -/
theorem witness_BindingsAndPhases_fits : ∀ c ∈ chargesOf (st (hE 1 64 {})) (hE 1 64 {}) 0 0x2000 64 1, (st (hE 1 64 {})).pkg.res.getD c.1 0 + c.2 ≤ resBudget c.1 := by decide +kernel
/-- A holder whose phase runs. -/
def hRun (e : Ep) : Holder := { res { th9 with sys := { th9.sys with run := true } } with eps := [e] }
theorem witness_BindingsAndPhases_phase : s9.me? = some h9 ∧ h9.th.sys.run = false ∧ (hRun {}).th.sys.run = true ∧ (st (hRun {})).me? = some (hRun {}) ∧
    epField (hRun {}).th 0 < (hRun {}).eps.length ∧ ((hRun {}).ep 0).gr.out = false ∧ ((hRun {}).ep 0).eosOut = false ∧ ((hRun {}).ep 0).seos = false ∧
    ((hRun { gr := { out := true } }).ep 0).gr.out = true := by decide +kernel
theorem witness_BindingsAndPhases_frames : let h : Holder := { hA [(2, 32), (3, 4096)] with eps := [{}] }
    (st h).me? = some h ∧ (h.th.a 3).toNat = 4096 ∧ (h.th.a 2).toNat % 32 = 0 ∧ (h.ep 0).queued + 4096 = 4096 ∧ h.th.sys.run = false ∧ epField h.th 0 < h.eps.length := by decide +kernel
theorem witness_BindingsAndPhases_frames_over : 4096 < ((hE 0 64 { scfg := [(32, 1)] }).ep 0).queued + 4096 := by decide +kernel

/-- A holder of one cell with tag entries, register 2 a key, register 3 a selector of that cell, register 4 a value for TPIN. -/
def hT (tags : Tbl TagEnt) (key sel : W64) : Holder := { hA [(2, key), (3, sel), (4, 1)] with dp := { cells := [{ tags := tags }] } }
/-- Every entry of a table valid and pinned, with the given pin of entry 255. -/
def fullTags (pin : Bool) : Tbl TagEnt := (List.range 256).map fun i => (i, { valid := true, pin := pin || i != 255, key := BitVec.ofNat 48 (i + 1) })
theorem witness_TagInstructions_cell : (st (hT [] 9 0)).me? = some (hT [] 9 0) ∧ 0 < (hT [] 9 0).id.h ∧ 0 < (hT [] 9 0).id.w ∧ 0 * 1 + 0 < (hT [] 9 0).dp.cells.length ∧
    ((hT [] 9 0).th.a 3).toNat = 0 * 2 ^ 16 + 0 * 16 + 0 ∧ ((hT [] 0xFFFFFFFFFFFF 0xFF0000).th.a 2).toNat < 2 ^ 48 ∧
    ((hT [] 9 0xFF0000).th.a 3).toNat = 255 * 2 ^ 16 + 0 * 16 + 0 ∧ ((hT [] 9 0).th.a 4).toNat < 2 := by decide +kernel
theorem witness_TagInstructions_found : (((hT [(7, { valid := true, key := 9 })] 9 0).cell 0).tag 7).valid = true ∧ (((hT [(7, { valid := true, key := 9 })] 9 0).cell 0).tag 7).key.toNat = 9 ∧
    ∀ i < 7, (((hT [(7, { valid := true, key := 9 })] 9 0).cell 0).tag i).valid = false := by decide +kernel
theorem witness_TagInstructions_none : ∀ i < 256, (((hT [] 9 0).cell 0).tag i).valid = false := by decide +kernel
theorem witness_TagInstructions_oldest : let x := (hT (fullTags false) 0 0).cell 0
    (∀ i < 256, (x.tag i).key.toNat ≠ 0 ∧ (x.tag i).valid = true) ∧ (x.tag 255).pin = false ∧ ∀ i < 255, (x.tag i).pin = true := by decide +kernel
theorem witness_TagInstructions_pinned : let x := (hT (fullTags true) 0 0).cell 0
    ∀ i < 256, (x.tag i).key.toNat ≠ 0 ∧ (x.tag i).valid = true ∧ (x.tag i).pin = true := by decide +kernel
theorem witness_TagInstructions_outside : let v := ((hT [] 9 0x10).th.a 3).toNat
    v / 2 ^ 9 % 2 ^ 7 = 0 ∧ v / 2 ^ 24 = 0 ∧ (hT [] 9 0).id.w ≤ v / 2 ^ 4 % 2 ^ 5 := by decide +kernel

/-- Page tables for the top 4 GiB too, a function table of one entry at 0x4000, and an arena of four blocks from block 1. -/
def system : List (Nat × Byte) :=
  [(0x800, 0x01), (0x801, 0x10), (0xFF8, 0x01), (0xFF9, 0x18), (0x1000, 0x2F), (0x1008, 0x6F), (0x100C, 0x01), (0x100D, 0x02), (0x1FF8, 0x2F), (0x1FFC, 0x01)]
/-- The function's entry: one word of code, one argument, no result, a region of one cell. -/
def fnEntry : List (Nat × Byte) := [(0x403C, 1), (0x403E, 1), (0x4050, 1), (0x4051, 1), (0x4053, 1)]
/-- The arena's three words. -/
def arenaWords : List (Nat × Byte) := [(0x1FFFF2002, 1), (0x1FFFF2008, 4), (0x1FFFF2011, 0x30)]
/-- A state of process 5 with those, and more bytes between. -/
def stS (h : Holder) (more : List (Nat × Byte)) (arena : List (Nat × Byte)) : State :=
  { st h with mem := { bytes := system ++ more ++ fnEntry ++ arena }
              pkg := { ctxs := [(5, { ptroot := 0x800, ftab := 0x4000, ftabn := 1 })], nextInst := 2, recov := [(1, {})] } }
/-- The function as read. -/
def fn1 : FnEntry := { nargs := 1 }
/-- A holder that binds host range. -/
def hHost : Holder := { hA [(2, 0x2000000000000000), (3, 64), (4, 1)] with eps := [{ gr := { place := .port 0 0 0 } }] }
theorem witness_BindingsAndPhases_host : ∃ a, addrForm (hHost.th.a 2) = .hostRange ∧ hostBind (stS hHost [] [(0x1FFFF0008, 64), (0x1FFFF0018, 3)]) hHost 0 0x2000000000000000 64 = some a ∧
    hostBind (st hHost) hHost 0 0x2000000000000000 64 = none := ⟨0, by decide +kernel, by decide +kernel, by decide +kernel⟩
theorem witness_RegionsAndFork_alloc : let h := hA [(2, 65536)]
    (stS h [] arenaWords).me? = some h ∧ 1 ≤ (h.th.a 2).toNat ∧ (h.th.a 2).toNat ≤ 2 ^ 36 ∧ (h.th.a 3).toNat ≤ 16 ∧ h.regions.length < 16 ∧
    arena (stS h [] arenaWords) 5 = some (0x10000, 4, 0x3000) ∧ arena (stS h [] []) 5 = none ∧ (0x10000 / 65536 + 0) % 2 ^ 0 = 0 ∧
    blockUsed (stS h [] arenaWords) 5 0x3000 0 = false ∧ (hA []).th.a 2 = 0 := by decide +kernel
theorem witness_RegionsAndFork_no_run : let h := hA [(2, 5 * 65536)]
    arena (stS h [] arenaWords) 5 = some (0x10000, 4, 0x3000) ∧ ∀ i, ¬ i + ((h.th.a 2).toNat + 65535) / 65536 ≤ 4 := by
  refine ⟨by decide +kernel, fun i hi => ?_⟩
  have e : ((hA [(2, 5 * 65536)]).th.a 2).toNat = 327680 := by decide +kernel
  simp only [e] at hi; omega
theorem witness_RegionsAndFork_free : let h : Holder := { hA [(2, 65536)] with regions := [(1, 1)] }
    (stS h [] arenaWords).me? = some h ∧ h.regions = [] ++ (1, 1) :: [] ∧ 1 * 65536 = (h.th.a 2).toNat ∧ writesAccepted (stS h [] arenaWords) h = true ∧
    writesAccepted { stS h [] arenaWords with dies := [{ m := { pend := [pendCt] } }, {}, {}, {}] } h = false := by decide +kernel
/-- Copy 4 GiB of the first table entry to the third. -/
def hK : Holder := hA [(2, 0x200000000), (4, 0x100000000)]
theorem witness_RegionsAndFork_fork : ∃ x l, (stS hK [] []).me? = some hK ∧ (hK.th.a 2).toNat % 65536 = 0 ∧ (hK.th.a 4).toNat % 65536 = 0 ∧ (hK.th.a 4).toNat ≤ 2 ^ 40 ∧
    (stS hK [] []).ctx? hK.id.pid = some x ∧ forkLeaves (stS hK [] []) 5 x.ptroot 0x200000000 0 0x100000000 2 0 = .ok l ∧ writesAccepted (stS hK [] []) hK = true ∧
    writesAccepted { stS hK [] [] with dies := [{ m := { pend := [pendCt] } }, {}, {}, {}] } hK = false ∧
    (∀ y ∈ l, frameOpen (stS hK [] []) 5 (2 ^ 32 - 1) y.1 = false) :=
  ⟨_, [(⟨1, 0x1000, true, true, false, 1, 0, 0⟩, 0x1010)], rfl, by decide +kernel, by decide +kernel, by decide +kernel, rfl, okEq (by decide +kernel), by decide +kernel, by decide +kernel, by decide +kernel⟩
/-- A read of a memory unit through that leaf is not answered (R358, R368). -/
theorem witness_RegionsAndFork_fork_open : frameOpen (stS { hK with dp := { cells := [{ ports := [{ rob := [{ req := addrTok 0x100 9 }] }] }] } } [] []) 5 (2 ^ 32 - 1) ⟨1, 0x1000, true, true, false, 1, 0, 0⟩ = true := by decide +kernel

/-- A descriptor of a chain of one backing at 16 MiB, and the holder that makes it. -/
def chainWords : List (Nat × Byte) := [(0x2000, 1), (0x2013, 1)]
def hL : Holder := hA [(2, 0x2000), (3, 1)]
/-- A chain of process 5 with two links, on dies 0 and 1. -/
def chain2 : Chain := { st := .active, links := [{ pb := 0x1000000 }, { die := 1, pb := 0x3000000000 }], np := 1, owner := 5 }
/-- A state in which it is chain 0. -/
def sCh (h : Holder) (c : Chain) : State := { stS h [] [] with pkg := { (stS h [] []).pkg with chains := [(0, c)] } }
theorem witness_ChainInstructions_link : ∃ v x bs, (stS hL chainWords []).me? = some hL ∧ (hL.th.a 3).toNat = 1 ∧ descLine (stS hL chainWords []) hL (hL.th.a 2) = .ok (v, 0) ∧
    chDesc v 0 = some x ∧ x.adopt = false ∧ x.req = false ∧ backings (stS hL chainWords []) 5 1 x = some bs ∧ ((stS hL chainWords []).chain 0).st = .free :=
  ⟨1 + 2 ^ 152, ⟨1, false, false, false, 0, [2 ^ 24]⟩, [2 ^ 24], rfl, by decide +kernel, okEq (by decide +kernel), rfl, rfl, rfl, by decide +kernel, by decide⟩
/-- An orphan on die 0 with that backing; FLAGS asks to adopt it. -/
def orphan (l : List ChainLink) : Chain := { st := .orphan, links := l, np := 1 }
theorem witness_ChainInstructions_adopt : ∃ x, chDesc (1 + 2 ^ 16 + 2 ^ 152) 0 = some x ∧ x.adopt = true ∧ backings (sCh hL (orphan [])) 5 1 x = some [2 ^ 24] ∧
    ((sCh hL (orphan [])).chain x.id).st = .orphan ∧ ((sCh hL (orphan [])).chain x.id).links.map (·.pb) ≠ [2 ^ 24] ∧
    ((sCh hL (orphan [{ pb := 2 ^ 24 }])).chain x.id).cellar = x.cellar ∧ ((sCh hL (orphan [{ pb := 2 ^ 24 }])).chain x.id).links.map (·.pb) = [2 ^ 24] :=
  ⟨⟨1, false, true, false, 0, [2 ^ 24]⟩, rfl, rfl, by decide +kernel, by decide, by decide, rfl, rfl⟩
theorem witness_ChainInstructions_link_refused : chDesc 0 0 = none ∧ chDesc 1 1 = none ∧ (hA [(3, 4097)]).th.a 3 = 4097 ∧ ((stS hL [] []).chain 0).st ≠ .orphan ∧
    backings (stS hL [] []) 5 1 ⟨1, false, false, false, 0, [2 ^ 24 + 64]⟩ = none ∧ descLine (stS (hA [(2, 0x2001)]) [] []) (hA [(2, 0x2001)]) ((hA [(2, 0x2001)]).th.a 2) = .error (.trap cALIGN 0) ∧
    descLine { stS hV [] [] with dies := [{ m := { pend := [{ pendCt with line := 0x20100000000 }] } }, {}, {}, {}] } hV (hV.th.a 4) = .error .wait := by
  refine ⟨rfl, rfl, by decide +kernel, by decide +kernel, by decide +kernel, ?_, ?_⟩ <;> rfl
theorem witness_ChainInstructions_state : (sCh h9 chain2).me? = some h9 ∧ (h9.th.a 2).toNat = 0 ∧ ((sCh h9 chain2).chain 0).st ≠ .free ∧ ((sCh h9 chain2).chain 0).owner = h9.id.pid ∧
    (sCh h9 chain2).pendings = [] ∧ (∀ l ∈ ((sCh h9 chain2).chain 0).links, l.dirty = [] ∧ l.fwd = [] ∧ l.acks = []) ∧ ((sCh h9 chain2).chain 0).busy = false ∧
    chainHeld (sCh h9 chain2) h9 0 = false ∧ chainHeld { sCh h9 { chain2 with closing := some 2 } with hold := [(1, h9), (2, h9)] } h9 0 = true := by decide +kernel
theorem witness_ChainInstructions_busy : ((sCh h9 { chain2 with cand := some {} }).chain 0).busy = true ∧ ((sCh h9 { chain2 with links := [{ dirty := [{}] }] }).chain 0).links ≠ [] := by decide +kernel
/-- A chain whose only link is on die 1, and the holder that adds a link at 16 MiB. -/
def hD : Holder := hA [(3, 0x1000000)]
theorem witness_ChainInstructions_add : let s := sCh hD { chain2 with links := [{ die := 1, pb := 0x3000000000 }] }
    s.me? = some hD ∧ (hD.th.a 3).toNat < 2 ^ 48 ∧ backing s 5 0x1000000 1 false = some 0x1000000 ∧ (s.chain 0).busy = false ∧
    (∀ l ∈ (s.chain 0).links, l.die ≠ dieOfPa 0x1000000) ∧ (s.chain 0).links.length ≠ 4 ∧ chainHeld s hD 0 = false := by decide +kernel
theorem witness_ChainInstructions_drop : let s := sCh (hA [(3, 1)]) chain2
    s.me? = some (hA [(3, 1)]) ∧ ((hA [(3, 1)]).th.a 3).toNat = 1 ∧ (s.chain 0).links = [{ pb := 0x1000000 }] ++ ({ die := 1, pb := 0x3000000000 } : ChainLink) :: [] ∧
    (s.chain 0).busy = false ∧ (hA [(3, 1)]).th.wait = .none ∧ (hA [(3, 1)]).id.inst = s.cur ∧ chainHeld s (hA [(3, 1)]) 0 = false ∧ dropMay s 0 1 = true := by decide +kernel
/-- A store that the tail of a KIND 1 chain has not taken, behind an epoch that is not done (R325). -/
theorem witness_ChainInstructions_drop_waits : dropMay { sCh h9 { chain2 with cellar := true, links := [{ pb := 0x1000000, dirty := [{ line := 5, ver := 3 }] }, { die := 1, pb := 0x3000000000 }] } with
    dies := [{ m := { pend := [{ pendCt with ch := some 0, line := 320, ver := some 3, epoch := 1 }, { pendCt with id := 2 }] } }, {}, {}, {}] } 0 1 = false := by decide +kernel
/-- A CHDROP whose lines are still being forwarded, and one whose lines have been taken (R318). -/
def hDrop : Holder := res { th9 with wait := .relink 0 0 }
theorem witness_ChainInstructions_relink : (sCh hDrop { chain2 with st := .relink, moving := true }).me? = some hDrop ∧ hDrop.th.wait = .relink 0 0 ∧
    ((sCh hDrop { chain2 with st := .relink, moving := true }).chain 0).epoch.toNat = 0 ∧ ((sCh hDrop { chain2 with st := .relink, moving := true }).chain 0).moving = true ∧
    ((sCh hDrop { chain2 with epoch := 1 }).chain 0).moving = false := by decide +kernel
theorem witness_ChainInstructions_refused : ((sCh h9 chain2).chain 1).st = .free ∧ (hA [(3, 4)]).th.a 3 = 4 ∧ ∀ l ∈ ((sCh h9 chain2).chain 0).links, l.die ≠ 3 := by decide +kernel

/-- A caller in cell (0, 0); the function stands in the Shape Cache. -/
def sCall (h : Holder) : State :=
  { stS h [] [] with mem := { bytes := [(0x800, 0x01), (0x801, 0x10), (0x1000, 0x2F)] ++ fnEntry }
                     dies := [{ p := { shapes := [{ pid := 5, eps := [] }] } }, {}, {}, {}] }
theorem witness_CallInstruction_checks : (sCall h9).me? = some h9 ∧ h9.th.wait = .none ∧ (h9.th.a 2).toNat / 2 ^ 36 = 0 ∧ (h9.port 0).usable = true ∧
    readFt (sCall h9) 5 0 0 = .ok fn1 ∧ ftWaits (sCall h9) 5 0 0 = false ∧ h9.id.kind = .named ∧ (wantOf h9 1 1 0).possible (sCall h9) = true ∧ ((hA [(2, 0x1000000000)]).th.a 2).toNat / 2 ^ 36 ≠ 0 :=
  ⟨rfl, rfl, by decide +kernel, by decide +kernel, okEq (by decide +kernel), by decide +kernel, rfl, by decide +kernel, by decide +kernel⟩
/-- The function is not in the Shape Cache, or its mapping has failed (R336). -/
def sMapping (m : List MapReq) : State := { sCall h9 with dies := [{ p := { maps := m } }, {}, {}, {}] }
theorem witness_CallInstruction_mapping : (∃ s2, shapeFor (sMapping []) 0 5 0 fn1 (0, 1) = .wait s2) ∧ ∃ s2, s2.me? = some h9 ∧
    shapeFor (sMapping [{ pid := 5, cls := fn1.cls, digest := BitVec.ofNat 384 fn1.digest, fail := some (13, 7), waiters := [(0, 1)] }]) 0 5 0 fn1 (0, 1) = .fail 13 7 s2 :=
  ⟨⟨_, rfl⟩, _, rfl, rfl⟩
theorem witness_CallInstruction_no_entry : readFt (sCall h9) 5 0 1 = .error none := rfl
/-- A caller whose memory unit's read is not answered (R421), in a package without a free cell. -/
def hUn : Holder := { hInst th9 false with dp := { cells := [{ ports := [{ rob := [{}] }] }] } }
def sUn : State := { sCall hUn with dies := List.replicate 4 { p := { shapes := [{ pid := 5, eps := [] }], area := (List.range 512).map fun i => (i, { st := 1, owner := 1 }) } } }
/-- The function table stands in a chain that is being re-linked, whose lines must wait (R315, R318). -/
def sFtWait : State := { s9 with mem := { bytes := [(0x800, 0x01), (0x801, 0x10), (0x1000, 0x2F), (0x1010, 0x8F)] }
                                 pkg := { ctxs := [(5, { ptroot := 0x800, ftab := 0x200000000, ftabn := 1 })], chains := [(0, { st := .relink, np := 256, moving := true })] } }
theorem witness_CallInstruction_entry_waits : sFtWait.me? = some h9 ∧ ftWaits sFtWait 5 0 0 = true := by decide +kernel
theorem witness_CallInstruction_waits : sUn.me? = some hUn ∧ hUn.id.kind ≠ .named ∧ findFresh sUn (wantOf hUn 1 1 0) = none ∧ canSave sUn hUn = false ∧ (wantOf hUn 1 1 0).possible sUn = true := by decide +kernel
theorem witness_CallInstruction_claims : ∃ x s1, h9.id.inst = (sCall h9).cur ∧ shapeFor (sCall h9) 0 5 0 fn1 (0, 1) = .hit x s1 ∧
    s1.h? s1.newInst.1 = none ∧ s1.me? = some h9 ∧ (∀ q m, (s1.area q m).st = 2 → (s1.area q m).owner ≠ (sCall h9).cur ∧ (s1.area q m).owner ≠ s1.newInst.1) ∧
    (∀ q, (s1.die q).p.queue = []) ∧ (wantOf h9 1 1 0).find s1 = some (0, 1, 0) := by
  refine ⟨_, _, rfl, rfl, rfl, rfl, fun q m h => ?_, fun q => ?_, by decide +kernel⟩
  · exact absurd h (by match q with | 0 => (exact (by decide : (0 : Nat) ≠ 2)) | 1 => (exact (by decide : (0 : Nat) ≠ 2)) | 2 => (exact (by decide : (0 : Nat) ≠ 2)) | 3 => (exact (by decide : (0 : Nat) ≠ 2)) | n + 4 => (exact (by decide : (0 : Nat) ≠ 2)))
  · match q with | 0 => rfl | 1 => rfl | 2 => rfl | 3 => rfl | n + 4 => rfl
/-- A callee that returns one word from register 2, and its caller. -/
def kidR (x : Thread → Thread) : Holder := { kid 0 with th := x th9, fn := { nres := 1 } }
def sRet (k : Holder) : State := { sC hC k with cur := 2 }
theorem witness_ReturnsAndCancels_return : let s := sRet (kidR id)
    s.me? = some (kidR id) ∧ (kidR id).id.inst = s.cur ∧ (kidR id).id.kind = .callee ∧ (kidR id).fn.nres = 1 ∧ (kidR id).th.sys.run = false ∧
    (∀ c ∈ (kidR id).th.copies, c.st ≠ .busy) ∧ (∀ p ∈ (kidR id).ports, p.st ≠ .child) ∧ (kidR id).regions = [] ∧ (kidR id).saved = {} ∧ (kidR id).fn.foldedOn = none ∧
    Tbl.risingFrom 0 s.hold = true ∧ s.pkg.gangs = [] ∧ s.h? 1 = some hC ∧ 4 < hC.ports.length ∧ (hC.port 4).st = .child ∧ (hC.port 4).peer = 2 ∧ (hC.port 4).q.length + 1 ≤ 16 ∧
    ctAccepted s (kidR id) = true ∧ reaches s 0 hC.id.die = true := by decide +kernel
theorem witness_ReturnsAndCancels_return_waits : (sRet (kidR fun t => { t with sys := { t.sys with run := true } })).me? = some (kidR fun t => { t with sys := { t.sys with run := true } }) := by decide +kernel
theorem witness_ReturnsAndCancels_return_bank : let k := kidR fun t => { t with sq := List.replicate 16 7 }
    16 < k.th.sq.length + 1 ∧ (sRet k).me? = some k ∧ handles (sRet k) k := ⟨by decide, rfl, ⟨by decide +kernel, by decide, by decide⟩⟩
theorem witness_ReturnsAndCancels_return_full : let c := hP 4 { st := .child, peer := 2, q := List.replicate 16 (7, false) }
    16 < (c.port 4).q.length + 1 ∧ (c.port 4).st = .child := by decide
theorem witness_ReturnsAndCancels_return_traps : handles s9 h9 ∧ h9.id.kind = .named ∧ handles (sRet (kidR id)) (kidR id) ∧ 0 ≠ (kidR id).fn.nres :=
  ⟨handles9, rfl, ⟨by decide +kernel, by decide, by decide⟩, by decide⟩
theorem witness_ReturnsAndCancels_waitc : (st hC).me? = some hC ∧ ((hA [(2, 0x104)]).th.a 2).toNat / 2 ^ 9 = 0 ∧ ((hA [(2, 0x104)]).th.a 2).toNat / 2 ^ 4 % 2 ^ 4 = 0 ∧ (hC.port 4).st = .child ∧
    ((hP 4 { st := .closed }).port 4).st = .closed ∧ (∀ p < 16, (h9.port p).st = .free) ∧ ((hA [(2, 0x10)]).th.a 2).toNat / 2 ^ 4 % 2 ^ 4 ≠ 0 := by decide +kernel
theorem witness_ReturnsAndCancels_cancel_refused : cancelTarget s9 h9 0 = none ∧ cancelTarget (sRet (kidR id)) (kidR id) (2 ^ 63 + 2) = some (kidR id) ∧
    2 ∈ subtree (sRet (kidR id)) 2 := by decide +kernel
/-- A callee one of whose stores is not accepted. -/
theorem witness_ReturnsAndCancels_return_store : let k := kidR fun t => { t with lead := { words := 1 } }
    ctAccepted (sRet k) k = false ∧ (sRet k).me? = some k ∧ k.id.kind = .callee := by decide +kernel
/-- A gang of holders 1 and 2 and their states. -/
def mem (i n : Nat) : Holder := { res { th9 with gbar := n } with id := { inst := i, pid := 5, kind := .member, gang := 1, mem := i - 1 } }
def sGang (n m : Nat) : State := { sC (mem 1 n) (mem 2 m) with pkg := { gangs := [(1, { pid := 5, members := [1, 2], placed := true })] } }
theorem witness_ReturnsAndCancels_return_member : let s := sGang 0 0
    ctAccepted s (mem 1 0) = true ∧
    s.me? = some (mem 1 0) ∧ (mem 1 0).id.inst = s.cur ∧ (mem 1 0).id.kind = .member ∧ (mem 1 0).fn.nres = 0 ∧ (mem 1 0).th.sys.run = false ∧ (∀ c ∈ (mem 1 0).th.copies, c.st ≠ .busy) ∧
    (∀ p ∈ (mem 1 0).ports, p.st ≠ .child) ∧ (mem 1 0).regions = [] ∧ (mem 1 0).saved = {} ∧ (mem 1 0).fn.foldedOn = none ∧ Tbl.risingFrom 0 s.hold = true := by decide +kernel
theorem witness_ReturnsAndCancels_gbar : h9.id.gang = 2 ^ 32 - 1 ∧ (sGang 0 1).me? = some (mem 1 0) ∧ (mem 1 0).id.gang ≠ 2 ^ 32 - 1 ∧ (mem 1 0).th.wait = .none ∧
    (sGang 0 1).pkg.gangs.find 1 = some { pid := 5, members := [1, 2], placed := true } ∧ s9.cur = 1 ∧ (1 : Nat) ∈ [1, 2] ∧ (sGang 0 1).h? 2 = some (mem 2 1) ∧ 0 + 1 ≤ (mem 2 1).th.gbar ∧
    (mem 2 0).th.gbar < 0 + 1 := by decide +kernel
theorem witness_ReturnsAndCancels_cancel : let s := sC hC (kidR id)
    s.me? = some hC ∧ hC.id.inst = s.cur ∧ ((hA [(2, 4)]).th.a 2).toNat = 4 ∧ (hC.port 4).st = .child ∧ (hC.port 4).peer = (kidR id).id.inst ∧ s.h? 2 = some (kidR id) ∧ (kidR id).id.life = .placed ∧
    (kidR id).id.parent = 1 ∧ (kidR id).id.callerPort = 4 ∧ 2 ≠ s.cur ∧ (∀ e ∈ s.hold, e.2.id.kind = .callee → e.2.id.parent ≠ 2) ∧ (kidR id).regions = [] ∧ (kidR id).saved = {} ∧
    (kidR id).fn.foldedOn = none ∧ Tbl.risingFrom 0 s.hold = true ∧ s.pkg.gangs = [] ∧ reaches s hC.id.die (kidR id).id.die = true := by decide +kernel
/-- A task control block at 0x2000: PRED, and STATE 1 (R376). -/
def tcbWords (n : Byte) : List (Nat × Byte) := [(0x2000, n), (0x2004, 1)]
/-- A control block of KIND 2 with PRED and STATE (R377), for TSUB. -/
def newWords (pred st : Byte) : List (Nat × Byte) := [(0x2000, pred), (0x2003, 2), (0x2004, st), (0x2009, 0x10), (0x2010, 2)].filter fun x => x.2 != 0
/-- The state and the line. -/
def sTsub (pred st : Byte) : State := stS hL (newWords pred st) []
theorem witness_TaskCounterInstructions_operands : (hL.th.a 2).toNat % 64 = 0 ∧ (hL.th.a 2).toNat / 2 ^ 60 = 0 ∧ (hL.th.a 2).toNat / 2 ^ 48 = 0 ∧ (hL.th.a 2).toNat / 2 ^ 6 % 2 ^ 42 * 64 = 0x2000 ∧
    (hL.th.a 2).toNat / 2 ^ 48 % 2 ^ 12 + 1 = 1 ∧ (stS hL (tcbWords 1) []).me? = some hL ∧ writesAccepted (stS hL (tcbWords 1) []) hL = true ∧
    writesAccepted { stS hL (tcbWords 1) [] with dies := [{ m := { pend := [pendCt] } }, {}, {}, {}] } hL = false ∧ ((hA [(2, 32)]).th.a 2).toNat % 64 ≠ 0 ∧
    (tcbHome (stS hL [] []) 5 0x200000000).isNone = true ∧ (tcbHome (stS hL [] []) 5 0x2000).isSome = true ∧
    ovPhead (stS hL [] []) 5 0 = 0 ∧ ovPhead (stS hL [] [(0x1FFFF2060, 0x40)]) 5 0 ≠ 0 := by decide +kernel
/-- A die without a ring of process 5 has room. -/
theorem noRing (s : State) (h : ringHolds s 5 0 = false) (h1 : ovPhead s 5 0 = 0) (h2 : inHolding s 5 0 = false) (h3 : (s.die 0).p.pool.length < 4096) :
    poolHasRoom s 5 0 := ⟨h1, h2, h3, h⟩
theorem witness_TaskCounterInstructions_pages : (∃ u, runPages 5 0x2000 1 (sTsub 1 0) = .ok u) ∧ ∃ e, runPages 5 0x200000000 1 (sTsub 1 0) = .error e := ⟨⟨_, rfl⟩, _, rfl⟩
theorem witness_TaskCounterInstructions_tsub : ∀ st ∈ [(0 : Byte), 4], tcbHome (sTsub 1 st) 5 0x2000 = some (0x2000, sTsub 1 st) ∧ inBacking (sTsub 1 st) 0x2000 = false ∧
    Memory.wf (sTsub 1 st).mem.bytes = true ∧ tcbOk (sTsub 1 st) 5 0 ((sTsub 1 st).plainLine 0x2000).toNat = true ∧ tcbSt ((sTsub 1 st).plainLine 0x2000).toNat = st.toNat ∧
    runWaits (sTsub 1 st) 5 0 0x2000 1 = false ∧ tcbPred ((sTsub 1 st).plainLine 0x2000).toNat = 1 ∧ hL.id.die < (sTsub 1 st).dies.length := by decide +kernel
theorem witness_TaskCounterInstructions_tsub_ready : tcbHome (sTsub 0 0) 5 0x2000 = some (0x2000, sTsub 0 0) ∧ tcbOk (sTsub 0 0) 5 0 ((sTsub 0 0).plainLine 0x2000).toNat = true ∧
    tcbPred ((sTsub 0 0).plainLine 0x2000).toNat = 0 ∧ runWaits (sTsub 0 0) 5 0 0x2000 1 = false ∧ poolHasRoom ((sTsub 0 0).physSetN 0x2004 1 2) 5 0 :=
  ⟨by decide +kernel, by decide +kernel, by decide +kernel, by decide +kernel, noRing _ (by decide +kernel) (by decide +kernel) (by decide +kernel) (by decide +kernel)⟩
theorem witness_TaskCounterInstructions_tdec : let s := stS hL (tcbWords 1) []
    tcbHome s 5 0x2000 = some (0x2000, s) ∧ atOnce s ⟨1, 0x2000, 0⟩ ∧ Memory.wf s.mem.bytes = true ∧ tcbPred (s.plainLine 0x2000).toNat = 1 ∧ tcbSt (s.plainLine 0x2000).toNat = 1 ∧
    tcbDie (s.plainLine 0x2000).toNat = 0 ∧ poolHasRoom (tcbSetSt (s.physSetN 0x2000 2 0) 0x2000 2) 5 0 :=
  ⟨by decide +kernel, Or.inr ⟨by decide, by decide +kernel, by decide⟩, by decide +kernel, by decide +kernel, by decide +kernel, by decide +kernel,
   noRing _ (by decide +kernel) (by decide +kernel) (by decide +kernel) (by decide +kernel)⟩
theorem witness_TaskCounterInstructions_other : tcbPred ((stS hL (tcbWords 2) []).plainLine 0x2000).toNat = 2 ∧ tcbPred ((stS hL [] []).plainLine 0x2000).toNat = 0 ∧
    tcbSt ((sTsub 1 0).plainLine 0x2000).toNat ≠ 1 := by decide +kernel


/-! ## The datapath -/

/-- A frame of cell (0, 0). -/
def fr (kind target pay : Nat) : Frame := { kind := kind, target := target, pay := BitVec.ofNat 224 pay }
/-- A region of one cell: its frames, the tokens that port endpoints have delivered, its cell and endpoints. -/
def hG (cfg : List Frame) (feeds : Tbl (List Token)) (c : CellSt := {}) (eps : List Ep := []) : Holder :=
  { h9 with dp := { cells := [c], cfg := cfg, feeds := feeds }, eps := eps }
/-- A DATA token and a FLT. -/
def tk (v : Nat) : Token := { vld := 0xFFFF, val := BitVec.ofNat 512 v }
def fl : Token := fltTok 1 0 0
/-- An ADDR token: address and ATTR (R360). -/
def ad (a attr : Nat) : Token := { vld := 7, val := BitVec.ofNat 512 (a + attr * 2 ^ 64) }

/-- A stage word: operation 0x20 on input ports 0 and 1 (R94). -/
def addWord : Nat := 0x20 + 1 * 2 ^ 16 + 2 * 2 ^ 20
/-- Stage 0 with two tokens at its inputs. -/
def hStage (a b : Token) : Holder := hG [fr 0 0 addWord] [(0, [a]), (1, [b])]
/-- A head that an endpoint brought leaves alone. -/
theorem aloneFed (h : Holder) (c id : Nat) (e : h.dp.feeds.getD (c * 128 + id) [] ≠ []) : headAlone h c id := .inl (.inl e)
theorem witness_StagesReducersAndLutsFire_heads : ∀ h ∈ [hStage (tk 1) (tk 2), hStage (tk 1) fl, hStage eosTok eosTok], noneBegun h ∧
    ∀ n ∈ stageHeads (h.stage 0 0), n ≠ 0 → headAlone h 0 (n - 1) := by
  have e : ∀ h ∈ [hStage (tk 1) (tk 2), hStage (tk 1) fl, hStage eosTok eosTok], (∀ c < h.dp.cells.length, (h.cell c).begun c = []) ∧
    ∀ n ∈ stageHeads (h.stage 0 0), h.dp.feeds.getD (0 * 128 + (n - 1)) [] ≠ [] := by decide +kernel
  exact fun h m => ⟨(e h m).1, fun n k _ => aloneFed h 0 _ ((e h m).2 n k)⟩
theorem witness_StagesReducersAndLutsFire_region : regionAt (st (hStage (tk 1) (tk 2))) 1 0 (hStage (tk 1) (tk 2)) := by
  refine ⟨?_, ?_, ?_, ?_, ?_⟩ <;> decide +kernel
theorem witness_StagesReducersAndLutsFire_data : let h := hStage (tk 1) (tk 2)
    0 < (h.cell 0).pipes.length ∧ sOp (h.stage 0 0) ≠ 0 ∧ isReducer (h.stage 0 0) = false ∧ (h.pipe 0 0).full = false ∧ stageHeads (h.stage 0 0) = [1, 2] ∧
    h.srcHead 0 0 1 = some (tk 1) ∧ h.srcHead 0 0 2 = some (tk 2) ∧ (tk 2).counts = true ∧ sAcc (h.stage 0 0) = false ∧
    sOp (h.stage 0 0) ∉ [0x33, 0x34, 0x49, 0x4A, 0x58, 0x59] := by decide +kernel
theorem witness_StagesReducersAndLutsFire_flt : let h := hStage (tk 1) fl
    stageHeads (h.stage 0 0) = [1] ++ 2 :: [] ∧ h.srcHead 0 0 2 = some fl ∧ fl.kind = .flt ∧ h.srcHead 0 0 1 = some (tk 1) ∧ (tk 1).kind ≠ .cfg ∧ (tk 1).kind ≠ .flt := by decide +kernel
theorem witness_StagesReducersAndLutsFire_marker : let h := hStage eosTok eosTok
    stageHeads (h.stage 0 0) = 1 :: [2] ∧ h.srcHead 0 0 1 = some eosTok ∧ h.srcHead 0 0 2 = some eosTok ∧ (h.pipe 0 0).opn = false := by decide +kernel
theorem witness_StagesReducersAndLutsFire_reducer : let h := hG [fr 0 3 0x50] [] { tree := some (tk 1) }
    isReducer (h.stage 0 3) = true ∧ (∀ j < 3, isReducer (h.stage 0 j) = false) ∧ 3 < (h.cell 0).pipes.length ∧ (h.pipe 0 3).full = false ∧
    (h.cell 0).tree = some (tk 1) ∧ (tk 1).kind ≠ .cfg ∧ h.dp.cells.length = 1 ∧ (h.cell 0).begun 0 = [] := by decide +kernel
theorem witness_StagesReducersAndLutsFire_lut : let h := hG [fr 2 10 0x40] [(51, [tk 1])]
    h.head 0 idLuti = some (tk 1) ∧ (tk 1).counts = true ∧ h.lutiOn 0 = true ∧ (h.cell 0).lout.tok = none ∧ h.dp.feeds.getD (0 * 128 + idLuti) [] ≠ [] := by decide +kernel

/-- A route entry from a source to a destination with four slots (R99). -/
def routeW (src dst arb : Nat) : Nat := 1 + src * 2 + dst * 2 ^ 8 + 4 * 2 ^ 15 + 0x7F * (2 ^ 19 + 2 ^ 30 + 2 ^ 41) + arb * 2 ^ 52
/-- Stage 0 drives output port 0, which feeds in0 of MU port 0. -/
def hEmit : Holder := hG [fr 0 0 (addWord + 2 ^ 50), fr 2 0 (routeW 0 32 0)] [] { pipes := { tok := tk 7, full := true } :: List.replicate 5 {} }
theorem witness_TokensMoveIntoEveryLink_emit : let h := hEmit
    let src : Source := .port 0 0
    h.atSource src = (some (tk 7), []) ∧ (tk 7).counts = true ∧ h.takers (tk 7) src = [] ∧ h.together src = [src] ∧ h.space (h.sinksOf (tk 7) src) = true ∧
    h.epAt true 0 0 = none ∧ ((h.sinksOf (tk 7) src).map fun r => (r.1.cell, r.1.key)).Nodup ∧
    (∀ r ∈ h.sinksOf (tk 7) src, r.1.cell < h.dp.cells.length ∧ r.2.2 ≠ 0) ∧ h.sinksOf (tk 7) src ≠ [] := by decide +kernel
theorem witness_TokensMoveIntoEveryLink_begun : noneBegun hEmit ∧ hEmit.owed = [] := ⟨by unfold noneBegun; decide +kernel, by decide +kernel⟩
/-- A region of two cells: a link with slots leads from the first into the second, whose switch sends it on. -/
def hHop : Holder := { h9 with id := { h9.id with w := 2 }
                               dp := { cells := [{ links := [(0, { q := [tk 7] })] }, {}], cfg := [fr 2 0 (routeW 0 80 0), { fr 2 0 (routeW 112 32 0) with col := 1 }] } }
theorem witness_TokensMoveIntoEveryLink_hop : let src : Source := .link ⟨0, 0, 0, 0⟩
    hHop.atSource src = (some (tk 7), []) ∧ hHop.takers (tk 7) src = [] ∧ hHop.together src = [src] ∧ hHop.behindOld ⟨0, 0, 0, 0⟩ = false ∧ hHop.space (hHop.sinksOf (tk 7) src) = true ∧
    (∀ r ∈ hHop.sinksOf (tk 7) src, r.1.cell ≠ 0 ∨ r.1.key ≠ 0) ∧ ((hHop.sinksOf (tk 7) src).map fun r => (r.1.cell, r.1.key)).Nodup ∧
    (∀ r ∈ hHop.sinksOf (tk 7) src, r.1.cell < hHop.dp.cells.length ∧ r.2.2 ≠ 0) ∧ hHop.sinksOf (tk 7) src ≠ [] := by decide +kernel
/-- Stage 0 feeds the tree. -/
def hTree : Holder := hG [fr 0 0 (addWord + 2 ^ 51)] [] { pipes := { tok := tk 7, full := true } :: List.replicate 5 {} }
theorem witness_TokensMoveIntoEveryLink_tree : sOp (hTree.stage 0 0) ≠ 0 ∧ sRed (hTree.stage 0 0) = true ∧ (hTree.pipe 0 0).full = true ∧ (hTree.pipe 0 0).tRed = false ∧
    (hTree.cell 0).tree = none := by decide +kernel
/-- Two routes of one arbitration into a port, MU port 0's in0 or the first edge port to the east, a token behind each. -/
def hMerge (dst arb last : Nat) : Holder := { h9 with
  id := { h9.id with w := 2 }
  dp := { cells := [{ links := [(0, { q := [tk 1] }), (4, { q := [tk 2] })], merges := [(dst, { last := last })] }, {}], cfg := [fr 2 0 (routeW 0 dst arb + routeW 1 dst arb * 2 ^ 56)] } }
theorem witness_TokensMoveIntoEveryLink_merge : ∀ p ∈ [(⟨2, 0⟩ : PortId), ⟨5, 0⟩], let h := hMerge (portNum p) 1 0
    let key := if portNum p < 64 then portNum p else edgeKey (edgeTile p) (portNum p)
    ((h.cell 0).merges.getD key {}).tok = none ∧ (∀ x ∈ h.mergeIns 0 key, x.2 = 1) ∧ (h.mergeIns 0 key)[1]? = some (⟨0, 0, 1, 0⟩, 1) ∧
    h.headOf ⟨0, 0, 1, 0⟩ = some (tk 2) ∧ (tk 2).marker = false ∧ ((h.cell 0).merges.getD key {}).last = 0 ∧ (tk 2).kind ≠ .cfg ∧
    h.sourceOf hopFuel ⟨0, 0, 1, 0⟩ = some (.link ⟨0, 0, 1, 0⟩) := by decide +kernel
theorem witness_TokensMoveIntoEveryLink_merge_alone : leavesAlone (hMerge 32 1 0) ⟨0, 0, 1, 0⟩ := fun src e => by
  rw [show (hMerge 32 1 0).sourceOf hopFuel ⟨0, 0, 1, 0⟩ = some (.link ⟨0, 0, 1, 0⟩) by decide +kernel] at e
  exact .inl (Option.some.inj e).symm

/-- A matrix tile of formats BF16, one macro, with EMIT (R96). -/
def mxW (emit : Nat) : Nat := 0x10 + 0x10 * 2 ^ 8 + 1 * 2 ^ 16 + emit * 2 ^ 20
theorem witness_MatrixTileMoves_weight : let h := hG [fr 0 7 (mxW 0)] [(17, [tk 1])]
    mxMacen (h.mxWord 0) ≠ 0 ∧ (h.cell 0).mx.wdone = false ∧ h.head 0 (idMx 1) = some (tk 1) ∧ h.dp.feeds.getD (0 * 128 + idMx 1) [] ≠ [] ∧ (h.cell 0).mx.ldm < 4 := by decide +kernel
theorem witness_MatrixTileMoves_gather : let h := hG [fr 0 7 (mxW 0)] [(16, [tk 1])]
    mxKA (h.mxWord 0) = false ∧ (h.cell 0).mx.rbuf.length < mxRowLen (h.cell 0).mx ∧ h.head 0 (idMx 0) = some (tk 1) ∧ h.dp.feeds.getD (0 * 128 + idMx 0) [] ≠ [] := by decide +kernel
theorem witness_MatrixTileMoves_row : let x : Mx := { wdone := true, rbuf := List.replicate 128 (some 0x3F80) }
    mxRowLen x ≤ x.rbuf.length ∧ x.wdone = true ∧ mxKB (mxW 0) = false ∧ mxEmit (mxW 0) = 0 ∧ mxEmit (mxW 1) = 1 ∧ x.outq = [] ∧ x.nact = 0 ∧ (hG [fr 0 7 (mxW 0)] [] { mx := x }).mxCanSend 0 false = true := by decide +kernel
theorem witness_MatrixTileMoves_end : let h := hG [fr 0 7 (mxW 0)] [(16, [eosTok])] { mx := { wdone := true } }
    h.head 0 (idMx 0) = some eosTok ∧ (h.cell 0).mx.rbuf = [] ∧ mxK (h.mxWord 0) = false ∧ h.mxIn1 0 = false ∧ (h.cell 0).mx.flts = [] ∧ h.dp.feeds.getD (0 * 128 + idMx 0) [] ≠ [] := by decide +kernel

/-- The CFG token of a frame. -/
def cfgT (v : Nat) : Token := { kind := .cfg, vld := 0xFF, val := BitVec.ofNat 512 v }
/-- Stage 0 reads input port 0 and drives output port 0: operation 0x07 in FP32. -/
def moveWord : Nat := 0x07 + 2 ^ 16 + 0x2020 * 2 ^ 32 + 2 ^ 50
def hCfg : Holder := hG [fr 0 0 moveWord] [(0, [cfgT moveWord])]
theorem witness_ConfigurationInBand : hCfg.stageIn 0 0 = some 0 ∧ 0 < (hCfg.cell 0).pipes.length ∧ hCfg.srcHead 0 0 1 = some (cfgT moveWord) ∧
    (hCfg.pipe 0 0).full = false ∧ (hCfg.pipe 0 0).opn = false ∧ (cfgT moveWord).frame = fr 0 0 moveWord ∧ headerOk 1 1 moveWord = true ∧ hCfg.dp.feeds.getD (0 * 128 + 0) [] ≠ [] ∧
    hCfg.cellCol 0 = 0 ∧ hCfg.cellRow 0 = 0 ∧ sOp (hCfg.stage 0 0) ≠ 0x4A := by decide +kernel
theorem witness_ConfigurationInBand_legal (g : Holder) (a : g.id = hCfg.id) (b : g.dp.cfg = hCfg.dp.cfg) (c : g.eps = hCfg.eps) : g.inbandOk (fr 0 0 moveWord) = true := by
  have e : g.inbandOk (fr 0 0 moveWord) = hCfg.inbandOk (fr 0 0 moveWord) := by
    simp only [Holder.inbandOk, Datapath.setFrame, a, b, c]
    rfl
  rw [e]; decide +kernel
theorem witness_ConfigurationInBand_elsewhere : hCfg.ownFrame 0 [(0, 0), (0, 6)] (cfgT (2 ^ 240)) = none := by decide +kernel

/-- MU port 0 of a type, with requests. -/
def hMu (ty : Nat) (m : MuPort) (feeds : Tbl (List Token)) : Holder := hG [fr 1 0 ty] feeds { ports := m :: List.replicate 3 {} }
/-- A scratchpad line's ADDR token. -/
def adS : Token := ad 0x40 4
theorem witness_MemoryUnitPorts_take : let h := hMu 1 {} [(32, [adS])]
    muType (h.muWord 0 0) = 1 ∧ (h.cell 0).ports.length = 4 ∧ (h.mu 0 0).reqs = [] ∧ h.head 0 (idMuIn0 0) = some adS ∧ adS.counts = true ∧ h.dp.feeds.getD (0 * 128 + idMuIn0 0) [] ≠ [] := by decide +kernel
theorem witness_MemoryUnitPorts_request : let h := hMu 1 { reqs := [(adS, {})], rob := List.replicate 15 {} } []
    (h.mu 0 0).reqs = (adS, {}) :: [] ∧ (h.mu 0 0).rob.length < 16 ∧ adS.counts = true ∧ muPlace (st h) h 0 adS = .ok ⟨0, 0x40, 0⟩ ∧ h.reqGoes (st h) 0 false (h.muEndpoint 0 0) ⟨0, 0x40, 0⟩ = true :=
  ⟨rfl, by decide, by decide +kernel, okEq (by decide +kernel), by decide +kernel⟩
theorem witness_MemoryUnitPorts_reply : let h := hMu 1 { rob := [{ req := adS }] } []
    ∃ v psn, (h.mu 0 0).rob = [] ++ ({ req := adS } : RobEnt) :: [] ∧ muPlace (st h) h 0 adS = .ok ⟨0, 0x40, 0⟩ ∧ absorbed (st h) (1, 0, 0, 0) = false ∧
      (st h).ownPending h.agent ⟨0, 0x40, 0⟩ = false ∧ h.lineServed (st h) 0 (h.muEndpoint 0 0) ⟨0, 0x40, 0⟩ = true ∧ (st h).lineAt 0 ⟨0, 0x40, 0⟩ = some (v, psn) :=
  ⟨0, 0, rfl, okEq (by decide +kernel), by decide +kernel, by decide +kernel, by decide +kernel, by decide +kernel⟩
theorem witness_MemoryUnitPorts_write : let h := hMu 2 { reqs := [(adS, { tk 5 with vld := 0x8001 })] } []
    muType (h.muWord 0 0) = 2 ∧ (h.mu 0 0).reqs ≠ [] ∧ muPlace (st h) h 0 adS = .ok ⟨0, 0x40, 0⟩ ∧ h.lineGoes (st h) 0 true (h.muEndpoint 0 0) ⟨0, 0x40, 0⟩ = true ∧ atOnce (st h) ⟨0, 0x40, 0⟩ ∧
    Memory.wf (placeBytes (st h) ⟨0, 0x40, 0⟩) = true :=
  ⟨by decide +kernel, by decide, okEq (by decide +kernel), by decide +kernel, Or.inl rfl, by decide⟩
theorem witness_MemoryUnitPorts_atomic : let h := hMu (4 + 1 * 2 ^ 25) { reqs := [(adS, tk 5)] } []
    muType (h.muWord 0 0) = 4 ∧ muRes (h.muWord 0 0) = false ∧ (st h).lineAt 0 ⟨0, 0x40, 0⟩ = some (0, 0) := by decide +kernel
theorem witness_MemoryUnitPorts_save : let h := hMu (5 + 2 * 2 ^ 30 + 2 * 2 ^ 44) { svpos := 1 } [(32, [tk 5])]
    muType (h.muWord 0 0) = 5 ∧ h.head 0 (idMuIn0 0) = some (tk 5) ∧ (h.mu 0 0).svpos ≠ muWsize (h.muWord 0 0) ∧ h.dp.feeds.getD (0 * 128 + idMuIn0 0) [] ≠ [] ∧
    scratchKey 0 (h.id.cellAt 0) (64 * (muWbase (h.muWord 0 0) + 1)) = 192 := by decide +kernel

/-- A buffer of two lines, and MU port 0 as its writer or its reader. -/
def hCb (reader : Bool) (b : CBuf) : Holder :=
  hG [fr 1 0 (3 + if reader then 2 ^ 15 else 0), fr 1 4 (2 * 2 ^ 14 + 2 ^ 29)] [(32, [tk 5])] { cbs := b :: List.replicate 7 {} }
theorem witness_BuffersAndBlocks_write : let h := hCb false { fill := 1, wptr := 1 }
    (h.cell 0).cbs.length = 8 ∧ muType (h.muWord 0 0) = 3 ∧ muReader (h.muWord 0 0) = false ∧ h.head 0 (idMuIn0 0) = some (tk 5) ∧ cbEn (h.cbWord 0 0) = true ∧
    (h.cb 0 0).fill < cbSize (h.cbWord 0 0) ∧ h.dp.feeds.getD (0 * 128 + idMuIn0 0) [] ≠ [] ∧ Memory.wf (st h).mem.scratch = true := by decide +kernel
theorem witness_BuffersAndBlocks_read : let h := hCb true { fill := 2, rptr := 1 }
    ∃ v psn, muReader (h.muWord 0 0) = true ∧ (h.cb 0 0).fill ≠ 0 ∧ h.canEmit 0 (idMuOut 0) = true ∧ ((h.cb 0 0).side.getD 1 (.data, 0, 0)).1 = .data ∧
      (st h).lineAt 0 (cbPlace h 0 0 1) = some (v, psn) := ⟨0, 0, by decide +kernel, by decide, by decide +kernel, by decide, by decide +kernel⟩
/-- A reorder element of blocks of one, and a corner-turn node of blocks of two (R243, R244). -/
def hRo (b : BlockSt) : Holder := hG [fr 1 12 (2 ^ 130)] [(40, [tk 5])] { reord := b }
def hCt (b : BlockSt) : Holder := hG [fr 1 13 (8 + 1)] [(41, [tk 5])] { cturn := b }
theorem witness_BuffersAndBlocks_reorder : ∃ el, (hRo {}).reordEl 0 = some el ∧ el.out ((hRo {}).cell 0).reord = none ∧ (hRo {}).head 0 idReord = some (tk 5) ∧
    ((hRo {}).cell 0).reord.toks.length < 64 ∧ ((hRo {}).cell 0).reord.held = [] ∧ (hRo {}).dp.feeds.getD (0 * 128 + idReord) [] ≠ [] :=
  ⟨_, rfl, by decide +kernel, by decide +kernel, by decide, by decide, by decide +kernel⟩
theorem witness_BuffersAndBlocks_reorder_out : ∃ el, (hRo { toks := [(0, tk 6)], inPos := 1 }).reordEl 0 = some el ∧
    el.out ((hRo { toks := [(0, tk 6)], inPos := 1 }).cell 0).reord = some (some (tk 6)) ∧ (hRo { toks := [(0, tk 6)], inPos := 1 }).canEmit 0 idReord = true :=
  ⟨_, rfl, by decide +kernel, by decide +kernel⟩
/-- The same with its output blocked: the next block still arrives (R243, R244). -/
def hRoFull : Holder := hG [fr 1 12 (2 ^ 130), fr 2 0 (routeW 40 32 0)] [(40, [tk 5])] { reord := { toks := [(0, tk 6)], inPos := 1 }, links := [(0, { q := List.replicate 4 (tk 1) })] }
theorem witness_BuffersAndBlocks_blocked : ∃ el u, hRoFull.reordEl 0 = some el ∧ el.out (hRoFull.cell 0).reord = some (some u) ∧ (hRoFull.cell 0).reord.toks.length < 64 ∧
    hRoFull.canEmit 0 idReord = false := ⟨_, tk 6, rfl, by decide +kernel, by decide, by decide +kernel⟩
theorem witness_BuffersAndBlocks_turn : ∃ el, (hCt { inPos := 1 }).cturnEl 0 = some el ∧ el.out ((hCt { inPos := 1 }).cell 0).cturn = none ∧
    el.room ((hCt { inPos := 1 }).cell 0).cturn = true ∧ (hCt { inPos := 1 }).head 0 idCturn = some (tk 5) ∧ ((hCt { inPos := 1 }).cell 0).cturn.held = [] ∧ (hCt { inPos := 1 }).dp.feeds.getD (0 * 128 + idCturn) [] ≠ [] :=
  ⟨_, rfl, by decide +kernel, by decide +kernel, by decide +kernel, by decide, by decide +kernel⟩
theorem witness_BuffersAndBlocks_turn_out : ∃ el, (hCt { inPos := 2 }).cturnEl 0 = some el ∧ (hCt { inPos := 2 }).canEmit 0 idCturn = true ∧ 0 / 2 * 2 + 2 ≤ 2 := ⟨_, rfl, by decide +kernel, by decide⟩

/-- A running region with one IN endpoint at input port 0 of the CU, bound to HBM. -/
def hIn0 (e : Ep) : Holder := { hG [] [] {} [{ e with bind := some { base := 0x2000, extent := 64 }, live := true }] with th := { th9 with sys := { th9.sys with run := true } } }
/-- The same at address generator 0, one level of one address. -/
def hGen : Holder := { hIn0 {} with dp := { (hIn0 {}).dp with cfg := [fr 3 0 (2 ^ 8)] } }
theorem witness_EndpointsDeliverAndEnd_generator : let h := hGen
    regionAt (stV h) 1 0 h ∧ 0 < (h.cell 0).agens.length ∧ h.agenWord 0 0 ≠ 0 ∧ agMode (h.agenWord 0 0) ≠ 1 ∧ h.canEmit 0 (idAgen 0) = true ∧ h.genEp 0 0 = some 0 ∧
    (h.ep 0).gr.out = false ∧ h.inNext 0 false = .data ∧ 0 ≤ agOff (h.agenWord 0 0) (agIdx (h.agenWord 0 0) 0) ∧ agOff (h.agenWord 0 0) (agIdx (h.agenWord 0 0) 0) + 64 ≤ 64 := by
  refine ⟨⟨?_, ?_, ?_, ?_, ?_⟩, ?_⟩ <;> decide +kernel
theorem witness_EndpointsDeliverAndEnd_port : let h := hIn0 { gr := { place := .port 0 0 0 } }
    let b : Binding := { base := 0x2000, extent := 64 }
    ∃ v psn s1, epSite (h.ep 0).gr.place = some (0, 0) ∧ h.dp.feeds.getD (0 * 128 + 0) [] = [] ∧ (h.ep 0).cfgNow = [] ∧ (h.ep 0).replay = [] ∧ (h.ep 0).bind = some b ∧
      h.portDue 0 = .data ∧ h.lineGoes (stV h) 0 false (some 0) (portPlace (stV h) h b 0 false) = true ∧ isWithheld (stV h) h { ep := some 0 } = false ∧
      cutOff (stV h) 0 (portPlace (stV h) h b 0 false) = false ∧ portJoins (stV h) h b 0 (h.ep 0) (portPlace (stV h) h b 0 false) = false ∧
      portRead (stV h) h b 0 (h.ep 0) = .ok (v, psn, s1) := by
  refine ⟨0, 0, ?_⟩
  exact ⟨_, by decide, by decide, by decide, by decide, by decide, by decide +kernel, by decide +kernel, by decide +kernel, by decide +kernel, by decide +kernel, rfl⟩
/-- A translation operator for reads and the token it looks at. -/
def hXl (x : XlatSt) : Holder := hG [fr 3 2 1] [(50, [ad 0x2000 0])] { xlat := x }
def xe : Xent := { gran := 0, kind := 1, r := true, w := true }
theorem witness_EndpointsDeliverAndEnd_translate : let h := hXl { held := some xe, looked := true }
    h.xlatWord 0 ≠ 0 ∧ h.canEmit 0 idXlat = true ∧ h.head 0 idXlat = some (ad 0x2000 0) ∧ (ad 0x2000 0).counts = true ∧ (ad 0x2000 0).addrOk = true ∧ (ad 0x2000 0).sp = false ∧
    (ad 0x2000 0).phys = false ∧ h.dp.feeds.getD (0 * 128 + idXlat) [] ≠ [] ∧ xe.serves (ad 0x2000 0).addr (accRd (h.xlatWord 0)) (accWr (h.xlatWord 0)) = true := by decide +kernel
theorem witness_EndpointsDeliverAndEnd_walk_starts : let h := hXl {}
    (h.cell 0).xlat.held = none ∧ isWithheld (stV h) h { cell := some 0 } = false ∧ awaitsWalk (stV h) 0 1 0 = false ∧ (walksOn (stV h) 0).length < 1024 ∧
    walksOn (stV h) 0 = [] ∧ ((stV h).die 0).m.misses = [] ∧ 0 < (stV h).dies.length := by decide +kernel
/-- A state whose die 0 has walks in progress. -/
def sWalks (l : List Walk) : State := { stV (hXl {}) with dies := [{ m := { walks := l } }, {}, {}, {}] }
theorem witness_EndpointsDeliverAndEnd_walk_shared : awaitsWalk (sWalks [⟨5, 0, [(2, 0)]⟩]) 0 1 0 = false ∧ (⟨5, 0, [(2, 0)]⟩ : Walk) ∈ walksOn (sWalks [⟨5, 0, [(2, 0)]⟩]) 0 ∧
    (hXl {}).id.pid = 5 ∧ (ad 0x2000 0).addr / 65536 = 0 := by decide +kernel
theorem witness_EndpointsDeliverAndEnd_walk_waits : let l := List.replicate 1024 (⟨6, 0, [(2, 0)]⟩ : Walk)
    awaitsWalk (sWalks l) 0 1 0 = false ∧ (∀ y ∈ walksOn (sWalks l) 0, ¬ (y.pid = 5 ∧ y.gran = 0)) ∧ 1024 ≤ (walksOn (sWalks l) 0).length := by decide +kernel
theorem witness_EndpointsDeliverAndEnd_walk_ends : ∃ e s1, walksOn (sWalks [⟨5, 0, [(1, 0)]⟩]) 0 = [] ++ (⟨5, 0, [(1, 0)]⟩ : Walk) :: [] ∧
    ((sWalks [⟨5, 0, [(1, 0)]⟩]).die 0).m.misses = [] ∧ (hXl {}).head 0 idXlat = some (ad 0x2000 0) ∧ accWr ((hXl {}).xlatWord 0) = false ∧
    xlatOf ((sWalks [⟨5, 0, [(1, 0)]⟩]).modM 0 fun m => { m with walks := [] ++ [] }) 5 (ad 0x2000 0).addr (accRd ((hXl {}).xlatWord 0)) (accWr ((hXl {}).xlatWord 0)) = .ok (e, s1) :=
  ⟨xe, (sWalks [⟨5, 0, [(1, 0)]⟩]).modM 0 fun m => { m with walks := [] }, rfl, rfl, by decide +kernel, by decide +kernel, okEq (by decide +kernel)⟩
theorem witness_EndpointsDeliverAndEnd_ack : let h := hIn0 { round := 1 }
    0 < h.eps.length ∧ (h.ep 0).acked < (h.ep 0).round ∧ (∀ k ∈ (h.ep 0).gr.sinks, h.sinkAcked k 1 = true) ∧ streamsAccepted (stV h) h = true := by decide +kernel
theorem witness_EndpointsDeliverAndEnd_end : let h := hIn0 { eosOut := true }
    h.th.sys.run = true ∧ (∀ x ∈ h.eps, x.gr.out = true ∨ (x.eosOut = true ∧ x.replay = [] ∧ x.cfgNow = [])) ∧ h.quiet = true ∧ streamsAccepted (stV h) h = true := by decide +kernel

/-! ## The device -/

/-- A callee at cell (1, 0), which is placed, and a state in which die 0's PRTGT names it. -/
def sPr (k : Holder) : State := { stS h9 [] [] with hold := [(1, h9), (2, k)], dies := [{ r := { prtgt := 0x5000000000002 } }, {}, {}, {}] }
def kPr (life : Life) (ev : EventSt) : Holder := { kid 0 with id := { (kid 0).id with life := life }, ev := ev }
theorem witness_RollbackAndUncorrectableErrors_rollback : let k := kPr .placed { rollDue := true }
    (sPr k).h? 2 = some k ∧ k.id.life = .placed ∧ k.ev.rollDue = true ∧ k.ev.draining = false ∧ k.ev.rackBy = none ∧ k.th.asleep = false ∧ hZ.th.asleep = true := by decide +kernel
theorem witness_RollbackAndUncorrectableErrors_damaged : (kPr .placed { draining := true }).ev.draining = true ∧ (kPr .placed { rackBy := some 1 }).ev.rackBy ≠ none := by decide
theorem witness_RollbackAndUncorrectableErrors_lines : paAssigned 0xBFFFFFFFFF = true ∧ s9.pbLine? (normPa 0xBFFFFFFFFF) = none ∧ chainSite s9 (normPa 0xBFFFFFFFFF) = none ∧ 511 < 512 ∧ 0xFFFFF < 2 ^ 20 := by decide +kernel
theorem witness_PreemptionCommands_none : 0 < (sC hC (kid 0)).dies.length ∧ ((sC hC (kid 0)).die 0).r.prstat.getLsbD 63 = false ∧ prTarget (sC hC (kid 0)) 0 = none := by decide +kernel
theorem witness_PreemptionCommands_named : prTarget { sPr (kid 0) with hold := [(2, { h9 with id := { h9.id with inst := 2 } })] } 0 = some { h9 with id := { h9.id with inst := 2 } } := by decide +kernel
theorem witness_PreemptionCommands_target : ∀ life ∈ [Life.placed, .parked, .loading, .restoring], let k := kPr life {}
    prTarget (sPr k) 0 = some k ∧ (sPr k).h? k.id.inst = some k ∧ k.id.kind = .callee ∧ k.saved.fault = none ∧ k.id.die < (sPr k).dies.length := by decide +kernel
/-- A holder whose rollback, drain or freeze DISCARD stops, and one whose it does not (R426). -/
theorem witness_PreemptionCommands_discard : ∀ ev ∈ [({ rollDue := true } : EventSt), { draining := true }, { rackBy := some 1 }, {}], let k := kPr .placed ev
    prTarget (sPr k) 0 = some k ∧ (sPr k).h? k.id.inst = some k ∧ k.id.kind = .callee ∧
    ((k.ev.rollDue = true ∨ k.ev.draining = true ∨ k.ev.rackBy ≠ none) ∨ (k.ev.rollDue = false ∧ k.ev.draining = false ∧ k.ev.rackBy = none)) := by decide +kernel
theorem witness_PreemptionCommands_drained : ∀ dr ∈ [true, false], let k := kPr .placed { rackBy := some 0, draining := dr, dmkAt := some 0 }
    prTarget (sPr k) 0 = some k ∧ k.ev.rollDue = false ∧ k.fn.foldedOn = none ∧ k.answered = true ∧ k.ev.rackBy = some 0 ∧ k.ev.draining = dr ∧ k.drained = true ∧
    streamsAccepted (sPr k) k = true ∧ poolCount (sPr k) 5 = 0 ∧ dmksOut (sPr k) k = true ∧ k.ev.dmkAt = some 0 ∧ 0 + 4096 ≤ ({ sPr k with dies := [{ fcyc := 4096 }, {}, {}, {}] } : State).now 0 := by decide +kernel

theorem witness_PreemptionCommands_again : ∀ r ∈ [none, some 1], let k := kPr .placed { rackBy := r }
    prTarget (sPr k) 0 = some k ∧ (sPr k).h? k.id.inst = some k ∧ k.id.kind = .callee ∧ k.id.life = .placed ∧ k.ev.rackBy = r := by decide +kernel

/-- A state in which die 0's XINVA and XINVL name a range of process 5. -/
def sX (busy : Bool) : State := { stV h9 with dies := [{ r := { xinva := 0x5000000010000, xinvs := if busy then 2 ^ 63 else 0 } }, {}, {}, {}] }
theorem witness_InvalidationAndWithheldAccesses_xinv : let r := ((sX false).die 0).r
    r.xinvs.getLsbD 63 = false ∧ r.xinva.toNat % 2 ^ 16 = 0 ∧ r.xinvl.toNat % 2 ^ 6 ≤ 32 ∧ (sX false).ctx? (r.xinva.toNat / 2 ^ 48) ≠ none ∧ ({ sX false with pkg := {} } : State).ctx? 5 = none := by decide +kernel
theorem witness_InvalidationAndWithheldAccesses_complete : ((sX true).die 0).r.xinvs.getLsbD 63 = true ∧ accessesOpen (sX true) 5 = false ∧ (sX true).pkg.withheld = [] ∧
    ∀ e ∈ (sX true).hold, e.2.saved.fault = none := by decide +kernel
/-- An access of holder 2 that is withheld. -/
def wh (va : Nat) : Withheld := { who := .holder 2, va := va, read := true }
def sW (va : Nat) : State := { sPr (kPr .placed {}) with pkg := { (sPr (kPr .placed {})).pkg with withheld := [wh va] }, dies := [{ fcyc := 1000000 }, {}, {}, {}] }
theorem witness_InvalidationAndWithheldAccesses_walked : ∃ e, (sW 0x2000).pkg.withheld = [] ++ wh 0x2000 :: [] ∧ (wh 0x2000).who = .holder 2 ∧ (wh 0x2000).cell = none ∧ (wh 0x2000).write = false ∧
    (wh 0x2000).next ≤ (sW 0x2000).now 0 ∧ xlatOf (sW 0x2000) (withheldPid (sW 0x2000) (wh 0x2000)) 0x2000 true false = .ok (e, sW 0x2000) :=
  ⟨xe, rfl, rfl, rfl, rfl, by decide +kernel, okEq (by decide +kernel)⟩
theorem witness_InvalidationAndWithheldAccesses_again : (match xlatOf (sW 0x200000000) 5 0x200000000 true false with | .error k => k == 1 | .ok _ => false) = true := by decide +kernel
theorem witness_InvalidationAndWithheldAccesses_expired : let k := kPr .placed {}
    (sW 0x200000000).h? 2 = some k ∧ k.id.inst = 2 ∧ k.id.kind ≠ .member ∧ (wh 0).copy = none ∧ k.saved.fault = none ∧
    (wh 0).since + 600 * (k.id.mode.toNat / 2 ^ 9 % 2 ^ 10) ≤ (sW 0x200000000).now 0 := by decide +kernel

theorem witness_LinksRetrain_up : s9.dies.length = 4 ∧ (∀ d < 4, (s9.die d).r.ports.length = 12) ∧ linkIsUp s9 (.die 0 3) = true ∧ linkIsUp s9 (.zlk 35) = true ∧ linkIsUp s9 (.zlk 0) = true ∧
    linkUp s9 0 1 = true ∧ linkUp s9 3 1 = true ∧ s9.pendings = [] ∧ linkIsUp s9 (.zlk 8) = true ∧ (∀ d < 4, (s9.die d).m.net = []) ∧ (∀ e ∈ s9.hold, e.2.eps = []) ∧ linkUp s9 0 2 = true ∧ linkUp s9 1 2 = true ∧
    ∀ e ∈ (State.reset).hold, e.2.id.die ≠ 0 := by decide +kernel
/-- Every port trains. -/
def sTrain : State := { s9 with dies := List.replicate 4 { r := { ports := List.replicate 12 0x4000000000000000 } } }
theorem witness_LinksRetrain_training : (sTrain.portWord (3, 8)).getLsbD 62 = true ∧ linkEntries (.die 0 3) ≠ [] ∧ ∀ x ∈ linkEntries (.die 0 3), (sTrain.portWord x).getLsbD 62 = true := by decide +kernel

/-- A packet from holder 2 to holder 1, whose sender waits at SEND. -/
def pk : Packet := { id := 3, pid := 5, src := 2, dst := 1, msg := { src := 2, words := [8] } }
def kSend : Holder := { kid 0 with th := { th9 with wait := .send 3, code := List.replicate 9 0 ++ [BitVec.ofNat 32 ((encode (.send ⟨7, 2, 3⟩ 0)).getD 0)] } }
def sNet (h : Holder) : State := { sC h kSend with dies := [{ fcyc := 2048, m := { net := [pk] } }, {}, {}, {}] }
theorem witness_MessagesCopiesAndTransfers_message : let h : Holder := { h9 with recvs := [{ src := 2, port := 4, max := 8 }] }
    (sNet h).dies.length = 4 ∧ ((sNet h).die 0).m.net = [] ++ pk :: [] ∧ pk.out = none ∧ (sNet h).h? 1 = some h ∧ reaches (sNet h) 0 0 = true ∧ (sNet h).h? 2 = some kSend ∧
    kSend.th.wait = .send 3 ∧ sendDest kSend.th = some 7 ∧ pk.src ≠ pk.dst ∧ h.id.pid = pk.pid ∧ h.id.life = .placed ∧ ({ src := 2, port := 4, max := 8 } : Recv).matches pk.msg = true ∧
    4 < h.ports.length ∧ 4096 ≤ 2 * ((sNet h).now 0 - pk.at_) ∧ pk.escaped = false := by decide +kernel
/-- A holder whose first copy stands at a line of so many bytes. -/
def hBk (len pos : Nat) : Holder := hB ({ st := .busy, dst := 0x3000, src := 0x2000, len := len, pos := pos } :: List.replicate 15 ({} : Copy))
theorem witness_MessagesCopiesAndTransfers_copied : let h := hBk 64 64
    (stV h).h? 1 = some h ∧ h.id.inst = 1 ∧ 0 < h.th.copies.length ∧ isWithheld (stV h) h { copy := some 0 } = false ∧ (h.th.copies.getD 0 {}).st = .busy ∧ (stV h).pendings = [] := by decide +kernel
/-- A copy of one line, and one of two, at the first. -/
theorem witness_MessagesCopiesAndTransfers_line : ∀ len ∈ [64, 128], let h := hBk len 0
    let s := stV h
    let s0 := s.forgetWalks 0 1 (missCopy 0)
    let s1 := bestWent (s0.didRead 1 .bk ⟨1, 0x2000, 0⟩) h 0 false ⟨1, 0x2000, 0⟩
    (h.th.copies.getD 0 {}).pos + 64 ≤ (h.th.copies.getD 0 {}).len ∧ copyMeets s h (h.th.copies.getD 0 {}) (cutOff s 0) = none ∧ s.missFor 0 5 1 (missCopy 0) [0, 0] = none ∧
    copyVa s0 5 1 0x2000 false = .ok (⟨1, 0x2000, 0⟩, s0) ∧ copyRead s0 0 h.agent ⟨1, 0x2000, 0⟩ = .ok (0, 0) ∧ s0.readAs 1 .bk ⟨1, 0x2000, 0⟩ (0, 0) = (0, 0) ∧
    bestGoes s0 h 0 false ⟨1, 0x2000, 0⟩ = true ∧ copyVa s1 5 1 0x3000 true = .ok (⟨1, 0x3000, 0⟩, s1) ∧ bestGoes s1 h 0 true ⟨1, 0x3000, 0⟩ = true ∧
    atOnce s ⟨1, 0x3000, 0⟩ ∧ Memory.wf (placeBytes s ⟨1, 0x3000, 0⟩) = true := by
  intro len m
  simp only [List.mem_cons, List.not_mem_nil, or_false] at m
  rcases m with rfl | rfl <;> exact ⟨by decide, by decide +kernel, rfl, okEq (by decide +kernel), okEq (by decide +kernel), by decide +kernel, by decide +kernel,
    okEq (by decide +kernel), by decide +kernel, Or.inr ⟨by decide, by decide, by decide⟩, by decide⟩
theorem witness_MessagesCopiesAndTransfers_lines : bar4Ok 0x3FF8 8 = true ∧ bar4Ok (hbmTop - 4) 8 = false ∧ hbmTop - 4 + 8 ≤ 2 ^ 42 ∧ 0x3FF8 % 64 + 8 ≤ 64 ∧
    inCellar (normPa 0x3FF8) = false ∧ (∀ i < 8, inBacking s9 (normPa 0x3FF8 + i) = false) ∧ Memory.wf s9.mem.bytes = true ∧ iposAt s9 (normPa 0x3FF8) = false ∧
    iposAt s9 (normPa (0x3FF8 + 8 - 1)) = false := by decide +kernel
/-- A state with PODID, and with vector 63 pending and not masked. -/
def sHost (h : HostRegs) : State := { s9 with host := h }
theorem witness_MessagesCopiesAndTransfers_peer : let s := sHost { podid := 2 ^ 63 + 5 }
    s.host.podid.getLsbD 63 = true ∧ anyZlkUp s = true ∧ s.h? 1 = some h9 ∧ h9.id.life ≠ .resident ∧ (∀ r ∈ h9.recvs, r.matches {} = false) ∧ h9.oflow.length < 64 := by decide +kernel
theorem witness_MessagesCopiesAndTransfers_vector : let h : HostRegs := { pending := 2 ^ 63, msix := [(127, 0)], msixOn := true }
    h.msixOn = true ∧ h.msixMask = false ∧ h.pending.getLsbD 63 = true ∧ (msixWord h 127).getLsbD 32 = false ∧ h.msgAt.find 63 = none := by decide +kernel

/-- A queue of one packet at 0x10000, and its words after the header. -/
def qOne : Queue := { q269 with w := 1, admits := [(1, 0)] }
def sQm (q : Queue) (ring : List (Nat × Byte)) (cyc : W64) : State :=
  { stB h9 ring with dies := [{ fcyc := cyc, q := { queues := [(2, q)], gangs := [{ key := (0, 2), mapped := true }] } }, {}, {}, {}] }
theorem witness_NotifyWrites : let s := sQ { q269 with w := 0, rd := 0 }
    pageQueue s 0 3 = some q269 ∧ 0 < s.dies.length ∧ (s.die 0).q.queues.find q269.qid = some q269 ∧ (16 : W64).toNat ≤ 2 ^ q269.log2s ∧ (17 : W64).toNat = 2 ^ q269.log2s + 1 := by decide +kernel
theorem witness_PacketsStartAndComplete_starts : ∃ l, turnOf (sQm qOne [(0x10001, 1)] 0) 0 = some 2 ∧ nextPkt (sQm qOne [(0x10001, 1)] 0) 0 qOne = .words l ∧ qOne.live = [] ∧ pktOk l = true ∧
    pktType (l.getD 0 0) = 0 ∧ (sQm qOne [(0x10001, 1)] 0).missFor 0 5 2 missQueue [1] = none ∧ packetStores (sQm qOne [(0x10001, 1)] 0) 0 2 63 = false :=
  ⟨[256, 0, 0, 0, 0, 0, 0, 0], by decide +kernel, by decide +kernel, by decide, by decide, by decide, rfl, by decide +kernel⟩
theorem witness_PacketsStartAndComplete_bad : ∃ l, nextPkt (sQm qOne [(0x10000, 9), (0x10001, 1)] 0) 0 qOne = .words l ∧ pktOk l = false := ⟨[265, 0, 0, 0, 0, 0, 0, 0], by decide +kernel, by decide⟩
theorem witness_PacketsStartAndComplete_stale : let s := sQm qOne [] 38400
    qOne.admits = ((1 : W64), 0) :: [] ∧ qOne.st = .mapped ∧ qOne.w ≠ qOne.rd ∧ 0 + 38400 ≤ s.now 0 ∧ word64 s 5 (qOne.packetAddr 0) = some 0 ∧ ¬ 0 / 256 % 2 = 1 ∧ ¬ qOne.rd.toNat / 2 ^ qOne.log2s % 2 = 1 := by decide +kernel
/-- A started packet with its words, and its queue. -/
def qRun (st : PktSt) (ws : List W64) (w : Option WaitSt) : Queue := { q269 with w := 1, rd := 1, running := [{ words := ws, st := st }], wait := w }
theorem witness_PacketsStartAndComplete_done : let q := qRun .done [0] none
    (sQm q [] 0).dies.length = 4 ∧ q.dead = false ∧ q.running = [] ++ ({ words := [0], st := .done } : RunPkt) :: [] ∧ qHeld (sQm q [] 0) 0 2 0 = false ∧ pktType 0 ≠ 8 ∧ pktSig 0 = false ∧
    ((sQm q [] 0).die 0).q.astat.getLsbD 63 = false := by decide +kernel
theorem witness_PacketsStartAndComplete_signal : let q := qRun .done [0x400, 0, 0, 0, 0, 0, 0, 0x2000] none
    pktSig 0x400 = true ∧ pktType 0x400 ≠ 8 ∧ (0x2000 : W64).toNat % 8 = 0 ∧ resolveVa (sQm q [] 0) 5 0x2000 true true = .ok (pV, sQm q [] 0) ∧ pV.kind = 1 ∧ pV.addr % 8 = 0 ∧ inCellar pV.addr = false ∧ inBacking (sQm q [] 0) pV.addr = false ∧ (sQm q [] 0).physPoison pV.addr = 0 ∧
    Memory.wf (sQm q [] 0).mem.bytes = true := ⟨by decide, by decide, by decide, okEq (by decide +kernel), by decide, by decide, by decide, by decide +kernel, by decide +kernel, by decide⟩
theorem witness_PacketsStartAndComplete_bind : let q := qRun (.bindRuns 1) [2] none
    q.running ≠ [] ∧ (sQm q [] 0).h? 1 = some h9 ∧ h9.th.sys.run = false := by decide +kernel
theorem witness_PacketsStartAndComplete_wait : let x : WaitSt := { addr := 0x2000, deadline := some 9 }
    let q := qRun .waits [1] (some x)
    q.wait = some x ∧ q.st ≠ .unmapped ∧ waitWord (sQm q [] 9) q x.addr = .ok 0 ∧ condHolds x.cond 0 x.value = true ∧ x.deadline = some 9 ∧ 9 ≤ (sQm q [] 9).now 0 ∧ x.hit = false :=
  ⟨rfl, by decide, okEq (by decide +kernel), by decide, rfl, by decide +kernel, rfl⟩
/-- A residency that a CFGLOAD has asked for. -/
def hQd : Holder := { h9 with id := { h9.id with life := .queued }, fn := { packet := some (0, 2, 0) } }
theorem witness_PacketsStartAndComplete_claim : let s : State := { sQm (qRun .claim [4] none) [] 0 with hold := [(1, hQd)] }
    ((s.hold.map (·.2)).find? fun h => h.fn.packet == some (0, 2, 0) && h.id.life == .queued) = some hQd ∧ s.h? hQd.id.inst = some hQd ∧ (0 : W64).toNat % 4 = 0 ∧ hQd.id.kind = .named ∧
    scanDie s 0 1 1 (fun e => e.claimable hQd.id.cls) = some (0, 0) ∧ ∀ x ∈ rect 0 0 1 1, (s.area 0 x).state = 0 := by decide +kernel

/-- A die whose queue's gang is mapped, or is not. -/
def sGm (m : Bool) (q : Queue) (g : QGang) (cyc : W64) : State := { s9 with dies := [{ fcyc := cyc, q := { queues := [(2, q)], gangs := [{ g with key := (0, 2), mapped := m }] } }, {}, {}, {}] }
theorem witness_QueueSlots_map : let s := sGm false { qOne with st := .unmapped } {} 0
    Tbl.risingFrom 0 (s.die 0).q.queues = true ∧ (∀ e ∈ (s.die 0).q.queues, e.2.qid = e.1) ∧ (gangRec s 0 (0, 2)).mapped = false ∧
    (∃ m ∈ gangQueues s 0 (0, 2), m.wants = true) ∧ slotsUsed s 0 + (gangQueues s 0 (0, 2)).length ≤ 128 := by decide +kernel
theorem witness_QueueSlots_idle : let s := sGm true q269 { idleAt := some 0 } 60000
    (gangRec s 0 (0, 2)).mapped = true ∧ (∀ m ∈ gangQueues s 0 (0, 2), m.idle = true) ∧ (gangRec s 0 (0, 2)).idleAt = some 0 ∧ 0 + 60000 ≤ s.now 0 := by decide +kernel
/-- A die whose 128 slots the queues of a gang of process 6 hold, the first perhaps with a packet running, and a queue that waits. -/
def sFull (w : List RunPkt) (cyc : W64) : State :=
  { s9 with dies := [{ fcyc := cyc, q := { queues := (2, { qOne with st := .unmapped }) :: (3, { qid := 3, pid := 6, gang := 1, st := .mapped, running := w }) ::
                                             (List.range 127).map fun k => (k + 4, { qid := k + 4, pid := 6, gang := 1, st := .mapped })
                                           gangs := [{ key := (6, 1), mapped := true }, { key := (0, 2), wantAt := some 0 }] } }, {}, {}, {}] }
theorem witness_QueueSlots_waits : Tbl.risingFrom 0 ((sFull [] 0).die 0).q.queues = true ∧ (∀ e ∈ ((sFull [] 0).die 0).q.queues, e.2.qid = e.1) ∧
    (gangRec (sFull [] 0) 0 (0, 2)).mapped = false ∧ (∃ m ∈ gangQueues (sFull [] 0) 0 (0, 2), m.wants = true) ∧
    128 < slotsUsed (sFull [] 0) 0 + (gangQueues (sFull [] 0) 0 (0, 2)).length := by decide +kernel
theorem witness_QueueSlots_starved : let s := sFull [] 150000
    (∃ x ∈ (s.die 0).q.gangs, waitsForSlots s 0 x = true ∧ x.wantAt = some 0) ∧ 0 + 150000 ≤ s.now 0 ∧ (s.die 0).q.starveAt + 150000 ≤ s.now 0 ∧
    longestMapped s 0 = some { key := (6, 1), mapped := true } ∧ ∀ m ∈ gangQueues s 0 (6, 1), m.busy = false := by decide +kernel
theorem witness_QueueSlots_busy : let s := sFull [{ words := [0], st := .done }] 150000
    longestMapped s 0 = some { key := (6, 1), mapped := true } ∧ ∃ m ∈ gangQueues s 0 (6, 1), m.busy = true := by decide +kernel

/-- A descriptor of process 5's context at 0x2000, and the state whose AARG names it (R284). -/
def ctxWords : List (Nat × Byte) := [(0x2000, 5), (0x2004, 0xAE), (0x2005, 0x29), (0x2009, 8), (0x201C, 64)]
def sAd (more : List (Nat × Byte)) (q : DieQ) : State := { stB h9 more with dies := [{ q := { q with aarg := 0x2000 } }, {}, {}, {}] }
theorem ctxWords_desc : adminDesc (sAd ctxWords {}) 0 = 0x400000000000000000000000000000000000000800000029AE00000005 := by decide +kernel
theorem emptyWords_desc : adminDesc (sAd [] {}) 0 = 0 := by decide +kernel
theorem witness_AdministrationCommands_context : 0 < (sAd ctxWords {}).dies.length ∧ ctxOk (adminDesc (sAd ctxWords {}) 0) = true ∧ ctxOk (adminDesc (sAd [] {}) 0) = false ∧
    (sAd ctxWords {}).pkg.ctxs.length < 256 ∧ (sAd ctxWords {}).ctx? 5 ≠ none := by
  rw [ctxWords_desc, emptyWords_desc]; decide +kernel
/-- A descriptor of queue 2 of process 5, ring at 0x10000, page 3 (R285). -/
def qWords : List (Nat × Byte) := [(0x2000, 2), (0x2004, 5), (0x2006, 4), (0x200A, 1), (0x2011, 0x30), (0x2015, 4)]
theorem qWords_desc (q : DieQ) : adminDesc (sAd qWords q) 0 = 0x4000000300000000000000100000004000500000002 := by
  have e : adminDesc (sAd qWords q) 0 = adminDesc (sAd qWords {}) 0 := rfl
  rw [e]; decide +kernel
theorem witness_AdministrationCommands_queue : qcreateRes (sAd qWords {}) 0 (adminDesc (sAd qWords {}) 0) = 0 ∧ descQueue (sAd qWords {}) 0 = none ∧
    descQueue (sAd qWords { queues := [(2, q269)] }) 0 = some q269 ∧ q269.live = [] ∧ q269.st ≠ .stopped ∧ ({ q269 with st := .stopped } : Queue).st = .stopped ∧ (6 : W64).toNat = 6 := by
  simp only [descQueue, qWords_desc]; decide +kernel

/-- Slots of the die, for a queue that joins a mapped gang: one with room, and one whose 128 slots are taken, with and without a packet running. -/
def sJoin (n : Nat) (w : List RunPkt) : State :=
  sAd qWords { queues := (List.range n).map fun k => (k + 4, { qid := k + 4, pid := 6, gang := 1, st := .mapped, running := if k == 0 then w else [] })
               gangs := [{ key := (6, 1), mapped := true }, { key := (0, 2), mapped := true }] }
theorem witness_AdministrationCommands_joins : (gangRec (sJoin 1 []) 0 (0, 2)).mapped = true ∧ slotsUsed (sJoin 1 []) 0 < 128 ∧ 128 ≤ slotsUsed (sJoin 128 []) 0 ∧
    (∀ x ∈ gangQueues (sJoin 128 []) 0 (6, 1), x.busy = false) ∧ ∃ x ∈ gangQueues (sJoin 128 [{ words := [0], st := .done }]) 0 (6, 1), x.busy = true := by decide +kernel
theorem witness_RatesAndShares_tick : let s : State := { s9 with dies := [{ scyc := 1024, r := { shNext := some ([], 1) } }, {}, {}, {}] }
    (s9.die 0).scyc.toNat / 1024 = (s9.die 0).m.ticks ∧ (s.die 0).scyc.toNat / 1024 ≠ (s.die 0).m.ticks ∧ (s.die 0).r.shNext = some ([], 1) := by decide +kernel
/-- A guaranteed binding with a level for one line. -/
def hGua : Holder := { hIn0 {} with eps := [{ gr := { place := .port 0 0 0 }, bind := some { g := true, rate := 1, base := 0x2000, extent := 64 }, live := true, level := 64 }] }
theorem witness_RatesAndShares_line : let h := hGua
    let b : Binding := { g := true, rate := 1, base := 0x2000, extent := 64 }
    let pl := portPlace (stV h) h b 0 false
    ∃ v psn s1, (stV h).h? 1 = some h ∧ regionAt (stV h) 1 0 h ∧ (h.ep 0).bind = some b ∧ (h.ep 0).live = true ∧ (h.ep 0).gr.out = false ∧ (h.ep 0).level = 64 ∧
      epSite (h.ep 0).gr.place = some (0, 0) ∧ h.dp.feeds.getD (0 * 128 + 0) [] = [] ∧ (h.ep 0).cfgNow = [] ∧ (h.ep 0).replay = [] ∧ h.portDue 0 = .data ∧
      h.reqGoes (stV h) 0 false (some 0) pl = true ∧ isWithheld (stV h) h { ep := some 0 } = false ∧ cutOff (stV h) 0 pl = false ∧ portAsked (stV h) h 0 (h.ep 0) = false ∧
      portJoins (stV h) h b 0 (h.ep 0) pl = false ∧ portRead (stV h) h b 0 (h.ep 0) = .ok (v, psn, s1) := by
  refine ⟨0, 0, _, rfl, ⟨?_, ?_, ?_, ?_, ?_⟩, rfl, rfl, rfl, rfl, rfl, rfl, rfl, rfl, ?_, ?_, ?_, ?_, ?_, ?_, rfl⟩ <;> decide +kernel
theorem witness_RatesAndShares_commit : (s9.die 0).r.shstat.getLsbD 63 = false ∧ shareCheck (s9.die 0).r.shent (s9.die 0).r.shcap = 0 ∧ shareCheck [] 0 ≠ 0 := by decide +kernel
theorem witness_RatesAndShares_request : refillDue s9 0 = false ∧ (s9.die 0).m.slices.length = 16 ∧ ((s9.die 0).m.slices.getD 15 {}).queue.length < 256 ∧ ((0 : Nat), tenantOf s9 0 (reqPid s9 { pid := 5, inst := none, port := 0 })) ∉ ((s9.die 0).m.slices.getD 15 {}).holds ∧
    0 < (Slice.tenant s9 0 15 (tenantOf s9 0 (reqPid s9 { pid := 5, inst := none, port := 0 }))).level ∧ ((s9.die 0).m.slices.getD 15 {}).waiting = [] ∧
    (Slice.tenant { s9 with dies := [{ m := { slices := List.replicate 16 { tenants := [(0, {})] } } }, {}, {}, {}] } 0 15 0).level = 0 := by decide +kernel

/-- A state in whose slices one request of tenant 3 waits, which has a level of 2, or 1. -/
def sSl (level : Nat) : State := { s9 with dies := [{ m := { slices := List.replicate 16 { tenants := [(3, { level := level })], waiting := [(3, 7)] } } }, {}, {}, {}] }
/-- In the state above, tenant 3 is the only one with a request and a level, so its turn it is. -/
theorem witness_RatesAndShares_turn : ∀ l ∈ [1, 2], let x := ((sSl l).die 0).m.slices.getD 15 {}
    ((sSl l).die 0).m.slices.length = 16 ∧ x.queue = [] ∧ x.lastServed < 64 ∧ (3, 7) ∈ x.waiting ∧ (∀ e ∈ x.waiting, e.1 = 3) ∧ (Slice.tenant (sSl l) 0 15 3).level = l := by decide +kernel

/-- A store to line 2 of chain 0 that has issued, and the state whose chain is `c`. -/
def pendCh : Pending := { id := 1, agent := .holder 1, ch := some 0, line := 128, mask := 0xFF, val := 7 }
def sLn (c : Chain) (p : List Pending) : State := { sCh h9 c with dies := [{ m := { pend := p } }, {}, {}, {}] }
theorem witness_ChainsAndDurableStores_head : let s := sLn chain2 [pendCh]
    (s.die 0).m.pend = pendCh :: [] ∧ pendCh.ver = none ∧ pendCh.op = .store ∧ (s.chain 0).running = true ∧ firstOfLine s pendCh = true ∧ inOrder s pendCh = true ∧ pendCh.line % 64 = 0 ∧ reaches s 0 ((s.chain 0).link 0).die = true ∧ 2 ≤ (s.chain 0).links.length ∧ (s.chain 0).cellar = false ∧
    ((s.chain 0).link 0).dirty.length < 4096 ∧ inCellar (((s.chain 0).link 0).pb + 128) = false ∧ ((s.chain 0).link 0).pb % 64 = 0 ∧ Memory.wf s.mem.bytes = true := by decide +kernel
/-- Three links; a line has been forwarded to the second, and an acknowledgement to the first. -/
def chain3 : Chain := { st := .active, np := 1, owner := 5, links := [{ pb := 0x1000000, acks := [1] }, { die := 1, pb := 0x3000000000, fwd := [{ line := 2, ver := 1 }] }, { die := 2, pb := 0x6000000000 }] }
theorem witness_ChainsAndDurableStores_middle : let c := (sLn chain3 []).chain 0
    1 + 1 < c.links.length ∧ (c.link 1).fwd = { line := 2, ver := 1 } :: [] ∧ (c.link 1).failed = false ∧ c.roomAt (sLn chain3 []) 1 2 1 = true ∧ (∀ e ∈ (c.link 1).dirty, e.line ≠ 2) ∧ (c.link 0).acks = 1 :: [] ∧
    c.st ≠ .free ∧ c.st ≠ .orphan ∧ c.linkOn 1 = some 1 := by decide +kernel
theorem witness_ChainsAndDurableStores_tail : let c := (sLn { chain2 with links := [{ pb := 0x1000000 }, { die := 1, pb := 0x3000000000, fwd := [{ line := 2, ver := 1 }] }] } []).chain 0
    0 + 2 = c.links.length ∧ (c.link 1).fwd = { line := 2, ver := 1 } :: [] ∧ (c.link 1).failed = false ∧ c.cellar = false ∧ c.cand = none ∧ c.roomAt s9 1 2 1 = true := by decide +kernel
theorem witness_ChainsAndDurableStores_candidate : let l : ChainLink := { die := 2, pb := 0x6000000000 }
    ∀ n ∈ [63, 64], let c := (sLn { chain2 with cand := some l, st := .catchup, prog := n } []).chain 0
      c.cand = some l ∧ c.st = .catchup ∧ c.cellar = false ∧ c.prog = n ∧ ∀ x ∈ c.links ++ [l], x.failed = false := by decide +kernel
/-- A host store to the last Cellar line of die 1. -/
def pendHost : Pending := { id := 1, line := 0x2FFFFFFFFC0, mask := 1, val := 7 }
theorem witness_ChainsAndDurableStores_durable : let s := sLn {} [pendHost]
    (s.die 0).m.pend = pendHost :: [] ∧ pendHost.ch = none ∧ pendHost.agent = .host ∧ pendHost.die = 0 ∧ reaches s 0 (dieOfPa pendHost.line) = true ∧ firstOfLine s pendHost = true ∧ pendHost.op = .store ∧ pendHost.line % 64 = 0 ∧ inCellar pendHost.line = true ∧ inBacking s pendHost.line = false ∧
    s.dies.length = 4 ∧ s.host.huok = true ∧ (s.die (dieOfPa pendHost.line)).m.pb.length < pbLines ∧ Memory.wf s.mem.bytes = true ∧ s.pbLine? pendHost.line = none := by decide +kernel
theorem witness_ChainsAndDurableStores_waits : let x : Pending := { pendHost with id := 2 }
    let s : State := { sLn {} [x] with dies := [{ m := { pend := [x] } }, { m := { pend := [pendHost] } }, {}, {}] }
    (s.die 0).m.pend = x :: [] ∧ x.ch = none ∧ firstOfLine s x = false := by decide +kernel
theorem witness_ChainsAndDurableStores_drain : let s : State := { s9 with dies := [{ m := { pb := [(0x800000000, { val := 7 })] } }, {}, {}, {}] }
    (s.die 0).m.pb = (0x800000000, { val := 7 }) :: [] ∧ Memory.wf s.mem.bytes = true := by decide +kernel

/-- A callee whose image streams in, and its caller. -/
def kLoad : Holder := { kid 0 with id := { (kid 0).id with life := .loading }, fn := { image := 0x100000, args := [9] } }
def cLoad : Holder := { h9 with th := { th9 with wait := .call 7 4 2 } }
theorem witness_LoadsAndPlacement_load : let s := sC cLoad kLoad
    s.h? 2 = some kLoad ∧ kLoad.id.inst = 2 ∧ kLoad.id.life = .loading ∧ kLoad.id.kind = .callee ∧ s.h? kLoad.id.parent = some cLoad ∧ kLoad.id.parent ≠ 2 ∧
    cLoad.th.wait = .call 7 kLoad.id.callerPort 2 ∧ loadWaits s kLoad = false ∧ kLoad.id.callerPort < cLoad.ports.length ∧ kLoad.ports.length = 16 := by decide +kernel
theorem witness_LoadsAndPlacement_load_fails : ∃ r, loadHolder (shapeUse (sC cLoad kLoad) kLoad false) kLoad kLoad.fn.image kLoad.eps = .error r := ⟨_, rfl⟩
/-- A mapping of the function, whose graph has another digest, and one whose graph stands at an address that is not mapped. -/
def mapR : MapReq := { pid := 5, fidx := 0, digest := 0 }
def sMap (more : List (Nat × Byte)) : State :=
  { sCall h9 with mem := { bytes := [(0x800, 0x01), (0x801, 0x10), (0x1000, 0x2F)] ++ more ++ fnEntry }, dies := [{ p := { maps := [mapR] } }, {}, {}, {}] }
theorem witness_LoadsAndPlacement_mapping : ((sMap []).die 0).p.maps = mapR :: [] ∧ mapR.fail = none ∧ ftWaits (sMap []) 5 0 0 = false ∧ readFt (sMap []) 5 0 0 = .ok fn1 ∧
    vaWaits (sMap []) 5 0 fn1.graph fn1.gsize = false ∧ vaWaits (sMap []) 5 0 fn1.code (4 * fn1.ncode) = false ∧ readBytes (sMap []) 5 0 fn1.graph fn1.gsize = some [] ∧
    readItems (sMap []) 5 0 fn1.code 4 fn1.ncode = some [0] ∧ BitVec.ofNat 384 fn1.digest = mapR.digest ∧ fn1.cls = mapR.cls ∧
    graphFail fn1 [] (mapKey mapR fn1 0) = some (9, 0xFFFF) :=
  ⟨rfl, rfl, by decide +kernel, okEq (by decide +kernel), by decide +kernel, by decide +kernel, by decide +kernel, by decide +kernel, by decide, rfl, by decide +kernel⟩
/-- The entry no longer has the key that was asked for. -/
theorem witness_LoadsAndPlacement_mapping_changed : BitVec.ofNat 384 fn1.digest ≠ ({ mapR with digest := 1 } : MapReq).digest := by decide
theorem witness_LoadsAndPlacement_mapping_unreadable : readFt (sMap [(0x4035, 1), (0x4038, 1)]) 5 0 0 = .ok { fn1 with graph := 2 ^ 40, gsize := 1 } ∧
    readBytes (sMap [(0x4035, 1), (0x4038, 1)]) 5 0 (2 ^ 40) 1 = none := ⟨okEq (by decide +kernel), by decide +kernel⟩
/-- The section of a graph without elements, which passes; what the mapping makes of it is free (log 7), and there is room for its entry. -/
def gr0 : List Byte := List.replicate 16 0
theorem witness_LoadsAndPlacement_mapping_passes : graphFail { fn1 with digest := (digestLE gr0).toNat } gr0 0 = none ∧ ((sMap []).die 0).p.shapes.length < 1024 := by decide +kernel
theorem witness_LoadsAndPlacement_restore : let k := kPr .restoring {}
    k.id.life = .restoring ∧ loadCheck (configBack (sPr k) k) ((configBack (sPr k) k).dp.cfg.map frameNum) [] = none ∧ k.saved.frames = [] ∧ k.saved.foldFrames = [] ∧ k.eps = [] ∧ (k.ep 0).bind = none ∧ (sPr k).h? 2 = some k := by decide +kernel
/-- A callee too wide for any die waits at the head; the image behind it has gone, and its request is served by dropping it. -/
def kBig : Holder := { kid 0 with id := { (kid 0).id with life := .queued, w := 99, h := 1 } }
def sPq : State := { sC h9 kBig with dies := [{ p := { queue := [.call 2, .image 9] } }, {}, {}, {}] }
theorem witness_LoadsAndPlacement_queue : (sPq.die 0).p.queue = [.call 2] ++ PlaceReq.image 9 :: [] ∧ (sPq.die 0).p.headBlock = false ∧ (sPq.die 0).p.passed < 64 ∧ (∀ x ∈ [PlaceReq.call 2], reqFits sPq 0 x = false) ∧
    reqFits sPq 0 (.image 9) = true ∧ blockedOn sPq 0 (fun _ => true) = [] := by decide +kernel
/-- A gang of one member that waits, with its plan, and whether its cell is reserved. -/
def sGp (r : Bool) : State := { s9 with hold := [(2, { mem 2 0 with id := { (mem 2 0).id with life := .queued } })]
                                        pkg := { gangs := [(1, { pid := 5, members := [2], dieMask := 1, plan := [(0, 3, 4)] })] }
                                        dies := [{ p := { area := if r then [(52, { st := 3, owner := 1, pid := 5 })] else [] } }, {}, {}, {}] }
theorem witness_LoadsAndPlacement_reserve : (wantedBy (sGp false) 0 52).isSome = true ∧ ((sGp false).area 0 52).state = 0 := by decide +kernel
theorem witness_LoadsAndPlacement_gang : ∃ g, (sGp true).pkg.gangs.find 1 = some g ∧ g.placed = false ∧ g.restoring = false ∧
    (∀ x ∈ planCells (sGp true) g, ((sGp true).area x.1 x.2).state = 3 ∧ ((sGp true).area x.1 x.2).owner = 1) ∧ (g.members.zip g.plan) ≠ [] :=
  ⟨_, rfl, rfl, rfl, by decide +kernel, by decide⟩

/-- A task whose control block is at 0x2000 and cannot be placed: the die is full of other residencies. -/
def sTk (p : DiePlace) : State := { stS h9 (tcbWords 0) [] with dies := [{ fcyc := 600, p := p }, {}, {}, {}] }
theorem witness_TasksMoveOn_nothing : ((sTk { badRings := [(5, 0)] }).die 0).p.nodes = [] ∧ ∀ x ∈ ((sTk {}).die 0).p.pool, dispatchFresh (sTk {}) x.pid x.tcb 0 = none := by decide +kernel
/-- A ready task of the function, its binding table at 0x6000, and the state that remains when it leaves the pool. -/
def sDisp (pool : List PoolEnt) : State :=
  { s9 with mem := { bytes := [(0x800, 0x01), (0x801, 0x10), (0x1000, 0x2F), (0x2004, 2), (0x2019, 0x60)] ++ fnEntry }
            pkg := { ctxs := [(5, { ptroot := 0x800, ftab := 0x4000, ftabn := 1 })], nextInst := 2 }, dies := [{ p := { pool := pool } }, {}, {}, {}] }
theorem witness_TasksMoveOn_dispatch : ∃ pa v, ((sDisp [{ tcb := 0x2000, pid := 5 }]).die 0).p.nodes = [] ∧ [{ tcb := 0x2000, pid := 5 }].foldl (fun l x => insertEnt x l) [] = [] ++ ({ tcb := 0x2000, pid := 5 } : PoolEnt) :: [] ∧
    (dispatchFresh (sDisp [{ tcb := 0x2000, pid := 5 }]) 5 0x2000 0).isSome = true ∧ tcbRead (sDisp []) 5 0x2000 = some (pa, v, sDisp []) ∧ tcbKind v = 0 ∧ queueLeaves (sDisp []) 0 = true ∧
    ftWaits (sDisp []) 5 0 (tcbFidx v) = false ∧ readFt (sDisp []) 5 0 (tcbFidx v) = .ok fn1 ∧ taskWaits (sDisp []) 5 0 0x2000 1 = false ∧ idleMatch (sDisp []) 0 5 fn1 = none ∧
    scanDie (sDisp []) 0 1 1 (fun a => a.state == 0 && a.meets 0) = some (0, 0) :=
  ⟨0x2000, 2 * 2 ^ 32 + 0x60 * 2 ^ 200, rfl, rfl, by decide +kernel, by decide +kernel, by decide, by decide +kernel, by decide +kernel, okEq (by decide +kernel), by decide +kernel, by decide +kernel, by decide +kernel⟩
theorem witness_TasksMoveOn_old : ∀ n ∈ [6, 7], (({ tcb := 0x2000, pid := 5, prio := n, age := 4096 } : PoolEnt).age = 4096) ∧
    ((sTk { pool := [{ tcb := 0x2000, pid := 5, prio := n, age := 4096 }] }).die 0).p.pool = [] ++ ({ tcb := 0x2000, pid := 5, prio := n, age := 4096 } : PoolEnt) :: [] := by decide +kernel
/-- Process 5's overflow ring on die 0, with one record. -/
def ringWords : List (Nat × Byte) := [(0x1FFFF2041, 0x30), (0x1FFFF2048, 4), (0x1FFFF2058, 1)]
def sRing : State := { stS h9 [(0x3001, 0x20)] ringWords with dies := [{ p := { badRings := [(5, 0)] } }, {}, {}, {}] }
theorem witness_TasksMoveOn_ring : ovRing { sRing with dies := List.replicate 4 {} } 5 0 = some (0x3000, 4, 0, 1) ∧ ringNext { sRing with dies := List.replicate 4 {} } 0 = some 5 ∧
    word64 sRing 5 0x3000 = some 0x2000 ∧ (sRing.die 0).p.badRings = [] ++ (5, 0) :: [] ∧ (ovRing sRing 5 0).isSome = true := by decide +kernel
/-- A task that has halted. -/
def hTask : Holder := { res { th9 with halted := true } with id := { inst := 1, pid := 5, kind := .task }, fn := { tcb := 0x2000 } }
theorem witness_TasksMoveOn_end : let s := stS hTask (tcbWords 0) []
    ∃ v, s.h? 1 = some hTask ∧ hTask.id.inst = 1 ∧ hTask.id.life = .placed ∧ hTask.th.halted = true ∧ hTask.th.sys.run = false ∧ hTask.ev.draining = false ∧ hTask.ev.rackBy = none ∧
      hTask.ev.released = 0 ∧ allAccepted s hTask = true ∧ tcbRead s 5 0x2000 = some (0x2000, v, s) ∧ tcbNsucc v = 0 ∧ releaseFrom 5 0 hTask.agent (tcbSucc v) (tcbNsucc v - 0) 0 s = (0, s) ∧ ((rearm s 5 0x2000).h? 1).isSome = true :=
  ⟨2 ^ 32, by decide +kernel, rfl, rfl, rfl, rfl, rfl, rfl, rfl, by decide +kernel, by decide +kernel, by decide, by decide +kernel, by decide +kernel⟩

theorem witness_HostPort_memory : 0x3FF8 % 64 + 8 ≤ 64 ∧ bar4Ok 0x3FF8 8 = true ∧ inCellar (normPa 0x3FF8) = false ∧ (∀ i < 8, inBacking State.reset (normPa 0x3FF8 + i) = false) ∧
    Memory.wf State.reset.mem.bytes = true ∧ iposAt (completed State.reset true) 0x3FF8 = false ∧ iposAt (completed State.reset true) 0x3FFF = false := by decide +kernel
theorem witness_HostPort_registers : s9.dies.length = 4 ∧ 0x70000 ≤ 0x703F8 ∧ 0x703F8 % 8 = 0 ∧ (600 : W64).toNat = 600 := by decide +kernel
/-- The page of host range entries, entry 0 in ingress mode (R293, R295). -/
def hostWords : List (Nat × Byte) := [(0x1FFFF0008, 64), (0x1FFFF0018, 9)]
theorem witness_HostPort_ingress : let s := stS h9 [] hostWords
    ∃ pa, hbmAt s 5 (iposVa 0) false = some pa ∧ ingress s 5 0 = true ∧ pa % 8 = 0 ∧ inCellar pa = false ∧ inBacking s pa = false ∧ Memory.wf s.mem.bytes = true :=
  ⟨0x1FFFF0010, by decide +kernel, by decide +kernel, by decide, by decide, by decide +kernel, by decide +kernel⟩
theorem witness_PowerResetAndLifeCycle : s9.dies.length = 4 ∧ s9.host.huok = true ∧ (sHost { throttle := true }).host.throttle = true ∧ ∀ d < 4, (s9.die d).m.pb = [] := by decide +kernel
theorem witness_PowerResetAndLifeCycle_life : s9.dies.length = 4 ∧ s9.host.atstat.getLsbD 63 = false ∧ (s9.host.lifeCycle, 1) ∈ [(0, 1), (1, 2), (2, 3), (3, 1)] ∧
    (sHost { atstat := 2 ^ 63 }).host.atstat.getLsbD 63 = true ∧ ∀ e ∈ (sC (mem 1 0) (mem 2 0)).hold, e.2.id.kind ≠ .named := by decide +kernel
theorem witness_PowerLossKeepsAcceptedLines : let s : State := { s9 with dies := [{ m := { pb := [(0x800000000, { val := 7 })] } }, {}, {}, {}] }
    s.dies.length = 4 ∧ Memory.wf s.mem.bytes = true ∧ ∀ d < 4, Tbl.risingFrom 0 (s.die d).m.pb = true ∧ ∀ x ∈ (s.die d).m.pb, inCellar (64 * x.1) = true ∧ dieOfPa (64 * x.1) = d := by decide +kernel
/-- A thread whose word at 9 is GBAR, and whose turn it is. -/
def sTurn (l : List Turn) : State := { st (res { th9 with code := List.replicate 9 0 ++ [0xB4400000] }) with agenda := l }
theorem witness_StepRunsTheDecodedInstruction : ∃ h, (sTurn [.thread 1]).h? 1 = some h ∧ (sTurn [.thread 1]).agenda = .thread 1 :: [] ∧ h.runs = true ∧ h.th.asleep = false ∧ h.th.mayIssue = true ∧ h.th.pfx = {} ∧
    decodeWord (h.th.word (h.th.pc + h.th.pfx.len)).toNat = .ok .gbar ∧ (sTurn [.thread 1]).host.stopped = false := ⟨_, rfl, rfl, by decide +kernel, rfl, by decide +kernel, rfl, okEq (by decide +kernel), rfl⟩
theorem witness_StepRunsTheDecodedInstruction_other : (sTurn [.cycle 0]).agenda = .cycle 0 :: [] ∧ 0 < (sTurn []).dies.length ∧ (sTurn [.lead 1]).agenda = .lead 1 :: [] ∧ (sTurn [.event .pwrfail]).agenda = .event .pwrfail :: [] ∧ Instr.pwrfail.isStep = true ∧
    (∀ t ∈ [Turn.thread 1, .follow 1], ({ st (hBehind [] []) with agenda := [t] } : State).h? 1 = some (hBehind [] [])) ∧
    (hBehind [] []).runs = true ∧ (hBehind [] []).th.mayIssue = false ∧ extAccepts (BitVec.ofNat 32 0x18E7DEF0).toNat 5 = true ∧ hZ.th.asleep = true := by decide +kernel
theorem witness_DecodeInvertsEncode : Instr.wf (.oriE ⟨7, 7, 0xDEF0⟩) = true ∧ encode (.oriE ⟨7, 7, 0xDEF0⟩) = some 0x18E7DEF0 := by decide
theorem witness_EncodeInvertsDecode : 0x18E7DEF0 < 2 ^ 32 ∧ dec 0x18E7DEF0 = some (.oriE ⟨7, 7, 0xDEF0⟩) := by decide
theorem witness_ClocksAgreeAfterEveryStep : (∀ d ∈ State.reset.dies, d.scyc = d.fcyc + d.fcyc) ∧ (match step (sTurn [.cycle 0]) with | .next t => (t.die 0).scyc == 2 | _ => false) = true := by decide +kernel
theorem witness_OnlyALossOfPowerStopsTheMachine : s9.host.stopped = false ∧ (sHost { stopped := true }).host.stopped = true ∧ (Turn.cycle 0 ≠ .event .reset) := by decide +kernel
theorem witness_LinesReadWhatWasWritten : s9.dies.length = 4 ∧ Memory.wf s9.mem.bytes = true ∧ s9.host.huok = true := by decide +kernel

end Sys2Proof.Tests
end

/-! PROOFS. The integer functions on registers (R134 to R136): how a register instruction ends, the arithmetic of each function, and the
function that each row of the manual's tables runs. -/

namespace Sys2Proof.Machine

/-! ## How a register instruction ends -/

/-- Register 0 of either unit reads 0 (R114). -/
@[simp] theorem Thread.get_zero (t : Thread) (e : Bool) : t.get e 0 = 0 := by
  cases e
  · exact regGet_zero t.regs.a
  · exact regGet_zero t.regs.s

/-- The state after an instruction of the current holder retires. -/
theorem State.retire_eq_setH {s : State} {h : Holder} (hm : s.me? = some h) (t : Thread) :
    s.retire (fun _ => t) = s.setH s.cur { h with th := t.retire } := by
  have hf : s.hold.find s.cur = some h := hm
  simp [State.retire, State.modTh, State.modH, State.setH, Tbl.modify, hf]

/-- Retiring after a write of register d leaves every other register (R114, R134). -/
theorem Thread.retire_set_wrote (t : Thread) (e : Bool) (d : Reg) (v : W64) : wrote e d v t (t.set e d v).retire := by
  refine ⟨fun r => ?_, fun r => ?_⟩
  · rw [Thread.retire_get, Thread.get_set]
    by_cases hr : r = d
    · by_cases hd : d = 0 <;> simp [hr, hd]
    · simp [hr]
  · rw [Thread.retire_get, Thread.get_set_other]

/-- Retiring changes no part of the thread that `quiet` names. -/
theorem Thread.retire_quiet (t : Thread) : quiet t t.retire := by
  obtain ⟨p, a, e, r, h⟩ := t.retire_frame
  rw [h]
  simp [quiet]

/-- A unit that stands at the word passes it (R118). -/
theorem Thread.pass_passed (t : Thread) (i : Nat) : passed t (t.pass i) i := by
  cases h : t.ahead with
  | none => simp [passed, Thread.pass_level h, h]
  | some e => cases e <;> simp [passed, Thread.pass_ahead h, h]

/-- Retiring takes the thread on (R118, R144). -/
theorem Thread.retire_advanced (t : Thread) : advanced t t.retire := by
  refine ⟨t.retire_wait, fun hrep => ?_⟩
  obtain ⟨a, e, hpass⟩ := t.pass_frame (t.pc + t.pfx.len + 1)
  rw [t.retire_plain hrep]
  exact ⟨t.pass_passed _, rfl, by rw [hpass]⟩

/-- The instruction completes with `v` in register d of unit `e`, and only the thread has changed (R134). -/
def completes (o : Out) (s : State) (h : Holder) (e : Bool) (d : Reg) (v : W64) : Prop :=
  ∃ th, o = .next (s.setH s.cur { h with th := th }) ∧ wrote e d v h.th th ∧ quiet h.th th ∧ advanced h.th th

/-- A register instruction whose function writes register d completes: `quiet` and `advanced` compare no register, so that what
retiring does they say of the thread before the write as well. -/
theorem finish_completes {s : State} {h : Holder} {g : Thread → Except Nat Thread} {e : Bool} {d : Reg} {v : W64}
    (hm : s.me? = some h) (hg : g h.th = .ok (h.th.set e d v)) : completes (finish s g) s h e d v := by
  have hquiet : quiet h.th (h.th.set e d v).retire := by
    cases e <;> exact (Thread.set h.th _ d v).retire_quiet
  have hadvanced : advanced h.th (h.th.set e d v).retire := by
    cases e <;> exact (Thread.set h.th _ d v).retire_advanced
  exact ⟨_, by rw [finish_ok g hm hg, State.retire_eq_setH hm], h.th.retire_set_wrote e d v, hquiet, hadvanced⟩

/-- `op d, a` on registers alone. -/
theorem alu2_reg (e : Bool) (op : W64 → W64) (f : R2) (t : Thread) (hd : f.qd = false) (ha : f.qa = false) :
    alu2 e op f t = .ok (t.set e f.d (op (t.get e f.a))) := by
  simp only [alu2, hd, ha, srcOp_reg, dstOp_reg]; rfl

/-- `op d, a, b` that also reads d, on registers alone. -/
theorem aluT_reg (e : Bool) (op : W64 → W64 → W64 → W64) (f : RT) (t : Thread) (ha : f.qa = false) (hb : f.qb = false) :
    aluT e op f t = .ok (t.set e f.d (op (t.get e f.d) (t.get e f.a) (t.get e f.b))) := by
  simp only [aluT, ha, hb, srcOp_reg, dstOp_reg]; rfl

/-! ## The arithmetic of the functions (R135, R136) -/

/-- A value is the number that it stands for. -/
theorem eq_ofN {x : W64} {n : Nat} (h : x.toNat = n) : x = ofN n := by
  rw [← h, ofN, BitVec.ofNat_toNat, BitVec.setWidth_eq]

/-- A value is the number that its 64 bits keep of it. -/
theorem eq_ofN_of_mod {x : W64} {n : Nat} (h : x.toNat = n % 2 ^ 64) : x = ofN n :=
  BitVec.eq_of_toNat_eq (by rw [h, ofN, BitVec.toNat_ofNat])

/-- A value is the integer that it stands for. -/
theorem eq_ofZ {x : W64} {z : Int} (h : x.toInt = z) : x = ofZ z := by
  rw [← h, ofZ, BitVec.ofInt_toInt]

theorem add_eq_ofN (a b : W64) : a + b = ofN (a.toNat + b.toNat) := eq_ofN_of_mod (BitVec.toNat_add a b)

theorem sub_eq_ofZ (a b : W64) : a - b = ofZ (a.toInt - b.toInt) :=
  BitVec.eq_of_toInt_eq (by rw [BitVec.toInt_sub, ofZ, BitVec.toInt_ofInt])

theorem mul_eq_ofN (a b : W64) : a * b = ofN (a.toNat * b.toNat) := eq_ofN_of_mod (BitVec.toNat_mul a b)

theorem and_eq_ofN (a b : W64) : a &&& b = ofN (a.toNat &&& b.toNat) := eq_ofN (BitVec.toNat_and a b)

theorem or_eq_ofN (a b : W64) : a ||| b = ofN (a.toNat ||| b.toNat) := eq_ofN (BitVec.toNat_or a b)

theorem xor_eq_ofN (a b : W64) : a ^^^ b = ofN (a.toNat ^^^ b.toNat) := eq_ofN (BitVec.toNat_xor a b)

/-- The bits of a that b has, and those that it has not, add up to a. -/
theorem opAndn_eq_ofN (a b : W64) : opAndn a b = ofN (a.toNat - (a.toNat &&& b.toNat)) := by
  have hdisjoint : (a &&& b) &&& (a &&& ~~~b) = 0#64 := by ext i hi; cases hb : b[i] <;> simp [hb]
  have hor : (a &&& b) ||| (a &&& ~~~b) = a := by ext i hi; cases hb : b[i] <;> simp [hb]
  have hsum : (a &&& b).toNat + (a &&& ~~~b).toNat = a.toNat := by
    rw [← BitVec.toNat_add_of_and_eq_zero hdisjoint, BitVec.add_eq_or_of_and_eq_zero _ _ hdisjoint, hor]
  rw [← BitVec.toNat_and]
  exact eq_ofN (Nat.eq_sub_of_add_eq' hsum)

theorem shiftLeft_eq_ofN (a : W64) (n : Nat) : a <<< n = ofN (a.toNat * 2 ^ n) :=
  eq_ofN_of_mod (by rw [BitVec.toNat_shiftLeft, Nat.shiftLeft_eq])

theorem shiftRight_eq_ofN (a : W64) (n : Nat) : a >>> n = ofN (a.toNat / 2 ^ n) :=
  eq_ofN (by rw [BitVec.toNat_ushiftRight, Nat.shiftRight_eq_div_pow])

theorem sshiftRight_eq_ofZ (a : W64) (n : Nat) : a.sshiftRight n = ofZ (a.toInt / 2 ^ n) :=
  eq_ofZ (by rw [BitVec.toInt_sshiftRight, Int.shiftRight_eq_div_pow, Int.natCast_pow, Int.cast_ofNat_Int])

/-- The two shifts of a rotate fill different bits, so that they add up. -/
theorem shifts_or_eq_ofN (a : W64) {n m : Nat} (h : n + m = 64) :
    a <<< n ||| a >>> m = ofN (a.toNat * 2 ^ n + a.toNat / 2 ^ m) := by
  have hdisjoint : (a <<< n) &&& (a >>> m) = 0#64 := by
    ext i hi
    by_cases hn : i < n
    · simp [hn]
    · simp [BitVec.getLsbD_of_ge a (m + i) (by omega)]
  rw [← BitVec.add_eq_or_of_and_eq_zero _ _ hdisjoint, shiftLeft_eq_ofN, shiftRight_eq_ofN]
  exact BitVec.ofNat_add_ofNat _ _

theorem opSll_eq_ofN (a b : W64) : opSll a b = ofN (a.toNat * 2 ^ (b.toNat % 64)) := shiftLeft_eq_ofN a (amount b)

theorem opSrl_eq_ofN (a b : W64) : opSrl a b = ofN (a.toNat / 2 ^ (b.toNat % 64)) := shiftRight_eq_ofN a (amount b)

theorem opSra_eq_ofZ (a b : W64) : opSra a b = ofZ (a.toInt / 2 ^ (b.toNat % 64)) := sshiftRight_eq_ofZ a (amount b)

theorem opRol_eq_ofN (a b : W64) : opRol a b = ofN (a.toNat * 2 ^ (b.toNat % 64) + a.toNat / 2 ^ (64 - b.toNat % 64)) := by
  rw [opRol, amount, BitVec.rotateLeft_def, Nat.mod_mod, shifts_or_eq_ofN a (by omega)]

theorem opRor_eq_ofN (a b : W64) : opRor a b = ofN (a.toNat / 2 ^ (b.toNat % 64) + a.toNat * 2 ^ (64 - b.toNat % 64)) := by
  rw [opRor, amount, BitVec.rotateRight_def, Nat.mod_mod, BitVec.or_comm, shifts_or_eq_ofN a (by omega), Nat.add_comm]

theorem opMulh_eq_ofZ (a b : W64) : opMulh a b = ofZ (a.toInt * b.toInt / 2 ^ 64) := rfl

theorem opMulhu_eq_ofN (a b : W64) : opMulhu a b = ofN (a.toNat * b.toNat / 2 ^ 64) := rfl

theorem opMin_eq_ofZ (a b : W64) : opMin a b = ofZ (min a.toInt b.toInt) :=
  eq_ofZ (by simp only [opMin, ltS, decide_eq_true_eq, apply_ite BitVec.toInt]; split <;> omega)

theorem opMax_eq_ofZ (a b : W64) : opMax a b = ofZ (max a.toInt b.toInt) :=
  eq_ofZ (by simp only [opMax, ltS, decide_eq_true_eq, apply_ite BitVec.toInt]; split <;> omega)

theorem opMinu_eq_ofN (a b : W64) : opMinu a b = ofN (min a.toNat b.toNat) :=
  eq_ofN (by simp only [opMinu, ltU, decide_eq_true_eq, apply_ite BitVec.toNat]; split <;> omega)

theorem opMaxu_eq_ofN (a b : W64) : opMaxu a b = ofN (max a.toNat b.toNat) :=
  eq_ofN (by simp only [opMaxu, ltU, decide_eq_true_eq, apply_ite BitVec.toNat]; split <;> omega)

/-- A compare result is the truth of what its condition decides (R116). -/
theorem flag_eq_truth {c : Bool} {p : Prop} [Decidable p] (h : c = true ↔ p) : flag c = truth p := by
  by_cases hp : p
  · simp [flag, truth, hp, h.2 hp]
  · simp [flag, truth, hp, mt h.1 hp]

theorem opSeq_eq_truth (a b : W64) : opSeq a b = truth (a.toNat = b.toNat) :=
  flag_eq_truth (by rw [beq_iff_eq, BitVec.toNat_inj])

theorem opSne_eq_truth (a b : W64) : opSne a b = truth (a.toNat ≠ b.toNat) :=
  flag_eq_truth (by rw [bne_iff_ne, Ne, Ne, BitVec.toNat_inj])

theorem opSlt_eq_truth (a b : W64) : opSlt a b = truth (a.toInt < b.toInt) := flag_eq_truth decide_eq_true_iff

theorem opSltu_eq_truth (a b : W64) : opSltu a b = truth (a.toNat < b.toNat) := flag_eq_truth decide_eq_true_iff

/-! ### Division (R136) -/

/-- A natural number is not below 0. -/
theorem not_ofNat_neg (k : Nat) : ¬ Int.ofNat k < 0 := Int.not_lt.2 (Int.natCast_nonneg k)

/-- A quotient that is rounded toward zero, by the magnitudes and the signs. -/
theorem tdiv_eq_natAbs (x y : Int) :
    x.tdiv y = if x < 0 ↔ y < 0 then ((x.natAbs / y.natAbs : Nat) : Int) else -((x.natAbs / y.natAbs : Nat) : Int) := by
  cases x with
  | ofNat m => cases y with
    | ofNat n => rw [if_pos (iff_of_false (not_ofNat_neg m) (not_ofNat_neg n))]; rfl
    | negSucc n => rw [if_neg fun h => not_ofNat_neg m (h.2 (Int.negSucc_lt_zero n))]; rfl
  | negSucc m => cases y with
    | ofNat n => rw [if_neg fun h => not_ofNat_neg n (h.1 (Int.negSucc_lt_zero m))]; rfl
    | negSucc n => rw [if_pos (iff_of_true (Int.negSucc_lt_zero m) (Int.negSucc_lt_zero n))]; rfl

/-- Its remainder takes the sign of the dividend. -/
theorem tmod_eq_natAbs (x y : Int) :
    x.tmod y = if x < 0 then -((x.natAbs % y.natAbs : Nat) : Int) else ((x.natAbs % y.natAbs : Nat) : Int) := by
  cases x with
  | ofNat m => rw [if_neg (not_ofNat_neg m)]; cases y <;> rfl
  | negSucc m => rw [if_pos (Int.negSucc_lt_zero m)]; cases y <;> rfl

theorem toNat_eq_zero_iff (b : W64) : b.toNat = 0 ↔ b = 0 := by
  rw [← BitVec.toNat_inj]; rfl

theorem opDiv_eq (a b : W64) : opDiv a b = if b.toNat = 0 then ofZ (-1) else
    if a.toInt < 0 ↔ b.toInt < 0 then ofN (a.toInt.natAbs / b.toInt.natAbs) else ofZ (-((a.toInt.natAbs / b.toInt.natAbs : Nat) : Int)) := by
  rw [opDiv, tdiv_eq_natAbs]
  simp only [toNat_eq_zero_iff]
  split
  · rfl
  · split
    · exact BitVec.ofInt_natCast _ _
    · rfl

theorem opDivu_eq (a b : W64) : opDivu a b = if b.toNat = 0 then ofN (2 ^ 64 - 1) else ofN (a.toNat / b.toNat) := by
  simp only [opDivu, toNat_eq_zero_iff]; rfl

theorem opRem_eq (a b : W64) : opRem a b = if b.toNat = 0 then a else
    if a.toInt < 0 then ofZ (-((a.toInt.natAbs % b.toInt.natAbs : Nat) : Int)) else ofN (a.toInt.natAbs % b.toInt.natAbs) := by
  rw [opRem, tmod_eq_natAbs]
  simp only [toNat_eq_zero_iff]
  split
  · rfl
  · split
    · rfl
    · exact BitVec.ofInt_natCast _ _

theorem opRemu_eq (a b : W64) : opRemu a b = if b.toNat = 0 then a else ofN (a.toNat % b.toNat) := by
  simp only [opRemu, toNat_eq_zero_iff]; rfl

/-! ### Functions of one operand (R135) -/

theorem opClz_eq_ofN (a : W64) : opClz a = ofN (if a.toNat = 0 then 64 else 63 - a.toNat.log2) := by
  simp only [opClz, toNat_eq_zero_iff]; rfl

/-- A sum of bits counts the bits that are set. -/
theorem foldl_b2n_eq_length_filter (p : Nat → Bool) (l : List Nat) (n : Nat) :
    l.foldl (fun n i => n + b2n (p i)) n = n + (l.filter p).length := by
  induction l generalizing n with
  | nil => rfl
  | cons i l ih =>
    rw [List.foldl_cons, ih, List.filter_cons]
    cases p i
    · rfl
    · simp only [b2n, if_true, List.length_cons]; omega

theorem opPopc_eq_ofN (a : W64) : opPopc a = ofN ((List.range 64).filter fun i => a.toNat / 2 ^ i % 2 = 1).length := by
  have hbit (i : Nat) : a.getLsbD i = decide (a.toNat / 2 ^ i % 2 = 1) := Nat.testBit_eq_decide_div_mod_eq
  simp only [opPopc, foldl_b2n_eq_length_filter, hbit, Nat.zero_add]; rfl

/-- Sign extension takes 2^n from a field whose top bit is set. -/
theorem opSx_eq_ofZ (m : Nat) (a : W64) : opSx (m + 1) a =
    ofZ (if a.toNat % 2 ^ (m + 1) < 2 ^ m then (a.toNat % 2 ^ (m + 1) : Nat) else (a.toNat % 2 ^ (m + 1) : Nat) - 2 ^ (m + 1)) := by
  have htop : 2 * (a.toNat % 2 ^ (m + 1)) < 2 ^ (m + 1) ↔ a.toNat % 2 ^ (m + 1) < 2 ^ m := by
    rw [Nat.pow_succ']; exact Nat.mul_lt_mul_left (by decide)
  rw [opSx, BitVec.signExtend, BitVec.toInt_eq_toNat_cond, BitVec.toNat_setWidth]
  simp only [htop, Int.natCast_pow, Int.cast_ofNat_Int]; rfl

theorem opSel_eq (d a b : W64) : opSel d a b = if d = 0 then b else a := by
  rw [opSel, ite_not]

/-! ## The tables -/

/-- The instruction of a row of three operands runs the function of the row on its unit (R134). -/
def runs3 (p : Bool × (R3 → Instr) × (W64 → W64 → W64)) : Prop :=
  ∀ f s, exec (p.2.1 f) s = finish s (alu3 p.1 p.2.2 f)

/-- The instruction of a row of one operand runs the function of the row on its unit (R134). -/
def runs2 (p : Bool × (R2 → Instr) × (W64 → W64)) : Prop :=
  ∀ f s, exec (p.2.1 f) s = finish s (alu2 p.1 p.2.2 f)

/-- A row agrees with the model's function. -/
theorem runs3.intro {e : Bool} {i : R3 → Instr} {op v : W64 → W64 → W64} (hop : ∀ a b, op a b = v a b)
    (hexec : ∀ f s, exec (i f) s = finish s (alu3 e op f)) : runs3 (e, i, v) := by
  obtain rfl : op = v := funext fun a => funext (hop a)
  exact hexec

/-- A row agrees with the model's function. -/
theorem runs2.intro {e : Bool} {i : R2 → Instr} {op v : W64 → W64} (hop : ∀ a, op a = v a)
    (hexec : ∀ f s, exec (i f) s = finish s (alu2 e op f)) : runs2 (e, i, v) := by
  obtain rfl : op = v := funext hop
  exact hexec

/-- On registers, the instruction of a row of three operands completes. -/
theorem runs3.completes {p : Bool × (R3 → Instr) × (W64 → W64 → W64)} (hp : runs3 p) {f : R3} {s : State} {h : Holder}
    (hm : s.me? = some h) (hd : f.qd = false) (ha : f.qa = false) (hb : f.qb = false) :
    completes (exec (p.2.1 f) s) s h p.1 f.d (p.2.2 (h.th.get p.1 f.a) (h.th.get p.1 f.b)) := by
  rw [hp f s]
  exact finish_completes hm (alu3_reg p.1 p.2.2 f h.th hd ha hb)

/-- On registers, the instruction of a row of one operand completes. -/
theorem runs2.completes {p : Bool × (R2 → Instr) × (W64 → W64)} (hp : runs2 p) {f : R2} {s : State} {h : Holder}
    (hm : s.me? = some h) (hd : f.qd = false) (ha : f.qa = false) :
    completes (exec (p.2.1 f) s) s h p.1 f.d (p.2.2 (h.th.get p.1 f.a)) := by
  rw [hp f s]
  exact finish_completes hm (alu2_reg p.1 p.2.2 f h.th hd ha)

/-- Each row of the table of three operands, in the table's order: a function of both units has two rows. -/
theorem intTable_runs : ∀ p ∈ intTable, runs3 p := by
  simp only [intTable, List.forall_mem_cons]
  exact ⟨.intro add_eq_ofN fun _ _ => rfl, .intro add_eq_ofN fun _ _ => rfl,
    .intro sub_eq_ofZ fun _ _ => rfl, .intro sub_eq_ofZ fun _ _ => rfl,
    .intro and_eq_ofN fun _ _ => rfl, .intro and_eq_ofN fun _ _ => rfl,
    .intro or_eq_ofN fun _ _ => rfl, .intro or_eq_ofN fun _ _ => rfl,
    .intro xor_eq_ofN fun _ _ => rfl, .intro xor_eq_ofN fun _ _ => rfl,
    .intro opAndn_eq_ofN fun _ _ => rfl, .intro opAndn_eq_ofN fun _ _ => rfl,
    .intro opSll_eq_ofN fun _ _ => rfl, .intro opSll_eq_ofN fun _ _ => rfl,
    .intro opSrl_eq_ofN fun _ _ => rfl, .intro opSrl_eq_ofN fun _ _ => rfl,
    .intro opSra_eq_ofZ fun _ _ => rfl, .intro opSra_eq_ofZ fun _ _ => rfl,
    .intro opRol_eq_ofN fun _ _ => rfl, .intro opRor_eq_ofN fun _ _ => rfl,
    .intro mul_eq_ofN fun _ _ => rfl, .intro mul_eq_ofN fun _ _ => rfl,
    .intro opMulh_eq_ofZ fun _ _ => rfl, .intro opMulhu_eq_ofN fun _ _ => rfl,
    .intro opMin_eq_ofZ fun _ _ => rfl, .intro opMin_eq_ofZ fun _ _ => rfl,
    .intro opMax_eq_ofZ fun _ _ => rfl, .intro opMax_eq_ofZ fun _ _ => rfl,
    .intro opMinu_eq_ofN fun _ _ => rfl, .intro opMinu_eq_ofN fun _ _ => rfl,
    .intro opMaxu_eq_ofN fun _ _ => rfl, .intro opMaxu_eq_ofN fun _ _ => rfl,
    .intro opSeq_eq_truth fun _ _ => rfl, .intro opSeq_eq_truth fun _ _ => rfl,
    .intro opSne_eq_truth fun _ _ => rfl, .intro opSne_eq_truth fun _ _ => rfl,
    .intro opSlt_eq_truth fun _ _ => rfl, .intro opSlt_eq_truth fun _ _ => rfl,
    .intro opSltu_eq_truth fun _ _ => rfl, .intro opSltu_eq_truth fun _ _ => rfl, List.forall_mem_nil _⟩

/-- Each row of the table of divisions, all of the E-unit. -/
theorem divTable_runs : ∀ p ∈ divTable, runs3 (true, p) := by
  simp only [divTable, List.forall_mem_cons]
  exact ⟨.intro opDiv_eq fun _ _ => rfl, .intro opDivu_eq fun _ _ => rfl, .intro opRem_eq fun _ _ => rfl,
    .intro opRemu_eq fun _ _ => rfl, List.forall_mem_nil _⟩

/-- Each row of the table of one operand. -/
theorem unaryTable_runs : ∀ p ∈ unaryTable, runs2 p := by
  simp only [unaryTable, List.forall_mem_cons]
  exact ⟨.intro (op := id) (fun _ => rfl) fun _ _ => rfl, .intro (op := id) (fun _ => rfl) fun _ _ => rfl,
    .intro opClz_eq_ofN fun _ _ => rfl, .intro opPopc_eq_ofN fun _ _ => rfl, .intro (opSx_eq_ofZ 7) fun _ _ => rfl,
    .intro (opSx_eq_ofZ 15) fun _ _ => rfl, .intro (opSx_eq_ofZ 31) fun _ _ => rfl, List.forall_mem_nil _⟩

/-- SEL on registers completes; it reads d before it writes it (R135). -/
theorem execSel_completes {f : RT} {s : State} {h : Holder} (hm : s.me? = some h) (ha : f.qa = false) (hb : f.qb = false) :
    completes (exec (.sel f) s) s h true f.d (if h.th.s f.d = 0 then h.th.s f.b else h.th.s f.a) := by
  rw [← opSel_eq]
  exact finish_completes hm (aluT_reg true opSel f h.th ha hb)

/-! ## The obligation -/

/-- Settles O1: the instruction of each row runs the function of its row, and a register instruction changes its thread alone. -/
theorem integerFunctions : Obligations.IntegerFunctions :=
  ⟨fun p hp _ _ _ hm hd ha hb => (intTable_runs p hp).completes hm hd ha hb,
    fun p hp _ _ _ hm hd ha hb => (divTable_runs p hp).completes hm hd ha hb,
    fun p hp _ _ _ hm hd ha => (unaryTable_runs p hp).completes hm hd ha,
    fun _ _ _ hm ha hb => execSel_completes hm ha hb⟩

end Sys2Proof.Machine

/-! PROOFS. Writes of WIDX (R268, R269). A write that runs over posts a fault record (R281), and the device's write into a fault queue whose
page is copy-on-write copies the page first (R367): the translations of the page that operators of the process hold are then discarded, so
that a holder does change. -/

namespace Sys2Proof.Machine

/-! ## The write -/

/-- One aligned 8-byte write of the notify word is classified (R268). -/
theorem exec_widx_word {s : State} {d page : Nat} {q : Queue} (v : W64) (hpage : pageQueue s d page = some q) :
    exec (.widx d page 0 8 v) s = .next (widxWrite s d q v) := by
  have hexec : exec (.widx d page 0 8 v) s = execWidx d page 0 8 v s := rfl
  rw [hexec, execWidx, hpage]
  rfl

/-- A write that advances W by more than S is a queue fault, unless the queue is stopped (R269). -/
theorem widxWrite_overrun {s : State} {d : Nat} {q : Queue} {v : W64} (hover : 2 ^ q.log2s < (v - q.w).toNat)
    (hahead : (v - q.w).toNat ≤ 2 ^ 63) (hst : q.st ≠ .stopped) :
    widxWrite s d q v = queueFault s d q.qid cQOVERRUN 0 v.toNat := by
  have hadvances : 0 < (v - q.w).toNat := Nat.zero_lt_of_lt hover
  have hrefused : ¬ (0 < (v - q.w).toNat && (v - q.w).toNat ≤ 2 ^ q.log2s && (v - q.rd).toNat ≤ 2 ^ q.log2s) = true := by
    simp [Nat.not_le.2 hover, -BitVec.toNat_sub]
  have huncounted : ¬ ((v - q.w).toNat == 0 || 2 ^ 63 < (v - q.w).toNat || q.st == .stopped) = true := by
    simp only [Bool.or_eq_true, beq_iff_eq, decide_eq_true_eq, hst, or_false]
    omega
  exact (if_neg hrefused).trans (if_neg huncounted)

/-! ## A queue whose process has its fault queue in a copy-on-write page -/

/-- A queue of S = 16 slots with W = RD = 0, served by notify page 3 of die 0. -/
def idleQueue : Queue := { qid := 2, pid := 5, npage := notifyPage 0 3, ring := 0x10000, st := .mapped }

/-- The translation that an operator holds of the fault queue's granule (R361). -/
def faultPageXent : Xent := { gran := 0x10000, kind := 1, base := 0x100000000, r := true, w := true, cow := true }

/-- A holder of the queue's process whose first cell holds that translation. -/
def xlatHolder : Holder :=
  { id := { inst := 1, pid := 5, kind := .named }, dp := { cells := [{ xlat := { held := some faultPageXent } }] } }

/-- Page tables of two pages of 4 GiB, the second of them copy-on-write (R354, R355), and the pool at 0x4000, whose ring 2 has one
frame, at 8 GiB (R365). -/
def cowTables : List (Nat × Byte) :=
  [(0x800, 0x01), (0x801, 0x10), (0x1000, 0x2F), (0x1008, 0x3F), (0x100C, 0x01),
    (0x4081, 0x50), (0x4088, 4), (0x4098, 1), (0x5004, 2)]

/-- Process 5 with that queue and that holder; its fault queue starts the copy-on-write page. -/
def cowFaultQueue : State :=
  { State.reset with
    hold := [(1, xlatHolder)]
    mem := { bytes := cowTables }
    dies := [{ q := { queues := [(2, idleQueue)], gangs := [{ key := (0, 2), mapped := true }] } }, {}, {}, {}]
    pkg := { ctxs := [(5, { ptroot := 0x800, fqbase := 0x100000000, pool := 0x4000 })], nextInst := 2 } }

/-- The translation that the first cell of holder 1 holds. -/
def heldXent (s : State) : Option Xent := (s.h? 1).bind fun h => (h.cell 0).xlat.held

theorem pageQueue_cowFaultQueue : pageQueue cowFaultQueue 0 3 = some idleQueue := by decide +kernel

theorem queueAt_cowFaultQueue : queueAt cowFaultQueue 0 idleQueue.qid idleQueue := by
  refine ⟨?_, ?_, rfl⟩ <;> decide +kernel

theorem heldXent_cowFaultQueue : heldXent cowFaultQueue = some faultPageXent := by decide +kernel

/-- The write of the fault record gives the page a frame of its own and discards the translation of the old one (R358, R367). -/
theorem heldXent_queueFault_cowFaultQueue : heldXent (queueFault cowFaultQueue 0 idleQueue.qid cQOVERRUN 0 17) = none := by
  decide +kernel

/-- A write of 17 to WIDX runs over. -/
theorem exec_widx_cowFaultQueue :
    exec (.widx 0 3 0 8 17) cowFaultQueue = .next (queueFault cowFaultQueue 0 idleQueue.qid cQOVERRUN 0 17) := by
  rw [exec_widx_word 17 pageQueue_cowFaultQueue,
    widxWrite_overrun (q := idleQueue) (v := 17) (by decide) (by decide) (by decide)]
  rfl

/-! ## The obligation -/

/-- Refutes O41 by its frame `t.hold = s.hold`, which it claims of every write: in `cowFaultQueue` a write of 17 runs over (R269), and the
fault record's write into the copy-on-write page of the fault queue takes from holder 1 the translation that it held of the page. -/
theorem not_notifyWrites : ¬ Obligations.NotifyWrites := by
  unfold Obligations.NotifyWrites
  intro hall
  obtain ⟨t, _, ⟨hexec, -⟩, hhold, -⟩ := hall cowFaultQueue 0 3 idleQueue 17 pageQueue_cowFaultQueue queueAt_cowFaultQueue
  rw [exec_widx_cowFaultQueue] at hexec
  injection hexec with hnext
  have hsame : heldXent t = heldXent cowFaultQueue := by
    simp only [heldXent, State.h?, hhold]
  rw [← hnext, heldXent_queueFault_cowFaultQueue, heldXent_cowFaultQueue] at hsame
  cases hsame

end Sys2Proof.Machine
